-- ==== Sys2Proof/Word.lean ====
section
/-!
DEFINITION. The bit-vector types of the part, and the plain containers for "one for each feed" and "one for each
channel".
-/

namespace Sys2Proof

/-- A byte on the control link or in a fragment. -/
abbrev Byte := BitVec 8

/-- One fragment's data as its bytes arrive at the ingest port (R6). The manual gives no size: the coding of picture
data belongs to the encoder outside the part (00_scope.md). -/
abbrev Fragment := List Byte

/-- FEED0 to FEED7. -/
abbrev FeedId := Fin 8

/-- CH0 to CH3. -/
abbrev ChanId := Fin 4

/-- A sparse table: (key, value) pairs with the keys strictly rising. -/
abbrev SMap (α : Type) := List (Nat × α)

/-- One value for each channel. -/
structure Quad (α : Type) where
  ch0 : α
  ch1 : α
  ch2 : α
  ch3 : α
  deriving DecidableEq, Repr

def Quad.get {α : Type} (q : Quad α) (i : ChanId) : α :=
  match i with
  | 0 => q.ch0
  | 1 => q.ch1
  | 2 => q.ch2
  | 3 => q.ch3

def Quad.set {α : Type} (q : Quad α) (i : ChanId) (v : α) : Quad α :=
  match i with
  | 0 => { q with ch0 := v }
  | 1 => { q with ch1 := v }
  | 2 => { q with ch2 := v }
  | 3 => { q with ch3 := v }

def Quad.all {α : Type} (v : α) : Quad α := ⟨v, v, v, v⟩

def Quad.map {α β : Type} (f : α → β) (q : Quad α) : Quad β := ⟨f q.ch0, f q.ch1, f q.ch2, f q.ch3⟩

@[simp] theorem Quad.get_set {α : Type} (q : Quad α) (i j : ChanId) (v : α) :
    (q.set i v).get j = if j = i then v else q.get j := by
  fin_cases i <;> fin_cases j <;> rfl

@[simp] theorem Quad.get_all {α : Type} (v : α) (i : ChanId) : (Quad.all v).get i = v := by
  fin_cases i <;> rfl

@[simp] theorem Quad.get_map {α β : Type} (f : α → β) (q : Quad α) (i : ChanId) :
    (q.map f).get i = f (q.get i) := by
  fin_cases i <;> rfl

theorem Quad.ext_get {α : Type} {p q : Quad α} (h : ∀ i, p.get i = q.get i) : p = q := by
  cases p; cases q
  have h0 := h 0; have h1 := h 1; have h2 := h 2; have h3 := h 3
  simp_all [Quad.get]

/-- One value for each feed. -/
structure Oct (α : Type) where
  f0 : α
  f1 : α
  f2 : α
  f3 : α
  f4 : α
  f5 : α
  f6 : α
  f7 : α
  deriving DecidableEq, Repr

def Oct.get {α : Type} (q : Oct α) (i : FeedId) : α :=
  match i with
  | 0 => q.f0
  | 1 => q.f1
  | 2 => q.f2
  | 3 => q.f3
  | 4 => q.f4
  | 5 => q.f5
  | 6 => q.f6
  | 7 => q.f7

def Oct.set {α : Type} (q : Oct α) (i : FeedId) (v : α) : Oct α :=
  match i with
  | 0 => { q with f0 := v }
  | 1 => { q with f1 := v }
  | 2 => { q with f2 := v }
  | 3 => { q with f3 := v }
  | 4 => { q with f4 := v }
  | 5 => { q with f5 := v }
  | 6 => { q with f6 := v }
  | 7 => { q with f7 := v }

def Oct.all {α : Type} (v : α) : Oct α := ⟨v, v, v, v, v, v, v, v⟩

@[simp] theorem Oct.get_set {α : Type} (q : Oct α) (i j : FeedId) (v : α) :
    (q.set i v).get j = if j = i then v else q.get j := by
  fin_cases i <;> fin_cases j <;> rfl

@[simp] theorem Oct.get_all {α : Type} (v : α) (i : FeedId) : (Oct.all v).get i = v := by
  fin_cases i <;> rfl

theorem Oct.ext_get {α : Type} {p q : Oct α} (h : ∀ i, p.get i = q.get i) : p = q := by
  cases p; cases q
  have h0 := h 0; have h1 := h 1; have h2 := h 2; have h3 := h 3
  have h4 := h 4; have h5 := h 5; have h6 := h 6; have h7 := h 7
  simp_all [Oct.get]

end Sys2Proof
end

