-- ==== Sys2Proof/Syntax.lean ====
section
/-!
DEFINITION. The commands and events of the part: one constructor for each row of spec/opcode_table.json.

A host command is a checked command frame of its kind: its tag and its body bytes, so that every check of R192
(BAD_LENGTH among them) is part of its meaning. The numbers of the body are read by Machine/Operands.lean (R200).
-/

namespace Sys2Proof

/-- The level of a panel line (R173, R177). -/
inductive Level where
  | low
  | high
  deriving DecidableEq, Repr

/-- The push lines of the panel (R177). -/
inductive PushLine where
  | markin
  | markout
  | take
  deriving DecidableEq, Repr

/-- The store's result for the fragment a beat moves (R15, R156). -/
inductive StoreResult where
  | ok
  | store
  deriving DecidableEq, Repr

/-- The levels of the five panel lines, as HARDWARE_RESET finds them at the release of RESET (R173, R177, R187). -/
structure PanelLevels where
  ja : Level
  jb : Level
  markin : Level
  markout : Level
  take : Level
  deriving DecidableEq, Repr

inductive Instr where
  -- configuration (kinds 1 to 9)
  | setStore (tag : Byte) (body : List Byte)
  | setFeed (tag : Byte) (body : List Byte)
  | setChannel (tag : Byte) (body : List Byte)
  | setCurve (tag : Byte) (body : List Byte)
  | setPanel (tag : Byte) (body : List Byte)
  | setNotices (tag : Byte) (body : List Byte)
  | engage (tag : Byte) (body : List Byte)
  | disengage (tag : Byte) (body : List Byte)
  | restartFeed (tag : Byte) (body : List Byte)
  -- playback and gangs (kinds 10 to 20)
  | cueClip (tag : Byte) (body : List Byte)
  | cueFeed (tag : Byte) (body : List Byte)
  | play (tag : Byte) (body : List Byte)
  | shuttle (tag : Byte) (body : List Byte)
  | still (tag : Byte) (body : List Byte)
  | stepCount (tag : Byte) (body : List Byte)
  | goLive (tag : Byte) (body : List Byte)
  | eject (tag : Byte) (body : List Byte)
  | takeNext (tag : Byte) (body : List Byte)
  | gang (tag : Byte) (body : List Byte)
  | ungang (tag : Byte) (body : List Byte)
  -- marks and clips (kinds 21 to 28)
  | markIn (tag : Byte) (body : List Byte)
  | markOut (tag : Byte) (body : List Byte)
  | makeClip (tag : Byte) (body : List Byte)
  | trimClip (tag : Byte) (body : List Byte)
  | setClip (tag : Byte) (body : List Byte)
  | deleteClip (tag : Byte) (body : List Byte)
  | readClip (tag : Byte) (body : List Byte)
  | listClips (tag : Byte) (body : List Byte)
  -- cue lists (kinds 29 to 33)
  | listAppend (tag : Byte) (body : List Byte)
  | listInsert (tag : Byte) (body : List Byte)
  | listRemove (tag : Byte) (body : List Byte)
  | listClear (tag : Byte) (body : List Byte)
  | readList (tag : Byte) (body : List Byte)
  -- reads and acknowledges (kinds 34 to 39)
  | readChannel (tag : Byte) (body : List Byte)
  | readFeed (tag : Byte) (body : List Byte)
  | readNotices (tag : Byte) (body : List Byte)
  | ackNotice (tag : Byte) (body : List Byte)
  | readError (tag : Byte) (body : List Byte)
  | clearError (tag : Byte) (body : List Byte)
  /-- A checked frame whose kind names no command of the catalogue (R192, R201). -/
  | unknownKind (kind tag : Byte) (body : List Byte)
  -- ingest ports
  | frameStartMark (feed : FeedId)
  | fragmentArrival (feed : FeedId) (data : Fragment)
  | frameEndMark (feed : FeedId)
  /-- One beat of the store port. `result` is the store's answer for the fragment the beat moves and `data` what the
  store reads back when that fragment is a fill's; a beat that moves none, or moves an ingest fragment, does not look
  at `data`. -/
  | beat (result : StoreResult) (data : Fragment)
  -- output references
  | outputTick (ch : ChanId)
  /-- The Frame Cache counts one output tick of `ch` (R146): its fills age, and those that reach the fetch timeout
  abort. -/
  | fetchTimeout (ch : ChanId)
  -- messages between the blocks
  | cacheOverwriteNotice (feed : FeedId)
  | clipOverwriteNotice (feed : FeedId)
  | damageReport (feed : FeedId) (frame : Nat)
  | fillReport (ch : ChanId) (feed : FeedId) (frame : Nat)
  -- panel lines
  | jogLineChange (ja jb : Level)
  | markinEdge
  | markoutEdge
  | takeEdge
  | pushLineFall (line : PushLine)
  -- pins and the link's bytes
  | hardwareReset (levels : PanelLevels)
  | linkFrameReceived (bytes : List Byte)
  | recordSent
  deriving DecidableEq, Repr

end Sys2Proof
end

