-- ==== Sys2Proof/Decode.lean ====
section
/-!
DEFINITION. The rows of spec/opcode_table.json give no bits, so no word spells a command. The bytes of the control
link are decoded by Machine/Link.lean (R189) and Machine/Operands.lean (R200), where they are state and operands.
-/

namespace Sys2Proof

/-- No row of the table gives its command any bits. -/
def decodeTableWord (_nbits _w : Nat) : Option Instr := none

end Sys2Proof
end

