-- ==== Sys2Proof/Config.lean ====
section
/-!
DEFINITION. What is fixed for every LP48: the figures of 00_scope.md NUMBERS. The manual leaves no result of any
command undefined, so there is no free value here; what the outside decides (the store's answers, the panel levels at
reset) is an operand of the event.
-/

namespace Sys2Proof.Config

/-- Number of frame numbers a feed has: 0 to 4,294,967,295 (R8). -/
def frameNumbers : Nat := 4294967296

/-- Fragments the ingest buffer of a feed holds (R8). -/
def ingestBuffer : Nat := 96

/-- The urgent flag is set at this many buffered fragments or more (R16). -/
def urgentAt : Nat := 64

/-- The urgent flag is cleared at this many buffered fragments or fewer (R16). -/
def calmAt : Nat := 16

/-- Slots of the Frame Cache (R133). -/
def cacheSlots : Nat := 128

/-- Fill contexts (R137). -/
def fillContexts : Nat := 8

/-- Active fills a channel may own (R136). -/
def fillsPerChannel : Nat := 4

/-- Age in owner ticks at which a fill times out (R146). -/
def fetchTimeout : Nat := 4

/-- Beats a burst holder may stay idle while others wait before it loses its grant (R167). -/
def burstIdle : Nat := 8

/-- Records of the Clip Table (R24). -/
def clipRecords : Nat := 1024

/-- Entries a cue list may hold (R118). -/
def cueEntries : Nat := 16

/-- Frames the link's input buffer holds (R190). -/
def linkFrames : Nat := 4

/-- Most bytes a link frame's body has (R188). -/
def bodyBytes : Nat := 250

/-- Notice cells (R194). -/
def noticeCells : Nat := 54

end Sys2Proof.Config
end

