-- ==== Sys2Proof/Machine/State.lean ====
section
/-!
DEFINITION. The state of the part as plain data, block by block, and the state after hardware reset. Every field names
the rule of spec/ that gives it.
-/

namespace Sys2Proof.Machine

/-! ## Link: frames, statuses, records -/

/-- Engagement state, in its coding order (R180, R200). -/
inductive Engagement where
  | disengaged
  | engaged
  deriving DecidableEq, Repr

/-- Status codes, in their coding order (R192, R200). -/
inductive Status where
  | ok
  | clamped
  | unknownKind
  | badLength
  | badArgument
  | notEngaged
  | engaged
  | badConfig
  | noMaterial
  | notFound
  | expired
  | inUse
  | tableFull
  | listFull
  | noHead
  | ganged
  deriving DecidableEq, Repr

/-- A checked command frame in the input buffer (R190, R201). -/
structure LinkFrame where
  kind : Byte
  tag : Byte
  body : List Byte
  deriving DecidableEq, Repr

/-- The receiver (R189): HUNT, or IN_FRAME with the unescaped bytes so far and whether an escape byte has just come. -/
inductive RxState where
  | hunt
  | inFrame (bytes : List Byte) (escape : Bool)
  deriving DecidableEq, Repr

/-! ## Enumerations of the records (R200, in their coding order) -/

inductive FeedState where
  | off
  | waiting
  | recording
  | exhausted
  deriving DecidableEq, Repr

inductive DamageCause where
  | oversize
  | dropped
  | truncated
  | empty
  | check
  deriving DecidableEq, Repr

inductive ClipState where
  | free
  | opened
  | closed
  | expired
  deriving DecidableEq, Repr

inductive EndMode where
  | stop
  | loop
  | next
  deriving DecidableEq, Repr

inductive RepeatCause where
  | late
  | damaged
  deriving DecidableEq, Repr

inductive ChanState where
  | idle
  | cued
  | playing
  | shuttle
  | jog
  | live
  | ended
  | slave
  deriving DecidableEq, Repr

inductive IdlePicture where
  | hold
  | black
  | live
  deriving DecidableEq, Repr

inductive FetchMode where
  | or
  | and
  deriving DecidableEq, Repr

inductive IngestMode where
  | deferred
  | claimed
  deriving DecidableEq, Repr

inductive DecodeMode where
  | x1
  | x2
  | x4
  | dirstep
  deriving DecidableEq, Repr

inductive TakeAction where
  | play
  | takeNext
  deriving DecidableEq, Repr

inductive MarkAction where
  | newIn
  | remark
  | close
  | newOut
  deriving DecidableEq, Repr

inductive MarkSide where
  | into
  | out
  deriving DecidableEq, Repr

inductive Direction where
  | forward
  | reverse
  deriving DecidableEq, Repr

inductive TakeCause where
  | next
  | take
  deriving DecidableEq, Repr

inductive StoreErrorCause where
  | store
  | check
  deriving DecidableEq, Repr

inductive ConfigCheck where
  | geometry
  | window
  | size
  | guard
  | overlap
  deriving DecidableEq, Repr

inductive LinkErrorCause where
  | crc
  | length
  | escape
  | broken
  | overrun
  deriving DecidableEq, Repr

/-! ## Notice Unit -/

/-- The notice classes (R194), in number order. -/
inductive NoticeClass where
  | cueReady
  | clipEnd
  | clipTaken
  | lateFrame
  | atLive
  | tailPush
  | windowLost
  | fetchTimeout
  | ingestDamage
  | feedExhausted
  | mark
  | markRefused
  | clipExpired
  | clipAtRisk
  | storeError
  | linkError
  deriving DecidableEq, Repr

/-- The detail of an event, one form for each class (R194, R201). -/
inductive Detail where
  | cueReady (clip : Option Nat) (feed : FeedId) (entry : Nat)
  | clipEnd (clip : Nat) (frame : Nat) (dir : Direction)
  | clipTaken (clip : Nat) (entry : Nat) (cause : TakeCause) (left : Nat)
  | lateFrame (feed : FeedId) (frame : Option Nat) (cause : RepeatCause)
  | atLive (feed : FeedId) (head : Nat)
  | tailPush (feed : FeedId) (tail : Nat)
  | windowLost (feed : FeedId) (clip : Option Nat) (tail : Nat) (head : Option Nat)
  | fetchTimeout (feed : FeedId) (frame : Nat) (context : Nat) (received : Nat)
  | ingestDamage (frame : Nat) (cause : DamageCause)
  | feedExhausted (last : Nat)
  | mark (clip : Nat) (source : Nat) (action : MarkAction) (frame : Nat)
  | markRefused (source : Nat) (side : MarkSide) (status : Status)
  | clipExpired (clip : Nat) (feed : FeedId) (markIn : Nat) (tail : Option Nat) (ch : Option ChanId) (skipped : Bool)
  | clipAtRisk (clip : Nat) (markIn : Nat) (tail : Nat)
  | storeError (feed : FeedId) (frame : Nat) (index : Option Nat) (cause : StoreErrorCause)
  | linkError (cause : LinkErrorCause) (kind tag : Byte)
  deriving DecidableEq, Repr

/-- A cell of the Notice Unit (R195). -/
structure Cell where
  enable : Bool
  latch : Bool
  count : Nat
  detail : Option Detail
  deriving DecidableEq, Repr

/-- The cell after hardware reset (R195). -/
def Cell.clear : Cell := ⟨false, false, 0, none⟩

/-- A record the transmitter sends (R191, R193). -/
inductive TxRecord where
  | reply (tag kind : Byte) (status : Status) (result : List Byte)
  | notice (cls : NoticeClass) (unit : Nat) (count : Nat) (detail : Detail)
  deriving DecidableEq, Repr

/-- The Control Link's receiver, input buffer and transmitter (R189, R190, R193). -/
structure Link where
  rx : RxState
  inBuf : List LinkFrame
  outQueue : List TxRecord
  sending : Option TxRecord
  /-- The bytes of the frame sent last; the model's own observation of the link's output. -/
  lastSent : Option (List Byte)
  deriving DecidableEq, Repr

/-! ## Ingest Controller and Frame Directory -/

/-- A feed's configuration record (R1). -/
structure FeedConfig where
  beginAddr : Nat
  endAddr : Nat
  depth : Nat
  stride : Nat
  guard : Nat
  warn : Nat
  deriving DecidableEq, Repr

/-- The state of a directory entry; the cause is present in DAMAGED alone (R4). -/
inductive EntryState where
  | writing
  | complete
  | damaged (cause : DamageCause)
  deriving DecidableEq, Repr

/-- A directory entry that holds a frame (R4). -/
structure Entry where
  frame : Nat
  state : EntryState
  count : Nat
  crc : Option (BitVec 32)
  deriving DecidableEq, Repr

/-- The open frame: `crc` is the running register of R6 (R8). -/
structure OpenFrame where
  number : Nat
  arrivals : Nat
  crc : BitVec 32
  cause : Option DamageCause
  deriving DecidableEq, Repr

/-- A frame in the pending list: closed and not finished (R8). -/
structure ClosedFrame where
  number : Nat
  count : Nat
  crc : BitVec 32
  cause : Option DamageCause
  deriving DecidableEq, Repr

/-- A fragment in the ingest buffer (R8). -/
structure BufFragment where
  frame : Nat
  index : Nat
  data : Fragment
  deriving DecidableEq, Repr

/-- An overwrite notice of a feed: the lost frame and the tail after the frame start (R12). -/
structure OverwriteNotice where
  lost : Nat
  tail : Nat
  deriving DecidableEq, Repr

/-- One feed: configuration, write state, directory and head (R1, R4, R7, R8, R18), and the overwrite notices sent and
not yet taken by the Frame Cache and by the Clip Table (R12, R186). -/
structure Feed where
  cfg : FeedConfig
  state : FeedState
  nextFrame : Nat
  head : Option Nat
  openFrame : Option OpenFrame
  closing : List ClosedFrame
  buffer : List BufFragment
  urgent : Bool
  directory : SMap Entry
  /-- Damage cause of the most recently finished frame (R23). -/
  lastCause : Option DamageCause
  cacheNotices : List OverwriteNotice
  clipNotices : List OverwriteNotice
  deriving DecidableEq, Repr

/-- The reset configuration of R1. -/
def FeedConfig.reset : FeedConfig :=
  { beginAddr := 4294967295, endAddr := 0, depth := 64, stride := 48, guard := 16, warn := 0 }

/-- A feed after hardware reset (R1, R4, R7, R8, R18, R23). -/
def Feed.reset : Feed :=
  { cfg := FeedConfig.reset, state := .off, nextFrame := 0, head := none, openFrame := none, closing := [],
    buffer := [], urgent := false, directory := [], lastCause := none, cacheNotices := [], clipNotices := [] }

/-! ## Store Arbiter -/

/-- The Store Arbiter's state (R159). A deferral is the channel's waiting set; the empty set means not deferred. -/
structure Arbiter where
  mode : IngestMode
  holder : Option ChanId
  idle : Nat
  gapOwed : Bool
  urgentPtr : FeedId
  gapPtr : FeedId
  chanPtr : ChanId
  deferrals : Quad (List ChanId)
  deriving DecidableEq, Repr

/-- The table of R159: the values after hardware reset and after DISENGAGE. -/
def Arbiter.reset : Arbiter :=
  { mode := .deferred, holder := none, idle := 0, gapOwed := false, urgentPtr := 0, gapPtr := 0, chanPtr := 0,
    deferrals := Quad.all [] }

/-- What the latest beat did at the store port; the model's own observation (R156). -/
inductive StoreAccess where
  | idle
  | write (feed : FeedId) (addr : Nat) (data : Fragment)
  | read (ch : ChanId) (addr : Nat)
  deriving DecidableEq, Repr

/-! ## Frame Cache -/

/-- The states of a slot that is not INVALID (R133). An INVALID slot stands in no table. -/
inductive SlotState where
  | filling
  | valid
  | orphan
  deriving DecidableEq, Repr

/-- The victim of a FILLING slot, with the fragment data left in place (R133, R136). -/
structure Victim where
  feed : FeedId
  frame : Nat
  count : Nat
  data : List Fragment
  deriving DecidableEq, Repr

/-- A slot that is not INVALID (R133). The pin count is the number of channels whose pin set names the slot (R149). -/
structure Slot where
  state : SlotState
  feed : FeedId
  frame : Nat
  count : Nat
  data : List Fragment
  context : Option Nat
  victim : Option Victim
  deriving DecidableEq, Repr

/-- A fill context in use (R137); `crc` is the CRC of the directory's entry, `running` the register over the fragments
accepted. -/
structure Fill where
  slot : Nat
  owner : ChanId
  waiters : List ChanId
  order : Nat
  age : Nat
  base : Nat
  count : Nat
  crc : BitVec 32
  next : Nat
  retried : Bool
  running : BitVec 32
  deriving DecidableEq, Repr

/-- The record of the store error latch (R151). -/
structure ErrorRecord where
  feed : FeedId
  frame : Nat
  index : Option Nat
  cause : StoreErrorCause
  more : Bool
  deriving DecidableEq, Repr

/-- The reasons of NOT_AVAILABLE (R145). -/
inductive Reason where
  | range
  | damaged
  | store
  | overrun
  | timeout
  deriving DecidableEq, Repr

/-- The answers to a lookup (R94, R135). -/
inductive Answer where
  | resident
  | wait
  | notAvailable (reason : Reason)
  | busy
  deriving DecidableEq, Repr

/-- A fill report on its way to a waiting channel (R145): RESIDENT when `failed` is absent. -/
structure FillReport where
  feed : FeedId
  frame : Nat
  failed : Option Reason
  deriving DecidableEq, Repr

/-- Which of the two events of an output tick, presentation and count, is still to come (R146). -/
inductive TickPhase where
  | settled
  | presented
  | counted
  deriving DecidableEq, Repr

/-- The Frame Cache (R133, R134, R137, R149, R151) with its messages on the way (R143, R145). -/
structure Cache where
  slots : SMap Slot
  lru : List Nat
  fills : SMap Fill
  pins : Quad (List Nat)
  errorLatch : Option ErrorRecord
  reports : Quad (List FillReport)
  damageReports : List (FeedId × Nat)
  ticks : Quad TickPhase
  deriving DecidableEq, Repr

/-- The Frame Cache after hardware reset (R154). -/
def Cache.reset : Cache :=
  { slots := [], lru := [], fills := [], pins := Quad.all [], errorLatch := none, reports := Quad.all [],
    damageReports := [], ticks := Quad.all .settled }

/-! ## Channel Engines -/

/-- A channel's material (R74). -/
inductive Material where
  | clip (id : Nat)
  | feed (f : FeedId)
  deriving DecidableEq, Repr

/-- The frames a channel may occupy (R52). -/
structure Window where
  lo : Nat
  hi : Nat
  deriving DecidableEq, Repr

/-- What the next tick presents (R68): the partner is present when the weight is above 0. -/
structure Selection where
  feed : FeedId
  frame : Nat
  partner : Option Nat
  weight : Nat
  clip : Option Nat
  deriving DecidableEq, Repr

/-- A feed and a frame: a cue wait (R80). -/
structure FrameRef where
  feed : FeedId
  frame : Nat
  deriving DecidableEq, Repr

/-- The frame part of a presentation record (R93). -/
structure Shown where
  feed : FeedId
  frame : Nat
  partner : Option Nat
  weight : Nat
  clip : Option Nat
  deriving DecidableEq, Repr

/-- The presentation record (R93): REPEAT is set when the repeat cause is present. -/
structure PresRecord where
  shown : Option Shown
  repeated : Option RepeatCause
  blendDropped : Bool
  deriving DecidableEq, Repr

/-- A record with no frame, REPEAT and BLEND_DROPPED clear (R98, R103). -/
def PresRecord.blank : PresRecord := ⟨none, none, false⟩

/-- The channel options (R100). -/
structure ChanOptions where
  level : Nat
  burst : Bool
  fairness : Bool
  lookahead : Nat
  preloadDepth : Nat
  blend : Bool
  followLive : Bool
  idlePicture : IdlePicture
  idleFeed : FeedId
  fetchMode : FetchMode
  ramp : Nat
  jogStep : Nat
  deriving DecidableEq, Repr

/-- The reset values of R100 and R50. -/
def ChanOptions.reset : ChanOptions :=
  { level := 8, burst := false, fairness := false, lookahead := 2, preloadDepth := 4, blend := false,
    followLive := false, idlePicture := .black, idleFeed := 0, fetchMode := .or, ramp := 0, jogStep := 1024 }

/-- One Channel Engine (R72). The pins a channel holds stand in the Frame Cache (R149). -/
structure Channel where
  state : ChanState
  material : Option Material
  pos : Nat
  speed : Int
  target : Int
  lever : Int
  jog : Int
  window : Option Window
  selection : Option Selection
  damaged : Bool
  cueWait : Option FrameRef
  preload : Bool
  atLive : Bool
  atTail : Bool
  slaveClamped : Bool
  lastRec : PresRecord
  /-- The fragments streamed after the latest record; the model's own observation of the output port (R89). -/
  outData : List Fragment
  /-- The idle selection: a frame number of the idle feed (R99; log entries 22, 37). -/
  idleSel : Option Nat
  opts : ChanOptions
  deriving DecidableEq, Repr

/-- A channel after hardware reset (R103). -/
def Channel.reset : Channel :=
  { state := .idle, material := none, pos := 0, speed := 0, target := 0, lever := 0, jog := 0, window := none,
    selection := none, damaged := false, cueWait := none, preload := false, atLive := false, atTail := false,
    slaveClamped := false, lastRec := PresRecord.blank, outData := [], idleSel := none, opts := ChanOptions.reset }

/-- The reset curve (R55). -/
def resetCurve : List Int :=
  [-32768, -16384, -8192, -4096, -2048, -1024, -512, -256, 0, 256, 512, 1024, 2048, 4096, 8192, 16384, 32768]

/-! ## Gang Control, Clip Table, Cue Lists, Panel Port -/

/-- One slave of a gang (R105). -/
structure GangSlave where
  ch : ChanId
  feed : FeedId
  offset : Int
  deriving DecidableEq, Repr

/-- One entry of an angle list (R24). -/
structure Angle where
  feed : FeedId
  offset : Int
  deriving DecidableEq, Repr

/-- A clip record that is not FREE (R24). A FREE record stands in no table. -/
structure Clip where
  state : ClipState
  feed : FeedId
  markIn : Nat
  markOut : Option Nat
  prevIn : Option Nat
  swapped : Bool
  defaulted : Bool
  clampedFlag : Bool
  warned : Bool
  nominal : Int
  endMode : EndMode
  watch : Bool
  label : Nat
  angles : List Angle
  useCount : Nat
  deriving DecidableEq, Repr

/-- One entry of a cue list (R118). -/
structure CueEntry where
  clip : Nat
  speed : Option Int
  deriving DecidableEq, Repr

/-- A push line: its last level and its acceptance flag (R177). -/
structure PushState where
  level : Level
  accepted : Bool
  deriving DecidableEq, Repr

/-- The Panel Port: binding, last levels, acceptance flags and JOG_GLITCH (R171, R173, R175, R177). -/
structure Panel where
  bound : ChanId
  source : Nat
  decode : DecodeMode
  takeover : Bool
  takeAction : TakeAction
  ja : Level
  jb : Level
  glitch : Bool
  markin : PushState
  markout : PushState
  take : PushState
  deriving DecidableEq, Repr

/-- The Panel Port after hardware reset with the given levels present (R171, R173, R177). -/
def Panel.reset (l : PanelLevels) : Panel :=
  { bound := 0, source := 0, decode := .x4, takeover := true, takeAction := .play, ja := l.ja, jb := l.jb,
    glitch := false, markin := ⟨l.markin, false⟩, markout := ⟨l.markout, false⟩, take := ⟨l.take, false⟩ }

/-! ## The part -/

structure State where
  engaged : Engagement
  storeSize : Nat
  link : Link
  cells : List Cell
  feeds : Oct Feed
  arbiter : Arbiter
  storePort : StoreAccess
  cache : Cache
  chans : Quad Channel
  curve : List Int
  gangs : Quad (List GangSlave)
  clips : SMap Clip
  markRefs : SMap Nat
  defaultLen : Nat
  lists : Quad (List CueEntry)
  panel : Panel
  /-- The events that wait, first in, first out. -/
  pending : List Instr
  deriving DecidableEq, Repr

/-- Reasons to stop with a fault: none. The manual gives the part no behaviour in which it stops; errors are replies,
notices and latches (R151, R189, R192), so nothing raises a fault. Safe. -/
inductive Fault where
  deriving DecidableEq, Repr

/-- Reasons to refuse a command. -/
inductive Refusal where
  /-- Raised by Machine/Dispatch.lean for a command that has no meaning yet. Safe: the model stops where the part goes
  on. -/
  | notModelled (mnemonic : String)
  deriving DecidableEq, Repr

/-- The link after hardware reset (R189, R190, R193). -/
def Link.reset : Link := { rx := .hunt, inBuf := [], outQueue := [], sending := none, lastSent := none }

/-- Every block after hardware reset, with the panel lines at the given levels at the release of RESET (R187). -/
def State.afterReset (l : PanelLevels) : State :=
  { engaged := .disengaged, storeSize := 4294967296, link := Link.reset,
    cells := List.replicate Config.noticeCells Cell.clear, feeds := Oct.all Feed.reset, arbiter := Arbiter.reset,
    storePort := .idle, cache := Cache.reset, chans := Quad.all Channel.reset, curve := resetCurve,
    gangs := Quad.all [], clips := [], markRefs := [], defaultLen := 150, lists := Quad.all [],
    panel := Panel.reset l, pending := [] }

/-- The panel lines at rest. DESIGN CHOICE (log entry 8): the manual takes the levels present at the release of RESET
and names none. -/
def PanelLevels.atRest : PanelLevels := ⟨.low, .low, .low, .low, .low⟩

/-- The machine right after hardware reset, nothing pending (R187). -/
def State.reset : State := State.afterReset PanelLevels.atRest

end Sys2Proof.Machine
end

