-- ==== Sys2Proof/Machine/Operands.lean ====
section
/-!
DEFINITION. The fields of command bodies and of the records the part sends (R200, R201, R202): readers from bytes,
writers to bytes, and the body of each command kind in the order its rule names the fields.
-/

namespace Sys2Proof.Machine

/-! ## Reading fields (R200) -/

/-- An unsigned number of `w` bytes, least significant byte first. -/
def takeU : Nat → List Byte → Option (Nat × List Byte)
  | 0, bs => some (0, bs)
  | _ + 1, [] => none
  | w + 1, b :: bs =>
    match takeU w bs with
    | none => none
    | some (n, rest) => some (b.toNat + 256 * n, rest)

/-- A signed number of `w` bytes in two's complement, least significant byte first. -/
def takeS (w : Nat) (bs : List Byte) : Option (Int × List Byte) :=
  match takeU w bs with
  | none => none
  | some (n, rest) => some (if 2 * n < 256 ^ w then (n : Int) else (n : Int) - 256 ^ w, rest)

/-- An optional field: a presence byte 0 or 1, then the field if present; any other presence byte does not fit. -/
def takeOpt {α : Type} (field : List Byte → Option (α × List Byte)) : List Byte → Option (Option α × List Byte)
  | [] => none
  | p :: bs =>
    if p = 0#8 then some (none, bs)
    else if p = 1#8 then
      match field bs with
      | none => none
      | some (a, rest) => some (some a, rest)
    else none

/-- `n` fields in a row. -/
def takeTimes {α : Type} (field : List Byte → Option (α × List Byte)) : Nat → List Byte → Option (List α × List Byte)
  | 0, bs => some ([], bs)
  | n + 1, bs =>
    match field bs with
    | none => none
    | some (a, rest) =>
      match takeTimes field n rest with
      | none => none
      | some (as, rest') => some (a :: as, rest')

/-- A list: a count byte, then its entries. -/
def takeList {α : Type} (field : List Byte → Option (α × List Byte)) (bs : List Byte) : Option (List α × List Byte) :=
  match takeU 1 bs with
  | none => none
  | some (n, rest) => takeTimes field n rest

/-- The body ends here: bytes left over do not fit the kind. -/
def bodyEnd {α : Type} (a : α) (bs : List Byte) : Option α := if bs = [] then some a else none

/-! ## Command bodies, in the order of each command's rule -/

/-- SET_STORE: store size and ingest mode, each optional (R181). -/
def parseSetStore (b : List Byte) : Option (Option Nat × Option Nat) := do
  let (size, b) ← takeOpt (takeU 8) b
  let (mode, b) ← takeOpt (takeU 1) b
  bodyEnd (size, mode) b

/-- The fields a SET_FEED carries (R1, R182). -/
structure FeedFields where
  beginAddr : Option Nat
  endAddr : Option Nat
  depth : Option Nat
  stride : Option Nat
  guard : Option Nat
  warn : Option Nat
  deriving DecidableEq, Repr

def parseSetFeed (b : List Byte) : Option (Nat × FeedFields) := do
  let (feed, b) ← takeU 1 b
  let (bg, b) ← takeOpt (takeU 4) b
  let (en, b) ← takeOpt (takeU 4) b
  let (d, b) ← takeOpt (takeU 4) b
  let (st, b) ← takeOpt (takeU 1) b
  let (g, b) ← takeOpt (takeU 1) b
  let (w, b) ← takeOpt (takeU 4) b
  bodyEnd (feed, ⟨bg, en, d, st, g, w⟩) b

/-- The options a SET_CHANNEL carries, in the order of the table of R100. -/
structure ChanFields where
  level : Option Nat
  burst : Option Nat
  fairness : Option Nat
  lookahead : Option Nat
  preloadDepth : Option Nat
  blend : Option Nat
  followLive : Option Nat
  idlePicture : Option Nat
  idleFeed : Option Nat
  fetchMode : Option Nat
  ramp : Option Nat
  jogStep : Option Nat
  deriving DecidableEq, Repr

def parseSetChannel (b : List Byte) : Option (Nat × ChanFields) := do
  let (ch, b) ← takeU 1 b
  let (level, b) ← takeOpt (takeU 1) b
  let (burst, b) ← takeOpt (takeU 1) b
  let (fairness, b) ← takeOpt (takeU 1) b
  let (lookahead, b) ← takeOpt (takeU 1) b
  let (depth, b) ← takeOpt (takeU 1) b
  let (blend, b) ← takeOpt (takeU 1) b
  let (follow, b) ← takeOpt (takeU 1) b
  let (picture, b) ← takeOpt (takeU 1) b
  let (idleFeed, b) ← takeOpt (takeU 1) b
  let (fetch, b) ← takeOpt (takeU 1) b
  let (ramp, b) ← takeOpt (takeU 4) b
  let (jog, b) ← takeOpt (takeU 4) b
  bodyEnd (ch, ⟨level, burst, fairness, lookahead, depth, blend, follow, picture, idleFeed, fetch, ramp, jog⟩) b

/-- SET_CURVE: 17 points (R55, R192). -/
def parseSetCurve (b : List Byte) : Option (List Int) := do
  let (pts, b) ← takeTimes (takeS 4) 17 b
  bodyEnd pts b

/-- The fields a SET_PANEL carries (R28, R171, R172). -/
structure PanelFields where
  bound : Option Nat
  source : Option Nat
  decode : Option Nat
  takeover : Option Nat
  takeAction : Option Nat
  defaultLen : Option Nat
  deriving DecidableEq, Repr

def parseSetPanel (b : List Byte) : Option PanelFields := do
  let (bound, b) ← takeOpt (takeU 1) b
  let (source, b) ← takeOpt (takeU 1) b
  let (decode, b) ← takeOpt (takeU 1) b
  let (takeover, b) ← takeOpt (takeU 1) b
  let (action, b) ← takeOpt (takeU 1) b
  let (len, b) ← takeOpt (takeU 4) b
  bodyEnd ⟨bound, source, decode, takeover, action, len⟩ b

/-- No field (ENGAGE, DISENGAGE, READ_ERROR, CLEAR_ERROR). -/
def parseNothing (b : List Byte) : Option Unit := bodyEnd () b

/-- One byte (a feed, a channel, a mark source, a start position). -/
def parseByte (b : List Byte) : Option Nat := do
  let (x, b) ← takeU 1 b
  bodyEnd x b

/-- A clip id (DELETE_CLIP, READ_CLIP). -/
def parseClipId (b : List Byte) : Option Nat := do
  let (x, b) ← takeU 2 b
  bodyEnd x b

/-- SET_NOTICES: class, unit, ON or OFF (R197). -/
def parseSetNotices (b : List Byte) : Option (Nat × Nat × Nat) := do
  let (c, b) ← takeU 1 b
  let (u, b) ← takeU 1 b
  let (on, b) ← takeU 1 b
  bodyEnd (c, u, on) b

/-- ACK_NOTICE: class, unit (R196). -/
def parseAckNotice (b : List Byte) : Option (Nat × Nat) := do
  let (c, b) ← takeU 1 b
  let (u, b) ← takeU 1 b
  bodyEnd (c, u) b

/-- CUE_CLIP: channel, clip id (R77). -/
def parseCueClip (b : List Byte) : Option (Nat × Nat) := do
  let (ch, b) ← takeU 1 b
  let (id, b) ← takeU 2 b
  bodyEnd (ch, id) b

/-- CUE_FEED: channel, feed, reference, value (R81). -/
def parseCueFeed (b : List Byte) : Option (Nat × Nat × Nat × Nat) := do
  let (ch, b) ← takeU 1 b
  let (feed, b) ← takeU 1 b
  let (ref, b) ← takeU 1 b
  let (value, b) ← takeU 4 b
  bodyEnd (ch, feed, ref, value) b

/-- PLAY: channel, optional speed (R82). -/
def parsePlay (b : List Byte) : Option (Nat × Option Int) := do
  let (ch, b) ← takeU 1 b
  let (speed, b) ← takeOpt (takeS 4) b
  bodyEnd (ch, speed) b

/-- SHUTTLE: channel, lever value (R83). STEP: channel, count (R85). -/
def parseChanWord (b : List Byte) : Option (Nat × Int) := do
  let (ch, b) ← takeU 1 b
  let (x, b) ← takeS 2 b
  bodyEnd (ch, x) b

/-- GO_LIVE: channel, optional feed (R86). -/
def parseGoLive (b : List Byte) : Option (Nat × Option Nat) := do
  let (ch, b) ← takeU 1 b
  let (feed, b) ← takeOpt (takeU 1) b
  bodyEnd (ch, feed) b

/-- A slave of GANG: channel, feed, offset (R106). -/
def takeSlave (b : List Byte) : Option ((Nat × Nat × Int) × List Byte) := do
  let (ch, b) ← takeU 1 b
  let (feed, b) ← takeU 1 b
  let (off, b) ← takeS 4 b
  return ((ch, feed, off), b)

/-- GANG: master channel, list of slaves (R106). -/
def parseGang (b : List Byte) : Option (Nat × List (Nat × Nat × Int)) := do
  let (ch, b) ← takeU 1 b
  let (slaves, b) ← takeList takeSlave b
  bodyEnd (ch, slaves) b

/-- MAKE_CLIP: feed, in frame, out frame (R36). -/
def parseMakeClip (b : List Byte) : Option (Nat × Nat × Nat) := do
  let (feed, b) ← takeU 1 b
  let (i, b) ← takeU 4 b
  let (o, b) ← takeU 4 b
  bodyEnd (feed, i, o) b

/-- TRIM_CLIP: clip id, optional mark-in, optional mark-out (R37). -/
def parseTrimClip (b : List Byte) : Option (Nat × Option Nat × Option Nat) := do
  let (id, b) ← takeU 2 b
  let (i, b) ← takeOpt (takeU 4) b
  let (o, b) ← takeOpt (takeU 4) b
  bodyEnd (id, i, o) b

/-- The fields a SET_CLIP carries (R39). -/
structure ClipFields where
  nominal : Option Int
  endMode : Option Nat
  watch : Option Nat
  label : Option Nat
  angles : Option (List (Nat × Int))
  deriving DecidableEq, Repr

/-- An angle list entry: a feed byte and an offset (R200). -/
def takeAngle (b : List Byte) : Option ((Nat × Int) × List Byte) := do
  let (feed, b) ← takeU 1 b
  let (off, b) ← takeS 4 b
  return ((feed, off), b)

def parseSetClip (b : List Byte) : Option (Nat × ClipFields) := do
  let (id, b) ← takeU 2 b
  let (nominal, b) ← takeOpt (takeS 4) b
  let (mode, b) ← takeOpt (takeU 1) b
  let (watch, b) ← takeOpt (takeU 1) b
  let (label, b) ← takeOpt (takeU 2) b
  let (angles, b) ← takeOpt (takeList takeAngle) b
  bodyEnd (id, ⟨nominal, mode, watch, label, angles⟩) b

/-- LIST_CLIPS: first id, count (R42). -/
def parseListClips (b : List Byte) : Option (Nat × Nat) := do
  let (id, b) ← takeU 2 b
  let (n, b) ← takeU 1 b
  bodyEnd (id, n) b

/-- LIST_APPEND: channel, clip id, optional speed override (R120). -/
def parseListAppend (b : List Byte) : Option (Nat × Nat × Option Int) := do
  let (ch, b) ← takeU 1 b
  let (id, b) ← takeU 2 b
  let (speed, b) ← takeOpt (takeS 4) b
  bodyEnd (ch, id, speed) b

/-- LIST_INSERT: channel, position, clip id, optional speed override (R121). -/
def parseListInsert (b : List Byte) : Option (Nat × Nat × Nat × Option Int) := do
  let (ch, b) ← takeU 1 b
  let (pos, b) ← takeU 1 b
  let (id, b) ← takeU 2 b
  let (speed, b) ← takeOpt (takeS 4) b
  bodyEnd (ch, pos, id, speed) b

/-- LIST_REMOVE: channel, position (R122). -/
def parseListRemove (b : List Byte) : Option (Nat × Nat) := do
  let (ch, b) ← takeU 1 b
  let (pos, b) ← takeU 1 b
  bodyEnd (ch, pos) b

/-! ## Identifiers and enumerated values (R192, R200) -/

def feedOf? (n : Nat) : Option FeedId := if h : n < 8 then some ⟨n, h⟩ else none

def chanOf? (n : Nat) : Option ChanId := if h : n < 4 then some ⟨n, h⟩ else none

def onOff? : Nat → Option Bool
  | 0 => some false
  | 1 => some true
  | _ => none

def ingestMode? : Nat → Option IngestMode
  | 0 => some .deferred
  | 1 => some .claimed
  | _ => none

def idlePicture? : Nat → Option IdlePicture
  | 0 => some .hold
  | 1 => some .black
  | 2 => some .live
  | _ => none

def fetchMode? : Nat → Option FetchMode
  | 0 => some .or
  | 1 => some .and
  | _ => none

def decodeMode? : Nat → Option DecodeMode
  | 0 => some .x1
  | 1 => some .x2
  | 2 => some .x4
  | 3 => some .dirstep
  | _ => none

def takeAction? : Nat → Option TakeAction
  | 0 => some .play
  | 1 => some .takeNext
  | _ => none

def endMode? : Nat → Option EndMode
  | 0 => some .stop
  | 1 => some .loop
  | 2 => some .next
  | _ => none

/-- An optional enumerated field: absent fits; a present one must be in its list. -/
def optCode? {α : Type} (code : Nat → Option α) : Option Nat → Option (Option α)
  | none => some none
  | some n => (code n).map some

/-! ## Clamping (R192) -/

def clampNat (lo hi x : Nat) : Nat := max lo (min hi x)

def clampInt (lo hi x : Int) : Int := max lo (min hi x)

/-- A speed in −32,768 to +32,768. -/
def clampSpeed (x : Int) : Int := clampInt (-32768) 32768 x

/-- A gang or angle offset in −65,536 to +65,535 frames. -/
def clampOffset (x : Int) : Int := clampInt (-65536) 65535 x

/-! ## Writing fields (R200): full width, an absent field is zeros -/

/-- `n` in `w` bytes, least significant first. -/
def leBytes : Nat → Nat → List Byte
  | 0, _ => []
  | w + 1, n => BitVec.ofNat 8 n :: leBytes w (n / 256)

/-- A signed number in `w` bytes of two's complement. -/
def leInt (w : Nat) (x : Int) : List Byte := leBytes w (x % (256 ^ w : Nat)).toNat

/-- An optional number in a record: presence byte, then `w` bytes. -/
def optBytes (w : Nat) : Option Nat → List Byte
  | none => 0#8 :: List.replicate w 0#8
  | some n => 1#8 :: leBytes w n

/-- An optional signed number in a record. -/
def optInt (w : Nat) : Option Int → List Byte
  | none => 0#8 :: List.replicate w 0#8
  | some x => 1#8 :: leInt w x

def boolByte (b : Bool) : Byte := if b then 1#8 else 0#8

def byteOf (n : Nat) : Byte := BitVec.ofNat 8 n

/-- A flag byte, bit 0 first in the list. -/
def flagByte : List Bool → Nat
  | [] => 0
  | b :: bs => (if b then 1 else 0) + 2 * flagByte bs

/-- Bits packed eight to a byte, bit i at bit i mod 8 of byte i div 8 (R201); `n` bytes. -/
def packBits : Nat → List Bool → List Byte
  | 0, _ => []
  | n + 1, bits => byteOf (flagByte (bits.take 8)) :: packBits n (bits.drop 8)

/-! ## Codes of the enumerations (R200) -/

def Engagement.code : Engagement → Nat
  | .disengaged => 0
  | .engaged => 1

def Status.code : Status → Nat
  | .ok => 0
  | .clamped => 1
  | .unknownKind => 2
  | .badLength => 3
  | .badArgument => 4
  | .notEngaged => 5
  | .engaged => 6
  | .badConfig => 7
  | .noMaterial => 8
  | .notFound => 9
  | .expired => 10
  | .inUse => 11
  | .tableFull => 12
  | .listFull => 13
  | .noHead => 14
  | .ganged => 15

def FeedState.code : FeedState → Nat
  | .off => 0
  | .waiting => 1
  | .recording => 2
  | .exhausted => 3

def DamageCause.code : DamageCause → Nat
  | .oversize => 0
  | .dropped => 1
  | .truncated => 2
  | .empty => 3
  | .check => 4

def ClipState.code : ClipState → Nat
  | .free => 0
  | .opened => 1
  | .closed => 2
  | .expired => 3

def EndMode.code : EndMode → Nat
  | .stop => 0
  | .loop => 1
  | .next => 2

def RepeatCause.code : RepeatCause → Nat
  | .late => 0
  | .damaged => 1

def ChanState.code : ChanState → Nat
  | .idle => 0
  | .cued => 1
  | .playing => 2
  | .shuttle => 3
  | .jog => 4
  | .live => 5
  | .ended => 6
  | .slave => 7

def IdlePicture.code : IdlePicture → Nat
  | .hold => 0
  | .black => 1
  | .live => 2

def IngestMode.code : IngestMode → Nat
  | .deferred => 0
  | .claimed => 1

def DecodeMode.code : DecodeMode → Nat
  | .x1 => 0
  | .x2 => 1
  | .x4 => 2
  | .dirstep => 3

def TakeAction.code : TakeAction → Nat
  | .play => 0
  | .takeNext => 1

def MarkAction.code : MarkAction → Nat
  | .newIn => 0
  | .remark => 1
  | .close => 2
  | .newOut => 3

def MarkSide.code : MarkSide → Nat
  | .into => 0
  | .out => 1

def Direction.code : Direction → Nat
  | .forward => 0
  | .reverse => 1

def TakeCause.code : TakeCause → Nat
  | .next => 0
  | .take => 1

def StoreErrorCause.code : StoreErrorCause → Nat
  | .store => 0
  | .check => 1

def ConfigCheck.code : ConfigCheck → Nat
  | .geometry => 0
  | .window => 1
  | .size => 2
  | .guard => 3
  | .overlap => 4

def LinkErrorCause.code : LinkErrorCause → Nat
  | .crc => 0
  | .length => 1
  | .escape => 2
  | .broken => 3
  | .overrun => 4

/-- The notice class's number (R194). -/
def NoticeClass.number : NoticeClass → Nat
  | .cueReady => 0
  | .clipEnd => 1
  | .clipTaken => 2
  | .lateFrame => 3
  | .atLive => 4
  | .tailPush => 5
  | .windowLost => 6
  | .fetchTimeout => 7
  | .ingestDamage => 8
  | .feedExhausted => 9
  | .mark => 10
  | .markRefused => 11
  | .clipExpired => 12
  | .clipAtRisk => 13
  | .storeError => 14
  | .linkError => 15

/-- The class an event's detail belongs to (R194). -/
def Detail.cls : Detail → NoticeClass
  | .cueReady .. => .cueReady
  | .clipEnd .. => .clipEnd
  | .clipTaken .. => .clipTaken
  | .lateFrame .. => .lateFrame
  | .atLive .. => .atLive
  | .tailPush .. => .tailPush
  | .windowLost .. => .windowLost
  | .fetchTimeout .. => .fetchTimeout
  | .ingestDamage .. => .ingestDamage
  | .feedExhausted .. => .feedExhausted
  | .mark .. => .mark
  | .markRefused .. => .markRefused
  | .clipExpired .. => .clipExpired
  | .clipAtRisk .. => .clipAtRisk
  | .storeError .. => .storeError
  | .linkError .. => .linkError

def Detail.markBytes (clip source : Nat) (action : MarkAction) (frame : Nat) : List Byte :=
  leBytes 2 clip ++ leBytes 1 source ++ leBytes 1 action.code ++ leBytes 4 frame

/-- The detail of a notice body, from offset 3 (R201). -/
def Detail.bytes : Detail → List Byte
  | .cueReady clip feed entry => optBytes 2 clip ++ leBytes 1 feed.val ++ leBytes 4 entry
  | .clipEnd clip frame dir => leBytes 2 clip ++ leBytes 4 frame ++ leBytes 1 dir.code
  | .clipTaken clip entry cause left => leBytes 2 clip ++ leBytes 4 entry ++ leBytes 1 cause.code ++ leBytes 1 left
  | .lateFrame feed frame cause => leBytes 1 feed.val ++ optBytes 4 frame ++ leBytes 1 cause.code
  | .atLive feed head => leBytes 1 feed.val ++ leBytes 4 head
  | .tailPush feed tail => leBytes 1 feed.val ++ leBytes 8 tail
  | .windowLost feed clip tail head =>
    leBytes 1 feed.val ++ optBytes 2 clip ++ leBytes 8 tail ++ optBytes 4 head
  | .fetchTimeout feed frame context received =>
    leBytes 1 feed.val ++ leBytes 4 frame ++ leBytes 1 context ++ leBytes 1 received
  | .ingestDamage frame cause => leBytes 4 frame ++ leBytes 1 cause.code
  | .feedExhausted last => leBytes 4 last
  | .mark clip source action frame => Detail.markBytes clip source action frame
  | .markRefused source side status => leBytes 1 source ++ leBytes 1 side.code ++ leBytes 1 status.code
  | .clipExpired clip feed markIn tail ch skipped =>
    leBytes 2 clip ++ leBytes 1 feed.val ++ leBytes 4 markIn ++ optBytes 8 tail
      ++ optBytes 1 (ch.map (·.val)) ++ [boolByte skipped]
  | .clipAtRisk clip markIn tail => leBytes 2 clip ++ leBytes 4 markIn ++ leBytes 8 tail
  | .storeError feed frame index cause =>
    leBytes 1 feed.val ++ leBytes 4 frame ++ optBytes 1 index ++ leBytes 1 cause.code
  | .linkError cause kind tag => leBytes 1 cause.code ++ [kind, tag]

/-- The body of a record: a reply's kind, status and result, or a notice's class, unit, count and detail (R201). -/
def TxRecord.body : TxRecord → List Byte
  | .reply _ kind status result => kind :: byteOf status.code :: result
  | .notice cls unit count detail => leBytes 1 cls.number ++ leBytes 1 unit ++ leBytes 1 count ++ detail.bytes

/-- Kind 64 is REPLY and kind 65 is NOTICE (R201). -/
def TxRecord.kind : TxRecord → Byte
  | .reply .. => 64#8
  | .notice .. => 65#8

/-- A reply carries its command's tag and a notice tag 0 (R201). -/
def TxRecord.tag : TxRecord → Byte
  | .reply tag .. => tag
  | .notice .. => 0#8

/-! ## Status records (R202) -/

/-- The clip record of READ_CLIP and LIST_CLIPS, 44 bytes. -/
def Clip.bytes (id : Nat) (c : Clip) : List Byte :=
  leBytes 2 id ++ leBytes 1 c.state.code ++ leBytes 1 c.feed.val ++ leBytes 4 c.markIn ++ optBytes 4 c.markOut
    ++ optBytes 4 c.prevIn ++ leBytes 1 (flagByte [c.swapped, c.defaulted, c.clampedFlag, c.warned])
    ++ leInt 4 c.nominal ++ leBytes 1 c.endMode.code ++ [boolByte c.watch] ++ leBytes 2 c.label
    ++ leBytes 1 c.angles.length
    ++ ((c.angles.flatMap fun a => leBytes 1 a.feed.val ++ leInt 4 a.offset) ++ List.replicate 15 0#8).take 15
    ++ leBytes 1 c.useCount

/-- The presentation record of R93 as READ_CHANNEL carries it, 16 bytes. -/
def PresRecord.bytes (r : PresRecord) : List Byte :=
  leBytes 1 (flagByte [r.shown.isSome, r.repeated.isSome, r.blendDropped])
    ++ (match r.shown with
      | none => List.replicate 11 0#8
      | some x => leBytes 1 x.feed.val ++ leBytes 4 x.frame ++ optBytes 4 x.partner ++ leBytes 1 x.weight)
    ++ (match r.repeated with
      | none => [0#8]
      | some c => leBytes 1 c.code)
    ++ optBytes 2 (r.shown.bind (·.clip))

/-- The READ_ERROR and CLEAR_ERROR result body of R152, 10 bytes. -/
def errorBytes : Option ErrorRecord → List Byte
  | none => List.replicate 10 0#8
  | some e =>
    [1#8] ++ leBytes 1 e.feed.val ++ leBytes 4 e.frame ++ optBytes 1 e.index ++ leBytes 1 e.cause.code
      ++ [boolByte e.more]

/-- One entry of the READ_LIST result body, 8 bytes (R124, R202). -/
def CueEntry.bytes (e : CueEntry) (st : ClipState) : List Byte :=
  leBytes 2 e.clip ++ optInt 4 e.speed ++ leBytes 1 st.code

end Sys2Proof.Machine
end

