-- ==== Sys2Proof/Machine/Flags.lean ====
section
/-!
DEFINITION. The flags and check values the manual computes: the two CRCs (R6, R188), the urgent flag (R16), the rule
by which AT_LIVE and AT_TAIL are cleared (R67), the clip's WARNED flag (R46), and ATTN (R198).
-/

namespace Sys2Proof.Machine

/-! ## Check values -/

/-- The bits of a byte, least significant first. -/
def bitsLE (b : Byte) : List Bool := [b[0], b[1], b[2], b[3], b[4], b[5], b[6], b[7]]

/-- One bit into the frame CRC register, polynomial 04C11DB7 hexadecimal (R6). -/
def crc32Bit (r : BitVec 32) (bit : Bool) : BitVec 32 :=
  if r.msb = bit then r <<< 1 else (r <<< 1) ^^^ 0x04C11DB7#32

/-- One byte, least significant bit first (R6). -/
def crc32Byte (r : BitVec 32) (b : Byte) : BitVec 32 := (bitsLE b).foldl crc32Bit r

/-- The register takes in a fragment's bytes in the order they arrived (R6). -/
def crc32Feed (r : BitVec 32) (d : Fragment) : BitVec 32 := d.foldl crc32Byte r

/-- The register's start: all ones (R6). -/
def crc32Start : BitVec 32 := 0xFFFFFFFF#32

/-- The bits of a word in the opposite order. -/
def reverseBits (w : BitVec 32) : BitVec 32 :=
  (List.range 32).foldl (fun acc i => if w.getLsbD i then acc ||| (1#32 <<< (31 - i)) else acc) 0#32

/-- The final value: inverted, and the bit order of the result reversed (R6). -/
def crc32Final (r : BitVec 32) : BitVec 32 := reverseBits (~~~ r)

/-- One bit into the link CRC register, polynomial 1021 hexadecimal (R188). -/
def crc16Bit (r : BitVec 16) (bit : Bool) : BitVec 16 :=
  if r.msb = bit then r <<< 1 else (r <<< 1) ^^^ 0x1021#16

/-- One byte, most significant bit first (R188). -/
def crc16Byte (r : BitVec 16) (b : Byte) : BitVec 16 := (bitsLE b).reverse.foldl crc16Bit r

/-- The link CRC: the register starts at all ones and is sent without inversion (R188). -/
def crc16 (bytes : List Byte) : BitVec 16 := bytes.foldl crc16Byte 0xFFFF#16

/-! ## Flags -/

/-- The urgent flag of a feed whose buffer has come to hold `n` fragments: set at 64 or more, cleared at 16 or fewer,
kept between (R16). -/
def urgentAfter (flag : Bool) (n : Nat) : Bool :=
  if Config.urgentAt ≤ n then true else if n ≤ Config.calmAt then false else flag

/-- AT_LIVE is cleared when P's frame lies below the head (R67). -/
def atLiveAfter (flag : Bool) (frame head : Nat) : Bool := flag && !(frame < head)

/-- AT_TAIL is cleared when P's frame lies above the tail (R67). -/
def atTailAfter (flag : Bool) (frame tail : Nat) : Bool := flag && !(tail < frame)

/-- A change of the mark-in value clears WARNED (R46). -/
def warnedAfter (flag : Bool) (oldIn newIn : Nat) : Bool := flag && oldIn == newIn

/-- The first cause marked on a frame stays its pending cause (R5). -/
def firstCause (pending : Option DamageCause) (c : DamageCause) : Option DamageCause :=
  match pending with
  | some p => some p
  | none => some c

/-- A cell's count rises by one and stays at 255 once there (R195). -/
def countUp (n : Nat) : Nat := if n < 255 then n + 1 else 255

/-- ATTN is asserted while at least one cell has its latch set and its enable on (R198). -/
def State.attn (s : State) : Bool := s.cells.any fun c => c.latch && c.enable

end Sys2Proof.Machine
end

