-- ==== Sys2Proof/Machine/Ops.lean ====
section
/-!
DEFINITION. The named operations every block uses: the sparse tables, one feed or channel of the state, the
transmitter (R193), the Notice Unit's cells (R194, R195), replies (R191) and the use counts of clips (R47).
-/

namespace Sys2Proof

/-! ## Sparse tables -/

/-- The value a key has, if any. -/
def SMap.find {α : Type} : SMap α → Nat → Option α
  | [], _ => none
  | (i, v) :: t, k => if i = k then some v else SMap.find t k

/-- Give a key a value, keeping the keys rising. -/
def SMap.put {α : Type} : SMap α → Nat → α → SMap α
  | [], k, v => [(k, v)]
  | (i, w) :: t, k, v =>
    if k < i then (k, v) :: (i, w) :: t
    else if k = i then (k, v) :: t
    else (i, w) :: SMap.put t k v

/-- Take a key out. -/
def SMap.del {α : Type} : SMap α → Nat → SMap α
  | [], _ => []
  | (i, w) :: t, k => if i = k then t else (i, w) :: SMap.del t k

/-- Change the value of a key that has one. -/
def SMap.adjust {α : Type} : SMap α → Nat → (α → α) → SMap α
  | [], _, _ => []
  | (i, w) :: t, k, f => if i = k then (i, f w) :: t else (i, w) :: SMap.adjust t k f

/-- The least key from `k` on, among `n`, that has no value. -/
def SMap.freeFrom {α : Type} (m : SMap α) : Nat → Nat → Option Nat
  | 0, _ => none
  | n + 1, k => if (SMap.find m k).isNone then some k else SMap.freeFrom m n (k + 1)

/-- The least key below `bound` that has no value. -/
def SMap.firstFree {α : Type} (m : SMap α) (bound : Nat) : Option Nat := SMap.freeFrom m bound 0

/-- The keys rise strictly: the canonical form. -/
def SMap.wf {α : Type} : SMap α → Bool
  | [] => true
  | [_] => true
  | (i, _) :: (j, w) :: t => i < j && SMap.wf ((j, w) :: t)

namespace Machine

/-! ## One feed, one channel -/

def State.feed (s : State) (f : FeedId) : Feed := s.feeds.get f

def State.setFeed (s : State) (f : FeedId) (x : Feed) : State := { s with feeds := s.feeds.set f x }

def State.chan (s : State) (c : ChanId) : Channel := s.chans.get c

def State.setChan (s : State) (c : ChanId) (x : Channel) : State := { s with chans := s.chans.set c x }

/-- All feeds, in number order. -/
def allFeeds : List FeedId := [0, 1, 2, 3, 4, 5, 6, 7]

/-- All channels, in number order. -/
def allChans : List ChanId := [0, 1, 2, 3]

/-! ## Head, tail and playable range (R18) -/

/-- max(0, N − D). -/
def Feed.oldest (x : Feed) : Nat := x.nextFrame - x.cfg.depth

/-- max(0, N − D) + G. -/
def Feed.tail (x : Feed) : Nat := x.oldest + x.cfg.guard

/-- The frames from tail to head; none while the head is absent or lies below the tail. -/
def Feed.range (x : Feed) : Option Window :=
  match x.head with
  | none => none
  | some h => if x.tail ≤ h then some ⟨x.tail, h⟩ else none

/-- A feed is selected while BEGIN is not above END (R2). -/
def FeedConfig.selected (c : FeedConfig) : Bool := c.beginAddr ≤ c.endAddr

/-- The first fragment address of the ring slot of frame `n` (R2). -/
def FeedConfig.slotBase (c : FeedConfig) (n : Nat) : Nat := c.beginAddr + (n % c.depth) * c.stride

/-- The directory entry that describes frame `n`: entry n mod D (R4). -/
def Feed.entry (x : Feed) (n : Nat) : Option Entry := SMap.find x.directory (n % x.cfg.depth)

/-! ## Transmitter (R193) -/

/-- Whether a waiting record is the notice of a class and unit. -/
def TxRecord.isNotice (cls : NoticeClass) (unit : Nat) : TxRecord → Bool
  | .reply .. => false
  | .notice c u _ _ => c == cls && u == unit

def TxRecord.isReply : TxRecord → Bool
  | .reply .. => true
  | .notice .. => false

/-- A notice joins the output queue, or gives a waiting notice of its class and unit the new count and detail. -/
def joinNotice (cls : NoticeClass) (unit count : Nat) (d : Detail) : List TxRecord → List TxRecord
  | [] => [.notice cls unit count d]
  | r :: rs => if r.isNotice cls unit then .notice cls unit count d :: rs else r :: joinNotice cls unit count d rs

/-- When no record is being sent and the queue is not empty, the record at the front is taken. -/
def Link.begin (l : Link) : Link :=
  match l.sending, l.outQueue with
  | none, r :: rest => { l with sending := some r, outQueue := rest }
  | _, _ => l

/-- A notice record is handed to the transmitter. -/
def Link.handNotice (l : Link) (cls : NoticeClass) (unit count : Nat) (d : Detail) : Link :=
  Link.begin { l with outQueue := joinNotice cls unit count d l.outQueue }

/-- A reply is handed to the transmitter. -/
def Link.handReply (l : Link) (r : TxRecord) : Link := Link.begin { l with outQueue := l.outQueue ++ [r] }

/-- The reply to the command taken last has been sent whole (R191). -/
def Link.replySent (l : Link) : Bool :=
  !(l.outQueue.any TxRecord.isReply) && !(l.sending.any TxRecord.isReply)

/-! ## Notice Unit (R194, R195) -/

/-- The first cell of a class in cell order. -/
def NoticeClass.firstCell : NoticeClass → Nat
  | .cueReady => 0
  | .clipEnd => 4
  | .clipTaken => 8
  | .lateFrame => 12
  | .atLive => 16
  | .tailPush => 20
  | .windowLost => 24
  | .fetchTimeout => 28
  | .ingestDamage => 32
  | .feedExhausted => 40
  | .mark => 48
  | .markRefused => 49
  | .clipExpired => 50
  | .clipAtRisk => 51
  | .storeError => 52
  | .linkError => 53

/-- How many units a class has. -/
def NoticeClass.units : NoticeClass → Nat
  | .ingestDamage => 8
  | .feedExhausted => 8
  | .mark => 1
  | .markRefused => 1
  | .clipExpired => 1
  | .clipAtRisk => 1
  | .storeError => 1
  | .linkError => 1
  | _ => 4

/-- The class a number names; a class above 15 names none. -/
def noticeClass? : Nat → Option NoticeClass
  | 0 => some .cueReady
  | 1 => some .clipEnd
  | 2 => some .clipTaken
  | 3 => some .lateFrame
  | 4 => some .atLive
  | 5 => some .tailPush
  | 6 => some .windowLost
  | 7 => some .fetchTimeout
  | 8 => some .ingestDamage
  | 9 => some .feedExhausted
  | 10 => some .mark
  | 11 => some .markRefused
  | 12 => some .clipExpired
  | 13 => some .clipAtRisk
  | 14 => some .storeError
  | 15 => some .linkError
  | _ => none

/-- The classes in number order. -/
def allClasses : List NoticeClass :=
  [.cueReady, .clipEnd, .clipTaken, .lateFrame, .atLive, .tailPush, .windowLost, .fetchTimeout, .ingestDamage,
   .feedExhausted, .mark, .markRefused, .clipExpired, .clipAtRisk, .storeError, .linkError]

/-- The position of a class and unit in cell order. -/
def cellIndex (cls : NoticeClass) (unit : Nat) : Nat := cls.firstCell + unit

def State.cell (s : State) (i : Nat) : Cell := s.cells.getD i Cell.clear

/-- The cell an event of detail `d` reaches: latest detail, count up, latch set (R195). -/
def Cell.take (c : Cell) (d : Detail) : Cell :=
  { c with latch := true, count := countUp c.count, detail := some d }

/-- A block raises an event for a unit; the Notice Unit takes it at the cell of its class and unit, and hands a notice
record to the transmitter when the latch of an enabled cell sets (R195). -/
def raise (unit : Nat) (d : Detail) (s : State) : State :=
  let i := cellIndex d.cls unit
  let c := s.cell i
  { s with
    cells := s.cells.set i (c.take d)
    link := if !c.latch && c.enable then s.link.handNotice d.cls unit (countUp c.count) d else s.link }

/-- The unit of a part class (R194). -/
def partUnit : Nat := 0

/-! ## Commands and replies (R191, R192) -/

/-- What a command leaves: the state, the status code and the result body. -/
structure CmdResult where
  state : State
  status : Status
  body : List Byte
  deriving DecidableEq, Repr

/-- A refused command changes nothing, and its reply carries an empty result body (R192). -/
def refuse (s : State) (st : Status) : CmdResult := ⟨s, st, []⟩

/-- Taken, with the status OK, or CLAMPED if a value was clamped. -/
def done (s : State) (clamped : Bool) (body : List Byte) : CmdResult :=
  ⟨s, if clamped then .clamped else .ok, body⟩

/-- The decoder forms the reply and hands it to the transmitter after the command's own notices (R191). -/
def replyWith (kind tag : Byte) (r : CmdResult) : State :=
  { r.state with link := r.state.link.handReply (.reply tag kind r.status r.body) }

/-- A command frame of a kind: a body that does not fit is refused with BAD_LENGTH, else the command's own rule acts
(R192); then the reply. -/
def runCommand {α : Type} (kind tag : Byte) (parsed : Option α) (act : α → State → CmdResult) (s : State) : State :=
  replyWith kind tag
    (match parsed with
     | none => refuse s .badLength
     | some a => act a s)

/-! ## Use counts (R47) -/

/-- A new holding of a clip raises its use count by one. -/
def takeClip (id : Nat) (s : State) : State :=
  { s with clips := s.clips.adjust id fun c => { c with useCount := c.useCount + 1 } }

/-- An ended holding of a clip lowers its use count by one. -/
def releaseClip (id : Nat) (s : State) : State :=
  { s with clips := s.clips.adjust id fun c => { c with useCount := c.useCount - 1 } }

/-- The take a material sends; feed material sends none (R74). -/
def takeMaterial (m : Option Material) (s : State) : State :=
  match m with
  | some (.clip id) => takeClip id s
  | _ => s

/-- The release a material sends; feed material sends none (R74). -/
def releaseMaterial (m : Option Material) (s : State) : State :=
  match m with
  | some (.clip id) => releaseClip id s
  | _ => s

/-- A channel's material becomes `m`: the take of the new and the release of the old are one event at the Clip Table
(R74). -/
def changeMaterial (ch : ChanId) (m : Option Material) (s : State) : State :=
  let old := (s.chan ch).material
  let s := releaseMaterial old (takeMaterial m s)
  s.setChan ch { s.chan ch with material := m }

end Machine

end Sys2Proof
end

