-- ==== Sys2Proof/Machine/Clips.lean ====
section
/-!
DEFINITION. The Clip Table and Mark Unit (spec/02_clips_and_marks.md): expiry and the at-risk watch, mark capture,
MARK_IN, MARK_OUT, MAKE_CLIP, TRIM_CLIP, SET_CLIP, DELETE_CLIP, READ_CLIP, LIST_CLIPS.
-/

namespace Sys2Proof.Machine

/-! ## Expiry and the at-risk watch (R43, R45, R46) -/

/-- OPEN or CLOSED. -/
def Clip.alive (c : Clip) : Bool := c.state == .opened || c.state == .closed

/-- Every pending reference that names the clip becomes absent (R27). -/
def clearRefs (id : Nat) (s : State) : State := { s with markRefs := s.markRefs.filter fun r => r.2 != id }

/-- One clip expires: state, pending reference, CLIP_EXPIRED (R43, R45). -/
def expireClip (id : Nat) (c : Clip) (tail : Option Nat) (s : State) : State :=
  let s := { s with clips := s.clips.put id { c with state := .expired } }
  let s := if c.state = .opened then clearRefs id s else s
  raise partUnit (.clipExpired id c.feed c.markIn tail none false) s

/-- Every OPEN or CLOSED clip of a feed that `hit` picks expires, in id order: R43's order for a new tail, and the
model's choice at RESTART_FEED, where R21 and R45 give none (log entry 33). -/
def expireWhere (f : FeedId) (hit : Clip → Bool) (tail : Option Nat) (s : State) : State :=
  s.clips.foldl (fun acc r => if r.2.alive && r.2.feed == f && hit r.2 then expireClip r.1 r.2 tail acc else acc) s

/-- Whether the at-risk watch warns a clip of feed `f` at new tail `t` and warn distance `w` (R46). -/
def Clip.atRisk (c : Clip) (f : FeedId) (t w : Nat) : Bool :=
  c.alive && c.feed == f && c.watch && 0 < w && !c.warned && c.markIn ≤ t + w

/-- The at-risk watch over the table (R46), in id order, the model's choice: R46 gives none (log entry 33). -/
def watchClips (f : FeedId) (t : Nat) (s : State) : State :=
  let w := (s.feed f).cfg.warn
  s.clips.foldl (fun acc r =>
    if r.2.atRisk f t w then
      raise partUnit (.clipAtRisk r.1 r.2.markIn t) { acc with clips := acc.clips.put r.1 { r.2 with warned := true } }
    else acc) s

/-- The Clip Table takes a new tail of a feed: expiry, then the at-risk check (R43, R45). -/
def takeTail (f : FeedId) (t : Nat) (s : State) : State :=
  watchClips f t (expireWhere f (fun c => c.markIn < t) (some t) s)

/-- The Clip Table takes the oldest overwrite notice of a feed it has not taken (R43). -/
def clipNotice (f : FeedId) (s : State) : State :=
  match (s.feed f).clipNotices with
  | [] => s
  | n :: rest => takeTail f n.tail (s.setFeed f { s.feed f with clipNotices := rest })

/-! ## Capture (R29, R30) -/

/-- A mark source: a channel or a feed (R27). -/
inductive MarkSource where
  | chan (c : ChanId)
  | feed (f : FeedId)
  deriving DecidableEq, Repr

/-- Sources 0 to 3 are the channels and 4 to 11 the feeds (R27). -/
def markSource? (n : Nat) : Option MarkSource :=
  match chanOf? n with
  | some c => some (.chan c)
  | none => (feedOf? (n - 4)).map .feed

/-- The feed of a material: a clip's primary feed, or the feed itself (R29, R72). -/
def materialFeed (s : State) : Material → Option FeedId
  | .feed f => some f
  | .clip id => (s.clips.find id).map (·.feed)

/-- The channel's feed: the feed of its material, a slave's own feed among them (R29, R72). -/
def channelFeed (s : State) (ch : ChanId) : Option FeedId := (s.chan ch).material.bind (materialFeed s)

/-- The source's present feed (R29, R30, R32). -/
def sourceFeed (s : State) : MarkSource → Option FeedId
  | .chan c => if (s.chan c).state = .idle then none else channelFeed s c
  | .feed f => some f

/-- A capture: the feed, its tail at the mark, the frame, and whether it was clamped. -/
structure Capture where
  feed : FeedId
  tail : Nat
  frame : Nat
  clamped : Bool
  deriving DecidableEq, Repr

/-- The capture of a mark on a source, or the status of its refusal (R29, R30). The tail is the one the feed holds now,
also while the Clip Table has an overwrite notice of the feed still to take: the model's choice, since R44's "mark
first" names the old tail (log entry 36). -/
def capture (s : State) (src : MarkSource) : Except Status Capture :=
  match sourceFeed s src with
  | none => .error .noMaterial
  | some f =>
    match (s.feed f).range with
    | none => .error .noHead
    | some w =>
      match src with
      | .feed _ => .ok ⟨f, w.lo, w.hi, false⟩
      | .chan c =>
        let frame := (s.chan c).pos / 1024
        let got := clampNat w.lo w.hi frame
        .ok ⟨f, w.lo, got, got != frame⟩

/-- The angle list a new clip takes from a source: one entry for each slave when the source is a gang master (R33,
R117). -/
def sourceAngles (s : State) : MarkSource → List Angle
  | .chan c => (s.gangs.get c).map fun g => ⟨g.feed, g.offset⟩
  | .feed _ => []

/-- A record that leaves FREE, with the creation values of R24. -/
def Clip.create (st : ClipState) (f : FeedId) (i : Nat) (o : Option Nat) : Clip :=
  { state := st, feed := f, markIn := i, markOut := o, prevIn := none, swapped := false, defaulted := false,
    clampedFlag := false, warned := false, nominal := 1024, endMode := .stop, watch := true, label := 0, angles := [],
    useCount := 0 }

/-- The lowest FREE id (R26). -/
def freeClip (s : State) : Option Nat := s.clips.firstFree Config.clipRecords

/-- A mark that succeeds raises MARK and answers with the same items (R31). -/
def markDone (id n : Nat) (action : MarkAction) (frame : Nat) (clamped : Bool) (s : State) : CmdResult :=
  done (raise partUnit (.mark id n action frame) s) clamped (Detail.markBytes id n action frame)

/-- A mark that is refused leaves the table and the references as they were and raises MARK_REFUSED (R31). -/
def markRefused (n : Nat) (side : MarkSide) (st : Status) (s : State) : CmdResult :=
  refuse (raise partUnit (.markRefused n side st) s) st

/-! ## MARK_IN (R32, R33) -/

/-- A MARK_IN that creates an OPEN clip (R33). -/
def markInNew (n : Nat) (src : MarkSource) (s : State) : CmdResult :=
  match capture s src with
  | .error st => markRefused n .into st s
  | .ok cap =>
    match freeClip s with
    | none => markRefused n .into .tableFull s
    | some id =>
      let c := { Clip.create .opened cap.feed cap.frame none with
        clampedFlag := cap.clamped, angles := sourceAngles s src }
      markDone id n .newIn cap.frame cap.clamped
        { s with clips := s.clips.put id c, markRefs := s.markRefs.put n id }

/-- A MARK_IN that re-marks the source's pending clip (R32, R46). -/
def markInAgain (n : Nat) (src : MarkSource) (id : Nat) (c : Clip) (s : State) : CmdResult :=
  match capture s src with
  | .error st => markRefused n .into st s
  | .ok cap =>
    let c' := { c with markIn := cap.frame, prevIn := some c.markIn, clampedFlag := cap.clamped,
                       warned := warnedAfter c.warned c.markIn cap.frame }
    markDone id n .remark cap.frame cap.clamped { s with clips := s.clips.put id c' }

/-- The pending clip of a source, when its primary feed is the source's present feed (R32, R34). -/
def pendingClip (s : State) (n : Nat) (src : MarkSource) : Option (Nat × Clip) :=
  match s.markRefs.find n with
  | none => none
  | some id =>
    match s.clips.find id with
    | none => none
    | some c => if sourceFeed s src = some c.feed then some (id, c) else none

/-- MARK_IN on source `n` (R31 to R33). A reference to a clip of another feed gives way to the new clip's; after a
refusal it stands as it was (R31). -/
def cmdMarkIn (n : Nat) (s : State) : CmdResult :=
  match markSource? n with
  | none => refuse s .badArgument
  | some src =>
    match pendingClip s n src with
    | some (id, c) => markInAgain n src id c s
    | none => markInNew n src s

/-! ## MARK_OUT (R34, R35) -/

/-- A MARK_OUT that creates a CLOSED clip of the default length (R35). -/
def markOutNew (n : Nat) (src : MarkSource) (s : State) : CmdResult :=
  match capture s src with
  | .error st => markRefused n .out st s
  | .ok cap =>
    match freeClip s with
    | none => markRefused n .out .tableFull s
    | some id =>
      let i := (max (cap.tail : Int) ((cap.frame : Int) - s.defaultLen + 1)).toNat
      let c := { Clip.create .closed cap.feed i (some cap.frame) with
        defaulted := true, clampedFlag := cap.clamped, angles := sourceAngles s src }
      markDone id n .newOut cap.frame cap.clamped
        { s with clips := s.clips.put id c, markRefs := s.markRefs.del n }

/-- A mark pair in order, and whether it was exchanged (R34, R36, R37). -/
def orderPair (i o : Nat) : Nat × Nat × Bool := if o < i then (o, i, true) else (i, o, false)

/-- A MARK_OUT that closes the source's pending clip (R34, R46). -/
def markOutClose (n : Nat) (src : MarkSource) (id : Nat) (c : Clip) (s : State) : CmdResult :=
  match capture s src with
  | .error st => markRefused n .out st s
  | .ok cap =>
    let (i, o, swapped) := orderPair c.markIn cap.frame
    let c' := { c with state := .closed, markIn := i, markOut := some o, swapped := swapped,
                       clampedFlag := cap.clamped, warned := warnedAfter c.warned c.markIn i }
    markDone id n .close o cap.clamped { s with clips := s.clips.put id c', markRefs := s.markRefs.del n }

/-- MARK_OUT on source `n` (R31, R34, R35). -/
def cmdMarkOut (n : Nat) (s : State) : CmdResult :=
  match markSource? n with
  | none => refuse s .badArgument
  | some src =>
    match pendingClip s n src with
    | some (id, c) => markOutClose n src id c s
    | none => markOutNew n src s

/-! ## Clips made and changed by the host -/

/-- MAKE_CLIP (R36), with the range the feed holds now (log entry 36). -/
def cmdMakeClip (feed i o : Nat) (s : State) : CmdResult :=
  match feedOf? feed with
  | none => refuse s .badArgument
  | some f =>
    match (s.feed f).range with
    | none => refuse s .noHead
    | some w =>
      match freeClip s with
      | none => refuse s .tableFull
      | some id =>
        let i' := clampNat w.lo w.hi i
        let o' := clampNat w.lo w.hi o
        let clamped := i' != i || o' != o
        let (a, b, swapped) := orderPair i' o'
        let c := { Clip.create .closed f a (some b) with swapped := swapped, clampedFlag := clamped }
        done { s with clips := s.clips.put id c } clamped (leBytes 2 id ++ leBytes 4 a ++ leBytes 4 b)

/-- The reply of TRIM_CLIP: the mark-in and mark-out written; the mark-out of a clip left OPEN is absent. -/
def trimReply (i : Nat) (o : Option Nat) : List Byte := leBytes 4 i ++ optBytes 4 o

/-- TRIM_CLIP of a clip in the range `w` of its primary feed (R37, R38). -/
def trimClip (id : Nat) (c : Clip) (w : Window) (i o : Option Nat) (s : State) : CmdResult :=
  let i' := i.map (clampNat w.lo w.hi)
  let o' := o.map (clampNat w.lo w.hi)
  let clamped := i' != i || o' != o
  let newIn := i'.getD c.markIn
  match (match o' with | some x => some x | none => c.markOut) with
  | none =>
    -- an OPEN clip given a mark-in alone stays OPEN (R38)
    let c' := { c with markIn := newIn, clampedFlag := clamped, defaulted := false,
                       warned := warnedAfter c.warned c.markIn newIn }
    done { s with clips := s.clips.put id c' } clamped (trimReply newIn none)
  | some newOut =>
    let (a, b, swapped) := orderPair newIn newOut
    let c' := { c with state := .closed, markIn := a, markOut := some b, swapped := swapped, clampedFlag := clamped,
                       defaulted := c.defaulted && i.isNone, warned := warnedAfter c.warned c.markIn a }
    let s' := { s with clips := s.clips.put id c' }
    done (if c.state = .opened then clearRefs id s' else s') clamped (trimReply a (some b))

/-- TRIM_CLIP (R37, R38), with the range the feed holds now (log entry 36). -/
def cmdTrimClip (id : Nat) (i o : Option Nat) (s : State) : CmdResult :=
  if Config.clipRecords ≤ id || (i.isNone && o.isNone) then refuse s .badArgument
  else
    match s.clips.find id with
    | none => refuse s .notFound
    | some c =>
      if c.state = .expired then refuse s .expired
      else
        match (s.feed c.feed).range with
        | none => refuse s .noHead
        | some w => trimClip id c w i o s

/-- The angle list of a SET_CLIP: at most 3 entries, each with a feed in range (R39). -/
def angleList? (l : List (Nat × Int)) : Option (List Angle) :=
  if 3 < l.length then none else l.mapM fun a => (feedOf? a.1).map fun f => ⟨f, clampOffset a.2⟩

/-- SET_CLIP (R39). -/
def cmdSetClip (id : Nat) (x : ClipFields) (s : State) : CmdResult :=
  if Config.clipRecords ≤ id then refuse s .badArgument
  else
    match optCode? endMode? x.endMode, optCode? onOff? x.watch, x.angles.mapM angleList? with
    | some mode, some watch, some angles =>
      match s.clips.find id with
      | none => refuse s .notFound
      | some c =>
        let clamped := x.nominal.any (fun v => clampSpeed v != v)
          || x.angles.any (fun l => l.any fun a => clampOffset a.2 != a.2)
        let c' := { c with
          nominal := (x.nominal.map clampSpeed).getD c.nominal
          endMode := mode.getD c.endMode
          watch := watch.getD c.watch
          warned := c.warned && !(watch == some true && !c.watch)
          label := x.label.getD c.label
          angles := angles.getD c.angles }
        done { s with clips := s.clips.put id c' } clamped []
    | _, _, _ => refuse s .badArgument

/-- DELETE_CLIP (R40). -/
def cmdDeleteClip (id : Nat) (s : State) : CmdResult :=
  if Config.clipRecords ≤ id then refuse s .badArgument
  else
    match s.clips.find id with
    | none => refuse s .notFound
    | some c =>
      if 0 < c.useCount then refuse s .inUse
      else done (clearRefs id { s with clips := s.clips.del id }) false []

/-- READ_CLIP (R41). -/
def cmdReadClip (id : Nat) (s : State) : CmdResult :=
  if Config.clipRecords ≤ id then refuse s .badArgument
  else
    match s.clips.find id with
    | none => refuse s .notFound
    | some c => done s false (c.bytes id)

/-- The continue id of a LIST_CLIPS that found `found` and stops at `n` records (R42). -/
def continueId (found : List (Nat × Clip)) (n : Nat) : Option Nat :=
  match found.getLast? with
  | none => none
  | some r => if found.length = n && r.1 < 1023 then some (r.1 + 1) else none

/-- LIST_CLIPS (R42). -/
def cmdListClips (first count : Nat) (s : State) : CmdResult :=
  if Config.clipRecords ≤ first then refuse s .badArgument
  else
    let n := min (clampNat 1 16 count) 5
    let found := (s.clips.filter fun r => first ≤ r.1).take n
    done s (clampNat 1 16 count != count)
      (leBytes 1 found.length ++ (found.flatMap fun r => r.2.bytes r.1) ++ optBytes 2 (continueId found n))

/-- The state of a clip as a report shows it; a record that stands in no table is FREE (R24, R124). -/
def clipState (s : State) (id : Nat) : ClipState :=
  match s.clips.find id with
  | none => .free
  | some c => c.state

end Sys2Proof.Machine
end

