-- ==== Sys2Proof/Machine/Ingest.lean ====
section
/-!
DEFINITION. The Ingest Controller and the Frame Directory (spec/01_recording_rings_and_the_frame_directory.md): frame
starts, fragments and frame ends, overwrite notices, store writes, finishing, the directory's services for the Frame
Cache, RESTART_FEED and READ_FEED.
-/

namespace Sys2Proof.Machine

/-! ## The ingest buffer and the pending list -/

/-- The buffer becomes `b`, and the urgent flag follows it (R16). -/
def Feed.withBuffer (x : Feed) (b : List BufFragment) : Feed :=
  { x with buffer := b, urgent := urgentAfter x.urgent b.length }

/-- Whether fragments of frame `n` remain in the buffer. -/
def Feed.buffers (x : Feed) (n : Nat) : Bool := x.buffer.any fun g => g.frame == n

/-- A cause is marked on a frame in progress, open or pending (R5). -/
def Feed.markCause (x : Feed) (n : Nat) (c : DamageCause) : Feed :=
  { x with
    openFrame := x.openFrame.map fun o => if o.number = n then { o with cause := firstCause o.cause c } else o
    closing := x.closing.map fun p => if p.number = n then { p with cause := firstCause p.cause c } else p }

/-- The cause with which a closed frame finishes, absent for COMPLETE (R5). -/
def ClosedFrame.finalCause (p : ClosedFrame) : Option DamageCause :=
  match p.cause with
  | some c => some c
  | none => if p.count = 0 then some .empty else none

/-- The entry a finished frame leaves (R5, R17). -/
def ClosedFrame.finished (p : ClosedFrame) : Entry :=
  { frame := p.number, count := p.count, crc := some p.crc,
    state := match p.finalCause with
      | some c => .damaged c
      | none => .complete }

/-- INGEST_DAMAGE is raised for a frame that finished with a cause (R17). -/
def raiseDamage (f : FeedId) (n : Nat) (cause : Option DamageCause) (s : State) : State :=
  match cause with
  | some c => raise f.val (.ingestDamage n c) s
  | none => s

/-- The frame at the front of the pending list finishes (R17). -/
def finishFront (f : FeedId) (p : ClosedFrame) (s : State) : State :=
  let x := s.feed f
  let x' := { x with
    directory := x.directory.put (p.number % x.cfg.depth) p.finished
    closing := x.closing.drop 1
    head := some p.number
    lastCause := p.finalCause }
  raiseDamage f p.number p.finalCause (s.setFeed f x')

/-- The frames of the list finish in turn while none of their fragments remain in the buffer (R17). -/
def finishFrom (f : FeedId) : List ClosedFrame → State → State
  | [], s => s
  | p :: rest, s => if (s.feed f).buffers p.number then s else finishFrom f rest (finishFront f p s)

/-- The pending list is checked for finishing from its front (R17). -/
def finishFrames (f : FeedId) (s : State) : State := finishFrom f (s.feed f).closing s

/-! ## Frame end and frame start (R10, R11, R13, R14) -/

/-- The open frame as it enters the pending list (R10). -/
def OpenFrame.close (o : OpenFrame) (stride : Nat) : ClosedFrame :=
  { number := o.number, count := min o.arrivals stride, crc := crc32Final o.crc, cause := o.cause }

/-- The open frame, if any, is closed, after `mark` is marked on it (R10). -/
def closeFrame (f : FeedId) (mark : Option DamageCause) (s : State) : State :=
  let x := s.feed f
  match x.openFrame with
  | none => s
  | some o =>
    let o' := match mark with
      | some c => { o with cause := firstCause o.cause c }
      | none => o
    finishFrames f (s.setFeed f { x with openFrame := none, closing := x.closing ++ [o'.close x.cfg.stride] })

/-- The frame `n` is overtaken: its buffered fragments go, it finishes at once for the head with DROPPED marked, and
its entry is not written (R13). -/
def overtake (f : FeedId) (n : Nat) (s : State) : State :=
  let x := s.feed f
  let cause := ((x.closing.find? fun p => p.number == n).bind (·.cause)).getD .dropped
  let x' := { x.withBuffer (x.buffer.filter fun g => g.frame != n) with
    closing := x.closing.filter fun p => p.number != n
    head := some n
    lastCause := some cause }
  finishFrames f (raise f.val (.ingestDamage n cause) (s.setFeed f x'))

/-- Step 3 of R11: an entry still WRITING is overtaken. -/
def overtakeEntry (f : FeedId) (e : Option Entry) (s : State) : State :=
  match e with
  | some e => if e.state = .writing then overtake f e.frame s else s
  | none => s

/-- Steps 4 to 6 of R11: entry n mod D takes frame `n`, the overwrite notice for frame n − D is sent when n is D or
higher, and frame `n` becomes the open frame. -/
def openNewFrame (f : FeedId) (n : Nat) (s : State) : State :=
  let x := s.feed f
  let notice := if x.cfg.depth ≤ n then [OverwriteNotice.mk (n - x.cfg.depth) x.tail] else []
  s.setFeed f { x with
    directory := x.directory.put (n % x.cfg.depth) { frame := n, state := .writing, count := 0, crc := none }
    cacheNotices := x.cacheNotices ++ notice
    clipNotices := x.clipNotices ++ notice
    openFrame := some { number := n, arrivals := 0, crc := crc32Start, cause := none }
    state := .recording }

/-- A frame start with a number left to give (R11). -/
def startFrame (f : FeedId) (s : State) : State :=
  let s := closeFrame f (some .truncated) s
  let n := (s.feed f).nextFrame
  let s := s.setFeed f { s.feed f with nextFrame := n + 1 }
  openNewFrame f n (overtakeEntry f ((s.feed f).entry n) s)

/-- The frame start refused because every number has been given (R14). -/
def exhaust (f : FeedId) (s : State) : State :=
  let s := closeFrame f (some .truncated) s
  raise f.val (.feedExhausted 4294967295) (s.setFeed f { s.feed f with state := .exhausted })

/-- A frame-start mark at the feed's port (R11, R14). -/
def frameStart (f : FeedId) (s : State) : State :=
  let x := s.feed f
  match x.state with
  | .off => s
  | .exhausted => s
  | .waiting => if x.nextFrame < Config.frameNumbers then startFrame f s else s
  | .recording => if x.nextFrame < Config.frameNumbers then startFrame f s else exhaust f s

/-- A fragment at the feed's port (R9). -/
def fragment (f : FeedId) (d : Fragment) (s : State) : State :=
  let x := s.feed f
  match x.openFrame with
  | none => s
  | some o =>
    let o' := { o with arrivals := o.arrivals + 1 }
    if x.cfg.stride ≤ o.arrivals then
      s.setFeed f { x with openFrame := some { o' with cause := firstCause o.cause .oversize } }
    else if Config.ingestBuffer ≤ x.buffer.length then
      s.setFeed f { x with openFrame := some { o' with cause := firstCause o.cause .dropped } }
    else
      s.setFeed f { x.withBuffer (x.buffer ++ [⟨o.number, o.arrivals, d⟩]) with
        openFrame := some { o' with crc := crc32Feed o.crc d } }

/-! ## Store writes (R12, R15) -/

/-- A fragment of frame `n` is held back while the Frame Cache or the Clip Table has the overwrite notice of that
frame's start still to take (R12). -/
def Feed.held (x : Feed) (n : Nat) : Bool :=
  x.cacheNotices.any (fun w => w.lost + x.cfg.depth == n) || x.clipNotices.any (fun w => w.lost + x.cfg.depth == n)

/-- The fragment the feed's requester presents: the one at the front of the buffer, unless it is held back (R15). -/
def Feed.presented (x : Feed) : Option BufFragment :=
  match x.buffer with
  | [] => none
  | g :: _ => if x.held g.frame then none else some g

/-- The address fragment `g` is written at (R2). -/
def Feed.writeAddr (x : Feed) (g : BufFragment) : Nat := x.cfg.slotBase g.frame + g.index

/-- A beat granted to the feed writes its presented fragment, which leaves the buffer; STORE marks DROPPED on its
frame; the pending list is then checked for finishing (R15, R169). -/
def storeWrite (f : FeedId) (result : StoreResult) (s : State) : State :=
  let x := s.feed f
  match x.presented with
  | none => s
  | some g =>
    let x1 := x.withBuffer (x.buffer.drop 1)
    let x2 := match result with
      | .ok => x1
      | .store => x1.markCause g.frame .dropped
    finishFrames f { s.setFeed f x2 with storePort := .write f (x.writeAddr g) g.data }

/-! ## Services for the Frame Cache (R19, R20) -/

/-- The answers of the directory read (R19). -/
inductive DirAnswer where
  | entry (base count : Nat) (crc : BitVec 32)
  | damaged (cause : DamageCause)
  | gone
  deriving DecidableEq, Repr

/-- The directory read of frame `n` (R19). -/
def Feed.read (x : Feed) (n : Nat) : DirAnswer :=
  match x.entry n with
  | none => .gone
  | some e =>
    if e.frame = n then
      match e.state, e.crc with
      | .complete, some crc => .entry (x.cfg.slotBase n) e.count crc
      | .damaged c, _ => .damaged c
      | _, _ => .gone
    else .gone

/-- Whether the entry holds frame `n` and is DAMAGED (R135). -/
def Feed.damagedFrame (x : Feed) (n : Nat) : Bool :=
  match x.read n with
  | .damaged _ => true
  | _ => false

/-- The Ingest Controller takes a damage report for frame `n` (R20). -/
def damageTaken (f : FeedId) (n : Nat) (s : State) : State :=
  let x := s.feed f
  match x.entry n with
  | none => s
  | some e =>
    if e.frame = n ∧ e.state = .complete then
      raise f.val (.ingestDamage n .check)
        (s.setFeed f { x with directory := x.directory.put (n % x.cfg.depth) { e with state := .damaged .check } })
    else s

/-! ## RESTART_FEED, DISENGAGE and READ_FEED (R21, R22, R23) -/

/-- RESTART_FEED (R21, R45). The overwrite notices and damage reports sent and not yet taken stay, and act when they are
taken: the model's choice (log entry 39). -/
def cmdRestartFeed (feed : Nat) (s : State) : CmdResult :=
  match feedOf? feed with
  | none => refuse s .badArgument
  | some f =>
    if s.engaged = .engaged then refuse s .engaged
    else
      let x := { s.feed f with directory := [], nextFrame := 0, head := none, state := .off, lastCause := none }
      done (expireWhere f (fun _ => true) none (s.setFeed f x)) false []

/-- Every frame of the list has TRUNCATED marked and finishes, in order (R22). -/
def finishTruncated (f : FeedId) : List ClosedFrame → State → State
  | [], s => s
  | p :: rest, s => finishTruncated f rest (finishFront f { p with cause := firstCause p.cause .truncated } s)

/-- DISENGAGE at one feed (R22). -/
def disengageFeed (f : FeedId) (s : State) : State :=
  let s := closeFrame f (some .truncated) s
  let s := s.setFeed f { s.feed f with buffer := [] }
  let s := finishTruncated f (s.feed f).closing s
  s.setFeed f { s.feed f with state := .off, urgent := false }

/-- The feed status record of R23, 57 bytes (R202). -/
def Feed.bytes (x : Feed) : List Byte :=
  leBytes 1 x.state.code ++ [boolByte x.cfg.selected] ++ leBytes 4 x.cfg.beginAddr ++ leBytes 4 x.cfg.endAddr
    ++ leBytes 4 x.cfg.depth ++ leBytes 1 x.cfg.stride ++ leBytes 1 x.cfg.guard ++ leBytes 2 x.cfg.warn
    ++ leBytes 8 x.nextFrame ++ optBytes 4 x.head ++ leBytes 8 x.tail
    ++ optBytes 4 (if x.nextFrame = 0 then none else some x.oldest) ++ leBytes 1 x.buffer.length
    ++ [boolByte x.urgent] ++ optBytes 4 (x.openFrame.map (·.number)) ++ leBytes 4 x.closing.length
    ++ optBytes 1 (x.lastCause.map (·.code))

/-- READ_FEED (R23). -/
def cmdReadFeed (feed : Nat) (s : State) : CmdResult :=
  match feedOf? feed with
  | none => refuse s .badArgument
  | some f => done s false (s.feed f).bytes

end Sys2Proof.Machine
end

