-- ==== Sys2Proof/Machine/Cache.lean ====
section
/-!
DEFINITION. The Frame Cache (spec/07_the_frame_cache.md): slots, the LRU list, lookups and allocation, fills and their
beats, completion and abort, the fetch timeout, overwrite notices, pins, the store error latch.
-/

namespace Sys2Proof.Machine

/-! ## Slots, pins and the LRU list (R133, R134, R149) -/

def Slot.carries (x : Slot) (feed : FeedId) (frame : Nat) : Bool := x.feed == feed && x.frame == frame

/-- The slot, with its number, that carries a tag; at most one does (R133). -/
def Cache.tagged (c : Cache) (feed : FeedId) (frame : Nat) : Option (Nat × Slot) :=
  c.slots.find? fun r => r.2.carries feed frame

/-- The number of the VALID slot that carries a tag. -/
def Cache.validSlot (c : Cache) (feed : FeedId) (frame : Nat) : Option Nat :=
  (c.slots.find? fun r => r.2.carries feed frame && r.2.state == .valid).map (·.1)

/-- The pin count of a slot: every channel's pin on it (R149). -/
def Cache.pinCount (c : Cache) (i : Nat) : Nat := (allChans.filter fun ch => (c.pins.get ch).contains i).length

/-- A slot moves to the most-recent end, the last place of the list (R134). -/
def Cache.touch (c : Cache) (i : Nat) : Cache := { c with lru := c.lru.filter (· != i) ++ [i] }

/-- A slot leaves the LRU list (R134). -/
def Cache.unlist (c : Cache) (i : Nat) : Cache := { c with lru := c.lru.filter (· != i) }

/-- The pin set of a channel becomes `new`; an ORPHAN slot of the old set whose count falls to 0 becomes INVALID
(R149, R150). -/
def Cache.setPins (c : Cache) (ch : ChanId) (new : List Nat) : Cache :=
  let old := c.pins.get ch
  let c' := { c with pins := c.pins.set ch new }
  { c' with slots := c.slots.filter fun r => !(r.2.state == .orphan && old.contains r.1 && c'.pinCount r.1 == 0) }

/-- A presentation request that names a frame and perhaps a partner (R89, R149): the cache after it and whether the
partner was pinned, or none when the selected frame has no VALID slot. -/
def Cache.present (c : Cache) (ch : ChanId) (feed : FeedId) (frame : Nat) (partner : Option Nat) :
    Option (Cache × Bool) :=
  match c.validSlot feed frame with
  | none => none
  | some i =>
    match partner.bind (c.validSlot feed) with
    | some j => some (((c.touch i).touch j).setPins ch [i, j], true)
    | none => some ((c.touch i).setPins ch [i], false)

/-- The fragments of the frames a channel pins, the selected frame first (R89). -/
def Cache.pinnedData (c : Cache) (ch : ChanId) : List Fragment :=
  (c.pins.get ch).flatMap fun i =>
    match c.slots.find i with
    | none => []
    | some x => x.data

/-! ## Fills (R136, R137, R138, R139) -/

/-- The number of active fills a channel owns (R137). -/
def Cache.activeFills (c : Cache) (ch : ChanId) : Nat := (c.fills.filter fun r => r.2.owner == ch).length

/-- The slot an allocation takes: the lowest INVALID one, else the least recent unpinned VALID one (R136). -/
def Cache.pickSlot (c : Cache) : Option Nat :=
  match c.slots.firstFree Config.cacheSlots with
  | some i => some i
  | none => c.lru.find? fun i => c.pinCount i == 0

/-- The victim of a slot taken from the LRU list (R136). -/
def Cache.victimOf (c : Cache) (i : Nat) : Option Victim :=
  (c.slots.find i).map fun x => { feed := x.feed, frame := x.frame, count := x.count, data := x.data }

/-- A fill starts in slot `i` and context `k` with the entry data of its directory read (R136, R137, R139). -/
def Cache.startFill (c : Cache) (ch : ChanId) (feed : FeedId) (frame i k base count : Nat) (crc : BitVec 32) : Cache :=
  { c.unlist i with
    slots := c.slots.put i
      { state := .filling, feed := feed, frame := frame, count := count, data := [], context := some k,
        victim := c.victimOf i }
    fills := c.fills.put k
      { slot := i, owner := ch, waiters := [ch], order := c.activeFills ch, age := 0, base := base, count := count,
        crc := crc, next := 0, retried := false, running := crc32Start } }

/-- The allocation for a miss; none is BUSY (R136). -/
def Cache.allocate (c : Cache) (ch : ChanId) (feed : FeedId) (frame : Nat) (entry : DirAnswer) : Option Cache :=
  if Config.fillsPerChannel ≤ c.activeFills ch then none
  else
    match c.fills.firstFree Config.fillContexts, c.pickSlot, entry with
    | some k, some i, .entry base count crc => some (c.startFill ch feed frame i k base count crc)
    | _, _, _ => none

/-- The channel joins the waiter set of the fill in context `k` (R138). -/
def Cache.join (c : Cache) (ch : ChanId) (k : Nat) : Cache :=
  { c with fills := c.fills.adjust k fun f =>
      if f.waiters.contains ch then f else { f with waiters := f.waiters ++ [ch] } }

/-! ## Lookups (R135) -/

/-- A lookup of a frame that is in range and not DAMAGED, by the slot that carries its tag (R135, cases 3 to 5). -/
def Cache.answer (c : Cache) (ch : ChanId) (feed : FeedId) (frame : Nat) (entry : DirAnswer) : Cache × Answer :=
  match c.tagged feed frame with
  | none =>
    match c.allocate ch feed frame entry with
    | some c' => (c', .wait)
    | none => (c, .busy)
  | some (i, x) =>
    match x.state, x.context with
    | .valid, _ => (c.touch i, .resident)
    | .filling, some k => (c.join ch k, .wait)
    | _, _ => (c, .busy)

/-- Whether a frame lies in a playable range. -/
def Window.holds (w : Window) (frame : Nat) : Bool := w.lo ≤ frame && frame ≤ w.hi

/-- A lookup: the answer and the state it leaves (R135). -/
def lookup (ch : ChanId) (feed : FeedId) (frame : Nat) (s : State) : State × Answer :=
  let x := s.feed feed
  match x.range with
  | none => (s, .notAvailable .range)
  | some w =>
    if !w.holds frame then (s, .notAvailable .range)
    else if x.damagedFrame frame then (s, .notAvailable .damaged)
    else
      let r := s.cache.answer ch feed frame (x.read frame)
      ({ s with cache := r.1 }, r.2)

/-! ## The end of a fill (R137, R142, R143, R144, R145) -/

/-- A context becomes free, and the start orders of its owner's later fills fall by one (R137). -/
def Cache.freeContext (c : Cache) (k : Nat) (f : Fill) : Cache :=
  { c with fills := (c.fills.del k).map fun r =>
      if r.2.owner = f.owner ∧ f.order < r.2.order then (r.1, { r.2 with order := r.2.order - 1 }) else r }

/-- One report to each channel of the waiter set (R145). -/
def Cache.report (c : Cache) (waiters : List ChanId) (r : FillReport) : Cache :=
  { c with reports := waiters.foldl (fun q ch => q.set ch (q.get ch ++ [r])) c.reports }

/-- The slot of an aborted fill: the victim is restored at the least-recent end unless another slot carries its tag;
otherwise the slot becomes INVALID (R144). -/
def Cache.abandonSlot (c : Cache) (i : Nat) (x : Slot) : Cache :=
  match x.victim with
  | none => { c with slots := c.slots.del i }
  | some v =>
    if c.slots.any fun r => r.1 != i && r.2.carries v.feed v.frame then { c with slots := c.slots.del i }
    else { c with
      slots := c.slots.put i { state := .valid, feed := v.feed, frame := v.frame, count := v.count, data := v.data,
                               context := none, victim := none }
      lru := i :: c.lru }

/-- A fill aborts with a reason (R144). -/
def Cache.abort (c : Cache) (k : Nat) (reason : Reason) : Cache :=
  match c.fills.find k with
  | none => c
  | some f =>
    match c.slots.find f.slot with
    | none => c.freeContext k f
    | some x =>
      ((c.abandonSlot f.slot x).freeContext k f).report f.waiters
        { feed := x.feed, frame := x.frame, failed := some reason }

/-- The store error latch takes an error; the first one is kept, and a later one sets MORE (R151). -/
def enterError (feed : FeedId) (frame : Nat) (index : Option Nat) (cause : StoreErrorCause) (s : State) : State :=
  match s.cache.errorLatch with
  | some e => { s with cache := { s.cache with errorLatch := some { e with more := true } } }
  | none =>
    raise partUnit (.storeError feed frame index cause)
      { s with cache := { s.cache with
          errorLatch := some { feed := feed, frame := frame, index := index, cause := cause, more := false } } }

/-- A fill whose CRC matches leaves its slot VALID at the most-recent end (R142). -/
def Cache.complete (c : Cache) (k : Nat) (f : Fill) (x : Slot) : Cache :=
  (({ c with slots := c.slots.put f.slot { x with state := .valid, context := none, victim := none } }.touch
      f.slot).freeContext k f).report f.waiters { feed := x.feed, frame := x.frame, failed := none }

/-- A fill whose CRC does not match is not trusted: slot INVALID, damage report, reports DAMAGED (R143). -/
def Cache.mismatch (c : Cache) (k : Nat) (f : Fill) (x : Slot) : Cache :=
  ({ c with slots := c.slots.del f.slot, damageReports := c.damageReports ++ [(x.feed, x.frame)] }.freeContext
      k f).report f.waiters { feed := x.feed, frame := x.frame, failed := some .damaged }

/-! ## A beat of a fill (R140, R141) -/

/-- A fragment of a fill is accepted: data, running CRC, the victim dropped, the next fragment (R140). -/
def fillAccept (k : Nat) (f : Fill) (x : Slot) (d : Fragment) (s : State) : State :=
  let f' := { f with running := crc32Feed f.running d, retried := false, next := f.next + 1 }
  let x' := { x with data := x.data ++ [d], victim := none }
  let c := { s.cache with slots := s.cache.slots.put f.slot x', fills := s.cache.fills.put k f' }
  if f.next + 1 = f.count then
    if crc32Final f'.running = f.crc then { s with cache := c.complete k f' x' }
    else enterError x.feed x.frame none .check { s with cache := c.mismatch k f' x' }
  else { s with cache := c }

/-- A store error on a fill's fragment: entered in the latch, then one retry of fragment 0, else an abort (R141). -/
def fillError (k : Nat) (f : Fill) (x : Slot) (s : State) : State :=
  let s := enterError x.feed x.frame (some f.next) .store s
  if f.next = 0 ∧ f.retried = false then
    { s with cache := { s.cache with fills := s.cache.fills.put k { f with retried := true } } }
  else { s with cache := s.cache.abort k .store }

/-- A beat granted to the fill in context `k` reads its presented fragment, at base plus index (R140, R141). -/
def fillBeat (k : Nat) (result : StoreResult) (d : Fragment) (s : State) : State :=
  match s.cache.fills.find k with
  | none => s
  | some f =>
    match s.cache.slots.find f.slot with
    | none => s
    | some x =>
      let s := { s with storePort := .read f.owner (f.base + f.next) }
      match result with
      | .ok => fillAccept k f x d s
      | .store => fillError k f x s

/-! ## Fetch timeout (R146) -/

/-- Every fill a channel owns ages by one. -/
def Cache.ageFills (c : Cache) (ch : ChanId) : Cache :=
  { c with fills := c.fills.map fun r => if r.2.owner = ch then (r.1, { r.2 with age := r.2.age + 1 }) else r }

/-- The contexts of a channel's fills whose age has reached the fetch timeout, oldest fill first. -/
def Cache.timedOut (c : Cache) (ch : ChanId) : List Nat :=
  ((c.fills.filter fun r => r.2.owner == ch && Config.fetchTimeout ≤ r.2.age).insertionSort
    fun a b => a.2.order ≤ b.2.order).map (·.1)

/-- A fill times out: abort, the owner's preload flag cleared, FETCH_TIMEOUT (R97, R146). -/
def timeOut (ch : ChanId) (k : Nat) (s : State) : State :=
  match s.cache.fills.find k with
  | none => s
  | some f =>
    let s' := State.setChan { s with cache := s.cache.abort k .timeout } ch { s.chan ch with preload := false }
    match s.cache.slots.find f.slot with
    | none => s'
    | some x => raise ch.val (.fetchTimeout x.feed x.frame k f.next) s'

/-- The Frame Cache counts one output tick of a channel (R146). -/
def countTick (ch : ChanId) (s : State) : State :=
  let c := s.cache.ageFills ch
  (c.timedOut ch).foldl (fun acc k => timeOut ch k acc) { s with cache := c }

/-! ## Overwrite notices (R147) -/

/-- FILLING slots whose victim is the lost frame drop it (R147). -/
def Cache.dropVictims (c : Cache) (feed : FeedId) (frame : Nat) : Cache :=
  { c with slots := c.slots.map fun r =>
      if r.2.victim.any fun v => v.feed == feed && v.frame == frame then (r.1, { r.2 with victim := none }) else r }

/-- The slot that carries the lost frame's tag (R147). -/
def Cache.loseFrame (c : Cache) (feed : FeedId) (frame : Nat) : Cache :=
  match c.tagged feed frame with
  | none => c
  | some (i, x) =>
    match x.state with
    | .valid =>
      if c.pinCount i = 0 then { c.unlist i with slots := c.slots.del i }
      else { c.unlist i with slots := c.slots.put i { x with state := .orphan } }
    | .filling =>
      match x.context with
      | some k => c.abort k .overrun
      | none => c
    | .orphan => c

/-- The Frame Cache takes the oldest overwrite notice of a feed it has not taken (R147). -/
def cacheNotice (f : FeedId) (s : State) : State :=
  match (s.feed f).cacheNotices with
  | [] => s
  | n :: rest =>
    let s := s.setFeed f { s.feed f with cacheNotices := rest }
    { s with cache := (s.cache.dropVictims f n.lost).loseFrame f n.lost }

/-! ## Damage reports on their way (R20, R143) -/

/-- The Ingest Controller takes the damage report of a frame, if one is on its way. -/
def damageArrives (f : FeedId) (n : Nat) (s : State) : State :=
  if s.cache.damageReports.contains (f, n) then
    damageTaken f n { s with cache := { s.cache with damageReports := s.cache.damageReports.erase (f, n) } }
  else s

/-! ## DISENGAGE, READ_ERROR and CLEAR_ERROR (R152, R155) -/

/-- DISENGAGE at the Frame Cache; the store error latch is kept (R155), and so are the damage reports already sent. -/
def Cache.disengage (c : Cache) : Cache :=
  { c with slots := [], lru := [], fills := [], pins := Quad.all [], reports := Quad.all [] }

/-- READ_ERROR (R152). -/
def cmdReadError (s : State) : CmdResult := done s false (errorBytes s.cache.errorLatch)

/-- CLEAR_ERROR (R152). -/
def cmdClearError (s : State) : CmdResult :=
  done { s with cache := { s.cache with errorLatch := none } } false (errorBytes s.cache.errorLatch)

end Sys2Proof.Machine
end

