-- ==== Sys2Proof/Machine/Arbiter.lean ====
section
/-!
DEFINITION. The Store Arbiter (spec/08_store_arbitration.md): what the requesters present, the deferrals and the test
of the burst holder, the grant of a beat, and the beat itself.
-/

namespace Sys2Proof.Machine

/-! ## Requesters (R157, R158) -/

/-- A feed requests (R157). -/
def feedRequests (s : State) (f : FeedId) : Bool := (s.feed f).presented.isSome

/-- A feed is urgent, by the ingest mode (R157). -/
def feedUrgent (s : State) (f : FeedId) : Bool :=
  feedRequests s f && (s.arbiter.mode == .claimed || (s.feed f).urgent)

def anyUrgent (s : State) : Bool := allFeeds.any (feedUrgent s)

/-- The least level number among the channels of a waiter set, from the level of one of them (R138). -/
def leastLevel (s : State) (start : Nat) (waiters : List ChanId) : Nat :=
  waiters.foldl (fun l ch => min l (s.chan ch).opts.level) start

/-- The level of a fill: the least among its waiters, the owner included (R138). -/
def fillLevel (s : State) (f : Fill) : Nat := leastLevel s (s.chan f.owner).opts.level f.waiters

/-- Whether a fill is served before another of the same owner: by level, then by start order (R158). -/
def servedBefore (s : State) (a b : Fill) : Bool :=
  fillLevel s a < fillLevel s b || (fillLevel s a == fillLevel s b && a.order < b.order)

/-- The fill a channel's requester presents, with its context (R158). -/
def presentedFill (s : State) (ch : ChanId) : Option (Nat × Fill) :=
  (s.cache.fills.filter fun r => r.2.owner == ch).foldl (fun best r =>
    match best with
    | none => some r
    | some b => if servedBefore s r.2 b.2 then some r else some b) none

/-- A channel requests (R158). -/
def chanRequests (s : State) (ch : ChanId) : Bool := (presentedFill s ch).isSome

/-- The level of a channel's requester; its level option when it presents nothing (R158). -/
def chanLevel (s : State) (ch : ChanId) : Nat :=
  match presentedFill s ch with
  | some r => fillLevel s r.2
  | none => (s.chan ch).opts.level

/-! ## Deferrals (R160, R166) -/

def Arbiter.deferred (a : Arbiter) (ch : ChanId) : Bool := a.deferrals.get ch != []

/-- Every waiting set loses the channels that present nothing (R160). -/
def Arbiter.update (a : Arbiter) (s : State) : Arbiter :=
  { a with deferrals := a.deferrals.map fun l => l.filter (chanRequests s) }

/-- A channel that was granted a beat leaves every waiting set (R166). -/
def Arbiter.served (a : Arbiter) (ch : ChanId) : Arbiter :=
  { a with deferrals := a.deferrals.map fun l => l.filter (· != ch) }

/-- A channel that presents a fragment and is not deferred. -/
def Arbiter.eligible (a : Arbiter) (s : State) (ch : ChanId) : Bool := chanRequests s ch && !a.deferred ch

/-! ## The test of the burst holder (R160, R164, R165, R167) -/

/-- Whether the holder is preempted (R165). -/
def Arbiter.preempted (a : Arbiter) (s : State) (h : ChanId) : Bool :=
  anyUrgent s || allChans.any fun ch => a.eligible s ch && chanLevel s ch < chanLevel s h

/-- A burst ends: no holder, idle count 0, gap owed (R162, R164, R165, R167). The idle count 0 at a burst option found
off is the model's choice: R164 does not name it there (log entry 38). -/
def Arbiter.endBurst (a : Arbiter) : Arbiter := { a with holder := none, idle := 0, gapOwed := true }

/-- Preemption; with the fairness option on the channel is deferred until those that wait have been served (R165,
R166). -/
def Arbiter.preempt (a : Arbiter) (s : State) (h : ChanId) : Arbiter :=
  let a' := a.endBurst
  if (s.chan h).opts.fairness then
    { a' with deferrals := a'.deferrals.set h (allChans.filter fun ch => ch != h && chanRequests s ch) }
  else a'

/-- Whether some requester waits while the holder presents nothing (R167). -/
def Arbiter.othersWait (a : Arbiter) (s : State) : Bool :=
  allFeeds.any (feedRequests s) || allChans.any (a.eligible s)

/-- The idle count of a holder that keeps its burst so far, and the release (R167). -/
def Arbiter.idleTest (a : Arbiter) (s : State) (h : ChanId) : Arbiter :=
  if chanRequests s h then { a with idle := 0 }
  else if a.othersWait s then
    if Config.burstIdle ≤ a.idle + 1 then a.endBurst else { a with idle := a.idle + 1 }
  else { a with idle := 0 }

/-- The test stage of a beat (R160). -/
def Arbiter.test (a : Arbiter) (s : State) : Arbiter :=
  match a.holder with
  | none => a
  | some h =>
    if a.preempted s h then a.preempt s h
    else if (s.chan h).opts.burst then a.idleTest s h
    else a.endBurst

/-! ## The grant (R160 to R164, R168) -/

/-- To whom a beat goes. -/
inductive Grant where
  | feed (f : FeedId)
  | chan (ch : ChanId)
  | idle
  deriving DecidableEq, Repr

/-- The first feed upward from `start`, FEED0 after FEED7, that a test picks (R159). -/
def searchFeeds (start : FeedId) (pick : FeedId → Bool) : Option FeedId := (allFeeds.map (start + ·)).find? pick

/-- The first channel upward from `start`, CH0 after CH3, that a test picks (R159). -/
def searchChans (start : ChanId) (pick : ChanId → Bool) : Option ChanId := (allChans.map (start + ·)).find? pick

/-- A channel candidate that no candidate has a lower level number than (R163). -/
def Arbiter.tied (a : Arbiter) (s : State) (ch : ChanId) : Bool :=
  a.eligible s ch && allChans.all fun d => !a.eligible s d || chanLevel s ch ≤ chanLevel s d

/-- Step 4: the tied set from the channel pointer; a burst channel becomes the holder, and a single-mode transfer owes
a gap beat (R163, R164, R168). -/
def Arbiter.grantChannel (a : Arbiter) (s : State) : Arbiter × Grant :=
  match searchChans a.chanPtr (a.tied s) with
  | none => (a, .idle)
  | some ch =>
    let a' := { a.served ch with chanPtr := ch + 1 }
    if (s.chan ch).opts.burst then ({ a' with holder := some ch, idle := 0 }, .chan ch)
    else ({ a' with gapOwed := true }, .chan ch)

/-- Steps 3 and 4 (R160, R162). -/
def Arbiter.grantFree (a : Arbiter) (s : State) : Arbiter × Grant :=
  if a.gapOwed || !allChans.any (a.eligible s) then
    match searchFeeds a.gapPtr (feedRequests s) with
    | some f => ({ a with gapPtr := f + 1, gapOwed := false }, .feed f)
    | none => { a with gapOwed := false }.grantChannel s
  else a.grantChannel s

/-- Step 2: the beat of the burst holder (R160, R163, R164). -/
def Arbiter.grantHolder (a : Arbiter) (s : State) (h : ChanId) : Arbiter × Grant :=
  if chanRequests s h then ({ a.served h with chanPtr := h + 1, idle := 0 }, .chan h) else (a, .idle)

/-- The four steps of the grant (R160, R161). -/
def Arbiter.grant (a : Arbiter) (s : State) : Arbiter × Grant :=
  match searchFeeds a.urgentPtr (feedUrgent s) with
  | some f => ({ a with urgentPtr := f + 1 }, .feed f)
  | none =>
    match a.holder with
    | some h => a.grantHolder s h
    | none => a.grantFree s

/-- The decision of a beat: deferrals, the holder test, the grant (R160). -/
def decideBeat (s : State) : Arbiter × Grant := ((s.arbiter.update s).test s).grant s

/-! ## The beat (R156, R169) -/

/-- The granted requester's fragment moves, with the store's result (R156, R169). -/
def moveFragment (g : Grant) (result : StoreResult) (d : Fragment) (s : State) : State :=
  match g with
  | .idle => { s with storePort := .idle }
  | .feed f => storeWrite f result s
  | .chan ch =>
    match presentedFill s ch with
    | none => s
    | some r => fillBeat r.1 result d s

/-- One beat of the store port (R156). -/
def beat (result : StoreResult) (d : Fragment) (s : State) : State :=
  let r := decideBeat s
  moveFragment r.2 result d { s with arbiter := r.1 }

end Sys2Proof.Machine
end

