-- ==== Sys2Proof/Machine/Position.lean ====
section
/-!
DEFINITION. The arithmetic of a tick (spec/03_position_arithmetic.md): the window and the kinds of its ends, the
shuttle curve, the ramp, the jog accumulator, the raw step, overruns and the LOOP wrap, frame selection and blend,
lookahead; and SET_CURVE.
-/

namespace Sys2Proof.Machine

/-! ## The window (R52, R53) -/

/-- The window from lo to hi, none when it is empty (R54). -/
def Window.make (lo hi : Nat) : Option Window := if lo ≤ hi then some ⟨lo, hi⟩ else none

/-- The window of a clip on its primary feed (R52). -/
def Clip.window (c : Clip) (x : Feed) : Option Window :=
  match x.head with
  | none => none
  | some h => Window.make (max c.markIn x.tail) (match c.markOut with
      | none => h
      | some o => min o h)

/-- The window of a material as its feed stands now (R52). -/
def materialWindow (s : State) : Material → Option Window
  | .feed f => (s.feed f).range
  | .clip id =>
    match s.clips.find id with
    | none => none
    | some c => c.window (s.feed c.feed)

/-- The clip a material is, if it is one. -/
def materialClip (s : State) : Option Material → Option Clip
  | some (.clip id) => s.clips.find id
  | _ => none

/-- The clip id of a material. -/
def materialId : Option Material → Option Nat
  | some (.clip id) => some id
  | _ => none

/-- The upper end is a clip bound: a mark-out that is not above the head (R53). -/
def Clip.upperBound (c : Clip) (x : Feed) : Bool :=
  match c.markOut, x.head with
  | some o, some h => o ≤ h
  | _, _ => false

/-- The lower end is a clip bound: a mark-in that is not below the tail (R53). -/
def Clip.lowerBound (c : Clip) (x : Feed) : Bool := x.tail ≤ c.markIn

/-- The ends of a window. -/
inductive WindowEnd where
  | upper
  | lower
  deriving DecidableEq, Repr

/-- The clip whose bound an end of a channel's window is; none for a live or tail bound (R53). -/
def boundClip (s : State) (m : Option Material) (e : WindowEnd) : Option Clip :=
  match materialClip s m with
  | none => none
  | some c =>
    let isBound := match e with
      | .upper => c.upperBound (s.feed c.feed)
      | .lower => c.lowerBound (s.feed c.feed)
    if isBound then some c else none

/-! ## Target speed, ramp and jog accumulator (R56, R57, R58) -/

/-- `p` / 16 rounded to the nearest integer, one half away from zero (R56). -/
def roundSixteenth (p : Int) : Int := if 0 ≤ p then (p + 8) / 16 else -((8 - p) / 16)

/-- The target speed of a lever value on a curve (R56). -/
def curveTarget (curve : List Int) (lever : Int) : Int :=
  let at_ := (lever + 128).toNat
  let k := at_ / 16
  let u := at_ % 16
  let a := curve.getD k 0
  let b := curve.getD (k + 1) 0
  a + roundSixteenth ((b - a) * u)

/-- The ramp moves S toward T_s by at most A, or at once when A is 0 (R57). -/
def rampSpeed (limit : Nat) (speed target : Int) : Int :=
  if limit = 0 then target else speed + clampInt (-(limit : Int)) limit (target - speed)

/-- A count added to the jog accumulator, which saturates (R58). -/
def jogSum (jog count : Int) : Int := clampInt (-2048) 2047 (jog + count)

/-! ## Overruns (R60, R62) -/

/-- The first and the last allowed position of a window (R52). -/
def Window.first (w : Window) : Nat := w.lo * 1024

def Window.last (w : Window) : Nat := w.hi * 1024 + 1023

/-- Which end Q overruns, if any (R60). -/
def Window.overrun (w : Window) (q : Int) : Option WindowEnd :=
  if ((w.hi : Int) + 1) * 1024 ≤ q then some .upper
  else if q < (w.lo : Int) * 1024 then some .lower
  else none

/-- The first position of the frame at an end, where an overrun is stopped or held (R61, R64). -/
def Window.hold (w : Window) : WindowEnd → Nat
  | .upper => w.hi * 1024
  | .lower => w.lo * 1024

/-- The LOOP wrap: the non-negative remainder over the span (R62). -/
def Window.wrap (w : Window) (q : Int) : Nat :=
  ((w.lo : Int) * 1024 + (q - (w.lo : Int) * 1024) % (((w.hi : Int) - w.lo + 1) * 1024)).toNat

/-! ## Frame selection and blend weight (R68) -/

/-- The selected frame, its partner and the weight at a position, under a window with top frame `hi` (R68). -/
def pickFrame (blend : Bool) (hi p : Nat) : Nat × Option Nat × Nat :=
  let f := p / 1024
  if !blend || f == hi then (f, none, 0)
  else
    let w := (p % 1024 + 32) / 64
    if w = 16 then (f + 1, none, 0)
    else if w = 0 then (f, none, 0)
    else (f, some (f + 1), w)

/-- The selection a channel makes at its position in its window (R68). -/
def Channel.select (x : Channel) (feed : FeedId) (w : Window) : Selection :=
  let r := pickFrame x.opts.blend w.hi x.pos
  { feed := feed, frame := r.1, partner := r.2.1, weight := r.2.2, clip := materialId x.material }

/-! ## Lookahead (R69) -/

/-- A predicted position settled against the window: wrapped beyond a LOOP clip's bound, clamped otherwise (R69). -/
def settlePrediction (w : Window) (loops : WindowEnd → Bool) (q : Int) : Nat :=
  match w.overrun q with
  | none => q.toNat
  | some e =>
    if loops e then w.wrap q
    else match e with
      | .upper => w.last
      | .lower => w.first

/-- The frames of the predicted positions, those in `seen` and repeats dropped, in order (R69). -/
def predictFrames (w : Window) (loops : WindowEnd → Bool) (pos : Nat) (speed : Int) :
    List Nat → List Nat → List Nat
  | [], _ => []
  | i :: rest, seen =>
    let f := settlePrediction w loops ((pos : Int) + i * speed) / 1024
    if seen.contains f then predictFrames w loops pos speed rest seen
    else f :: predictFrames w loops pos speed rest (f :: seen)

/-- Whether stage 7 runs in a state (R69). -/
def ChanState.predicts : ChanState → Bool
  | .playing => true
  | .shuttle => true
  | .live => true
  | .slave => true
  | _ => false

/-- The frames a selection shows: the selected frame, then the partner (R70). -/
def Selection.frames (x : Selection) : List Nat := x.frame :: x.partner.toList

/-- Whether the end `e` of a channel's window is a clip bound of a LOOP clip (R69); a slave's window has no such end
(R108, R110). -/
def loopsAt (s : State) (m : Option Material) (e : WindowEnd) : Bool :=
  match boundClip s m e with
  | none => false
  | some c => c.endMode == .loop

/-- The lookahead frames of a channel with its selection (R69). -/
def lookahead (s : State) (x : Channel) (w : Window) (sel : Selection) : List Nat :=
  if x.state.predicts && x.speed != 0 then
    predictFrames w (loopsAt s x.material) x.pos x.speed ((List.range x.opts.lookahead).map (· + 1)) sel.frames
  else []

/-! ## SET_CURVE (R55) -/

/-- SET_CURVE: 17 values, each clamped, written together (R55). -/
def cmdSetCurve (pts : List Int) (s : State) : CmdResult :=
  let pts' := pts.map clampSpeed
  done { s with curve := pts' } (pts' != pts) []

end Sys2Proof.Machine
end

