-- ==== Sys2Proof/Machine/Channels.lean ====
section
/-!
DEFINITION. The Channel Engines between ticks (spec/04_playback_channels.md): lookups and their answers, the fetch
permit, the entry into IDLE, PLAY, SHUTTLE, STILL, STEP, jog counts, SET_CHANNEL, READ_CHANNEL. The cues stand in
Cueing.lean and the tick in Tick.lean.
-/

namespace Sys2Proof.Machine

/-! ## Lookups and their answers (R80, R94, R96) -/

/-- The fetch permit (R96). -/
def Channel.permit (x : Channel) : Bool :=
  match x.state with
  | .idle => false
  | .slave => true
  | _ =>
    match x.opts.fetchMode with
    | .or => true
    | .and => x.preload

/-- The channel is told that a frame is RESIDENT: CUE_READY when it is the frame of a present cue wait (R80). -/
def frameReady (ch : ChanId) (feed : FeedId) (frame : Nat) (s : State) : State :=
  let x := s.chan ch
  if x.cueWait = some ⟨feed, frame⟩ then
    raise ch.val (.cueReady (materialId x.material) feed frame) (s.setChan ch { x with cueWait := none })
  else s

/-- The channel is told NOT_AVAILABLE: reason DAMAGED for the selected frame sets the damaged mark (R91, R94), the
selection being the one a whole tick left (R102; log entry 40). -/
def frameFailed (ch : ChanId) (feed : FeedId) (frame : Nat) (reason : Reason) (s : State) : State :=
  let x := s.chan ch
  if reason = .damaged ∧ (x.selection.any fun sel => sel.feed == feed && sel.frame == frame) then
    s.setChan ch { x with damaged := true }
  else s

/-- What the channel does with the answer to a lookup (R94). -/
def handleAnswer (ch : ChanId) (feed : FeedId) (frame : Nat) (a : Answer) (s : State) : State :=
  match a with
  | .resident => frameReady ch feed frame s
  | .notAvailable reason => frameFailed ch feed frame reason s
  | .wait => s
  | .busy => s

/-- One lookup sent and answered (R94). -/
def sendLookup (ch : ChanId) (feed : FeedId) (frame : Nat) (s : State) : State :=
  let r := lookup ch feed frame s
  handleAnswer ch feed frame r.2 r.1

/-- A channel's own lookups in order, each while the fetch permit holds (R94, R96). -/
def sendLookups (ch : ChanId) (feed : FeedId) (frames : List Nat) (s : State) : State :=
  frames.foldl (fun acc n => if (acc.chan ch).permit then sendLookup ch feed n acc else acc) s

/-- A fill report is handled as the answer of the same name (R94, R145). -/
def reportArrives (ch : ChanId) (feed : FeedId) (frame : Nat) (s : State) : State :=
  match (s.cache.reports.get ch).find? fun r => r.feed == feed && r.frame == frame with
  | none => s
  | some r =>
    let q := (s.cache.reports.get ch).erase r
    let s := { s with cache := { s.cache with reports := s.cache.reports.set ch q } }
    match r.failed with
    | none => frameReady ch feed frame s
    | some reason => frameFailed ch feed frame reason s

/-! ## Entering IDLE (R54, R87) -/

/-- The pins of a channel are released by a request that names nothing (R149). -/
def releasePins (ch : ChanId) (s : State) : State := { s with cache := s.cache.setPins ch [] }

/-- The channel as it enters IDLE: P, the lever value, options, pins and the last record kept (R87 steps 1 to 4). -/
def Channel.toIdle (x : Channel) : Channel :=
  { x with state := .idle, window := none, speed := 0, target := 0, jog := 0, preload := false, atLive := false,
           atTail := false, cueWait := none, selection := none, damaged := false }

/-- The channel releases its material and enters IDLE (R54, R87 steps 1 to 4). -/
def dropMaterial (ch : ChanId) (s : State) : State :=
  let s := changeMaterial ch none s
  s.setChan ch (s.chan ch).toIdle

/-- The channel enters IDLE as EJECT gives: under BLACK the pins go at once and the last record becomes one with no
frame (R87 steps 1 to 5). -/
def enterIdle (ch : ChanId) (s : State) : State :=
  let s := dropMaterial ch s
  match (s.chan ch).opts.idlePicture with
  | .black => (releasePins ch s).setChan ch { s.chan ch with lastRec := PresRecord.blank }
  | _ => s

/-- The feed of a channel's material; FEED0 for a channel without material, which no rule asks. -/
def feedOfChannel (s : State) (ch : ChanId) : FeedId := (channelFeed s ch).getD 0

/-- WINDOW_LOST for a channel, with the tail and head of the feed as they stand (R54). -/
def raiseWindowLost (ch : ChanId) (feed : FeedId) (clip : Option Nat) (s : State) : State :=
  raise ch.val (.windowLost feed clip (s.feed feed).tail (s.feed feed).head) s

/-- The channel ends by an empty window (R54); its selection and damaged mark go, the model's choice (log entry 21), and
its pins stay until the next presentation (R98). -/
def loseWindow (ch : ChanId) (s : State) : State :=
  raiseWindowLost ch (feedOfChannel s ch) (materialId (s.chan ch).material) (dropMaterial ch s)

/-! ## Checks of the channel commands (R76) -/

/-- The channel number, then the engagement state (R76 checks 1 and 2). -/
def withEngaged (n : Nat) (s : State) (act : ChanId → CmdResult) : CmdResult :=
  match chanOf? n with
  | none => refuse s .badArgument
  | some ch => if s.engaged = .disengaged then refuse s .notEngaged else act ch

/-- The channel number, the engagement state, then SLAVE (R76 checks 1 to 3). -/
def withFreeChannel (n : Nat) (s : State) (act : ChanId → CmdResult) : CmdResult :=
  withEngaged n s fun ch => if (s.chan ch).state = .slave then refuse s .ganged else act ch

/-- The checks of PLAY, SHUTTLE, STILL and STEP: R76, then a channel in IDLE has no material. -/
def withMaterial (n : Nat) (s : State) (act : ChanId → CmdResult) : CmdResult :=
  withFreeChannel n s fun ch => if (s.chan ch).state = .idle then refuse s .noMaterial else act ch

/-! ## PLAY, SHUTTLE, STILL, STEP and jog counts (R82 to R85, R88) -/

/-- The nominal speed of a material: the clip's as its record holds it now, or 1024 for feed material (R82). -/
def nominalSpeed (s : State) (m : Option Material) : Int :=
  match materialClip s m with
  | some c => c.nominal
  | none => 1024

/-- PLAY (R82). -/
def cmdPlay (n : Nat) (speed : Option Int) (s : State) : CmdResult :=
  withMaterial n s fun ch =>
    let x := s.chan ch
    let t := match speed with
      | some v => clampSpeed v
      | none => nominalSpeed s x.material
    done (s.setChan ch { x with target := t, state := .playing }) (speed.any fun v => clampSpeed v != v) []

/-- SHUTTLE (R83). -/
def cmdShuttle (n : Nat) (lever : Int) (s : State) : CmdResult :=
  withMaterial n s fun ch =>
    let l := clampInt (-128) 127 lever
    done (s.setChan ch { s.chan ch with lever := l, state := .shuttle }) (l != lever) []

/-- The channel stands in JOG, S and T_s 0, with a jog accumulator. -/
def Channel.toJog (x : Channel) (jog : Int) : Channel := { x with state := .jog, speed := 0, target := 0, jog := jog }

/-- STILL (R84). -/
def cmdStill (n : Nat) (s : State) : CmdResult :=
  withMaterial n s fun ch => done (s.setChan ch ((s.chan ch).toJog (s.chan ch).jog)) false []

/-- STEP (R85). -/
def cmdStep (n : Nat) (count : Int) (s : State) : CmdResult :=
  withMaterial n s fun ch =>
    let x := s.chan ch
    done (s.setChan ch (x.toJog (jogSum x.jog count))) (jogSum x.jog count != x.jog + count) []

/-- The channel takes one jog count (R88). -/
def Channel.takeCount (x : Channel) (takeover : Bool) (count : Int) : Channel :=
  match x.state with
  | .idle => x
  | .slave => x
  | .jog => { x with jog := jogSum x.jog count }
  | _ => if takeover then x.toJog (jogSum x.jog count) else { x with jog := jogSum x.jog count }

/-! ## SET_CHANNEL (R100) -/

/-- Whether a carried number lies outside its range. -/
def outside (lo hi : Nat) (v : Option Nat) : Bool := v.any fun x => clampNat lo hi x != x

/-- Whether a SET_CHANNEL carries a value that is clamped (R100). -/
def ChanFields.clamped (x : ChanFields) : Bool :=
  outside 0 15 x.level || outside 0 6 x.lookahead || outside 1 8 x.preloadDepth || outside 0 65535 x.ramp
    || outside 1 65535 x.jogStep

/-- The options after a SET_CHANNEL, none when an enumerated value lies outside its list (R100). -/
def ChanFields.write? (x : ChanFields) (o : ChanOptions) : Option ChanOptions := do
  let burst ← optCode? onOff? x.burst
  let fairness ← optCode? onOff? x.fairness
  let blend ← optCode? onOff? x.blend
  let follow ← optCode? onOff? x.followLive
  let picture ← optCode? idlePicture? x.idlePicture
  let feed ← optCode? feedOf? x.idleFeed
  let fetch ← optCode? fetchMode? x.fetchMode
  return { level := (x.level.map (clampNat 0 15)).getD o.level
           burst := burst.getD o.burst
           fairness := fairness.getD o.fairness
           lookahead := (x.lookahead.map (clampNat 0 6)).getD o.lookahead
           preloadDepth := (x.preloadDepth.map (clampNat 1 8)).getD o.preloadDepth
           blend := blend.getD o.blend
           followLive := follow.getD o.followLive
           idlePicture := picture.getD o.idlePicture
           idleFeed := feed.getD o.idleFeed
           fetchMode := fetch.getD o.fetchMode
           ramp := (x.ramp.map (clampNat 0 65535)).getD o.ramp
           jogStep := (x.jogStep.map (clampNat 1 65535)).getD o.jogStep }

/-- SET_CHANNEL (R76, R100). -/
def cmdSetChannel (n : Nat) (x : ChanFields) (s : State) : CmdResult :=
  match chanOf? n with
  | none => refuse s .badArgument
  | some ch =>
    if (s.chan ch).state = .slave then refuse s .ganged
    else
      match x.write? (s.chan ch).opts with
      | none => refuse s .badArgument
      | some o => done (s.setChan ch { s.chan ch with opts := o }) x.clamped []

/-! ## READ_CHANNEL (R101, R105, R202) -/

/-- The master whose slave list names a channel, with that entry (R105). -/
def masterOf (s : State) (ch : ChanId) : Option (ChanId × GangSlave) :=
  allChans.findSome? fun m => ((s.gangs.get m).find? fun g => g.ch == ch).map fun g => (m, g)

/-- Gang role, master, offset, slave count and slave channels of the channel record (R105, R202). -/
def gangBytes (s : State) (ch : ChanId) : List Byte :=
  match masterOf s ch with
  | some (m, g) => leBytes 1 2 ++ leBytes 1 m.val ++ leInt 4 g.offset ++ List.replicate 4 0#8
  | none =>
    let slaves := s.gangs.get ch
    leBytes 1 (if slaves = [] then 0 else 1) ++ List.replicate 5 0#8 ++ leBytes 1 slaves.length
      ++ ((slaves.map fun g => byteOf g.ch.val) ++ List.replicate 3 0#8).take 3

def materialBytes : Option Material → List Byte
  | none => leBytes 1 0 ++ leBytes 2 0
  | some (.clip id) => leBytes 1 1 ++ leBytes 2 id
  | some (.feed f) => leBytes 1 2 ++ leBytes 2 f.val

def windowBytes : Option Window → List Byte
  | none => List.replicate 9 0#8
  | some w => [1#8] ++ leBytes 4 w.lo ++ leBytes 4 w.hi

/-- The channel status record of R101, 76 bytes (R202). -/
def channelBytes (s : State) (ch : ChanId) : List Byte :=
  let x := s.chan ch
  let o := x.opts
  leBytes 1 x.state.code ++ materialBytes x.material ++ leBytes 8 x.pos ++ leInt 4 x.speed ++ leInt 4 x.target
    ++ leInt 2 x.lever ++ windowBytes x.window
    ++ leBytes 1 (flagByte [x.atLive, x.atTail, x.slaveClamped, s.panel.glitch && s.panel.bound == ch, x.preload])
    ++ leInt 2 x.jog ++ optBytes 4 (x.cueWait.map (·.frame)) ++ x.lastRec.bytes
    ++ leBytes 1 (s.cache.activeFills ch) ++ leBytes 1 o.level
    ++ leBytes 1 (flagByte [o.burst, o.fairness, o.blend, o.followLive, o.fetchMode == .and])
    ++ leBytes 1 o.lookahead ++ leBytes 1 o.preloadDepth ++ leBytes 1 o.idlePicture.code ++ leBytes 1 o.idleFeed.val
    ++ leBytes 2 o.ramp ++ leBytes 2 o.jogStep ++ gangBytes s ch

/-- READ_CHANNEL; the read of the bound channel clears JOG_GLITCH (R101, R175). -/
def cmdReadChannel (n : Nat) (s : State) : CmdResult :=
  match chanOf? n with
  | none => refuse s .badArgument
  | some ch =>
    let s' := if s.panel.bound = ch then { s with panel := { s.panel with glitch := false } } else s
    done s' false (channelBytes s ch)

end Sys2Proof.Machine
end

