-- ==== Sys2Proof/Machine/Gang.lean ====
section
/-!
DEFINITION. Gang Control (spec/05_ganged_playback.md): derivations, the ways a slave leaves its gang, angle
assignment, a slave's selection and preload, GANG and UNGANG, and the loss of a channel's window with its gang (R54).
-/

namespace Sys2Proof.Machine

/-! ## Leaving a gang (R113) -/

/-- The slave's entry is removed and SLAVE_CLAMPED is cleared; the gang dissolves when no entry remains (R113). -/
def leaveGang (m ch : ChanId) (s : State) : State :=
  let s := { s with gangs := s.gangs.set m ((s.gangs.get m).filter fun g => g.ch != ch) }
  s.setChan ch { s.chan ch with slaveClamped := false }

/-- A slave enters IDLE out of its gang (R113). -/
def slaveToIdle (m ch : ChanId) (s : State) : State := enterIdle ch (leaveGang m ch s)

/-- A slave loses its window: it enters IDLE and raises WINDOW_LOST with its feed (R113). -/
def loseSlave (m : ChanId) (g : GangSlave) (s : State) : State :=
  raiseWindowLost g.ch g.feed none (slaveToIdle m g.ch s)

/-- Every slave of a master enters IDLE, with no notice (R113, dissolution by EJECT). -/
def ejectSlaves (m : ChanId) (s : State) : State :=
  (s.gangs.get m).foldl (fun acc g => slaveToIdle m g.ch acc) s

/-- Every slave of a master enters IDLE and raises WINDOW_LOST (R113, dissolution by the master's WINDOW_LOST), in
list order, the model's choice (log entry 18). -/
def loseSlaves (m : ChanId) (s : State) : State := (s.gangs.get m).foldl (fun acc g => loseSlave m g acc) s

/-- A channel that is not a slave ends by an empty window and takes its slaves with it (R54, R113, R114); its own
WINDOW_LOST comes before theirs, the model's choice (log entry 18). -/
def windowLost (ch : ChanId) (s : State) : State := loseSlaves ch (loseWindow ch s)

/-! ## Derivation (R108, R109) -/

/-- The slave window for a playable range and the translated bounds a and b (R108 steps 3 and 4). -/
def slaveWindow (r : Window) (a b : Int) : Window :=
  if b < r.lo then ⟨r.lo, r.lo⟩
  else if (r.hi : Int) < a then ⟨r.hi, r.hi⟩
  else ⟨(max a r.lo).toNat, (min b r.hi).toNat⟩

/-- The position of a slave that wants `q` in its window, and SLAVE_CLAMPED (R109). -/
def placeSlave (w : Window) (q : Int) : Nat × Bool :=
  if q < (w.first : Int) then (w.lo * 1024, true)
  else if (w.last : Int) < q then (w.hi * 1024, true)
  else (q.toNat, false)

/-- The slave as a derivation writes it from its master and the playable range of its feed (R108, R109). -/
def Channel.derived (x master : Channel) (w : Window) (offset : Int) (r : Window) : Channel :=
  let sw := slaveWindow r ((w.lo : Int) + offset) ((w.hi : Int) + offset)
  let p := placeSlave sw ((master.pos : Int) + offset * 1024)
  { x with window := some sw, pos := p.1, slaveClamped := p.2, speed := master.speed, target := master.target }

/-- The derivation at one slave (R108, R113). -/
def deriveSlave (m : ChanId) (g : GangSlave) (s : State) : State :=
  match (s.feed g.feed).range with
  | none => loseSlave m g s
  | some r =>
    match (s.chan m).window with
    | none => s
    | some w => s.setChan g.ch ((s.chan g.ch).derived (s.chan m) w g.offset r)

/-- A derivation of a master's gang, slave by slave in list order (R108). -/
def derive (m : ChanId) (s : State) : State := (s.gangs.get m).foldl (fun acc g => deriveSlave m g acc) s

/-! ## A slave's selection and lookups (R107, R112) -/

/-- The slave selects from its derived position, and its damaged mark is cleared (R107 step 4, R112 step 1). -/
def selectSlave (g : GangSlave) (s : State) : State :=
  let x := s.chan g.ch
  match x.window with
  | none => s
  | some w => s.setChan g.ch { x with selection := some (x.select g.feed w), damaged := false }

/-- The frames of a channel's selection; none without one. -/
def selectionFrames (x : Channel) : List Nat :=
  match x.selection with
  | none => []
  | some sel => sel.frames

/-- The frames of a preload: from `e`, one apart, in a direction, inside the window, at most `n` (R79). -/
def preloadFrames (reverse : Bool) (w : Window) (e : Nat) : Nat → List Nat
  | 0 => []
  | n + 1 =>
    e :: (if reverse then (if w.lo < e then preloadFrames reverse w (e - 1) n else [])
      else (if e < w.hi then preloadFrames reverse w (e + 1) n else []))

/-- What the slaves send after a command that set their master's position. -/
inductive SlaveFetch where
  | preload (reverse : Bool)
  | selected
  deriving DecidableEq, Repr

/-- The lookups of one slave after a cue or GO_LIVE of its master (R112). -/
def fetchSlave (how : SlaveFetch) (g : GangSlave) (s : State) : State :=
  let x := s.chan g.ch
  match x.selection, x.window with
  | some sel, some w =>
    match how with
    | .preload reverse => sendLookups g.ch g.feed (preloadFrames reverse w sel.frame x.opts.preloadDepth) s
    | .selected => sendLookups g.ch g.feed [sel.frame] s
  | _, _ => s

/-- The derivation that follows a cue or GO_LIVE on a master; each slave left then selects and sends its lookups
(R108, R112). -/
def followMaster (m : ChanId) (how : SlaveFetch) (s : State) : State :=
  let s := derive m s
  (s.gangs.get m).foldl (fun acc g => fetchSlave how g (selectSlave g acc)) s

/-! ## Angle assignment (R111) -/

/-- The slave list with the first angle entries taken in (R111). -/
def withAngles : List GangSlave → List Angle → List GangSlave
  | [], _ => []
  | gs, [] => gs
  | g :: gs, a :: as => { g with feed := a.feed, offset := a.offset } :: withAngles gs as

/-- A slave whose feed is changed takes it as its material and clears its damaged mark (R111). -/
def adoptAngle (g : GangSlave) (s : State) : State :=
  if (s.chan g.ch).material = some (.feed g.feed) then s
  else
    let s := changeMaterial g.ch (some (.feed g.feed)) s
    s.setChan g.ch { s.chan g.ch with damaged := false }

/-- The angles of a clip that became the material of a master (R111). -/
def assignAngles (m : ChanId) (id : Nat) (s : State) : State :=
  match s.clips.find id with
  | none => s
  | some c =>
    let gs := withAngles (s.gangs.get m) c.angles
    gs.foldl (fun acc g => adoptAngle g acc) { s with gangs := s.gangs.set m gs }

/-! ## GANG (R106, R107) -/

/-- A slave list that GANG carries, with every channel and feed in range. -/
def slaveList? (l : List (Nat × Nat × Int)) : Option (List GangSlave) :=
  l.mapM fun a => (chanOf? a.1).bind fun c => (feedOf? a.2.1).map fun f => ⟨c, f, clampOffset a.2.2⟩

/-- A channel is a slave of a gang or the master of one. -/
def isGanged (s : State) (ch : ChanId) : Bool := (masterOf s ch).isSome || s.gangs.get ch != []

/-- A named slave joins: steps 1 to 5 of R107. -/
def joinGang (m : ChanId) (g : GangSlave) (s : State) : State :=
  let s := changeMaterial g.ch (some (.feed g.feed)) s
  let s := s.setChan g.ch { s.chan g.ch with
    state := .slave, cueWait := none, atLive := false, atTail := false, damaged := false, idleSel := none }
  let s := deriveSlave m g s
  if (masterOf s g.ch).isSome then
    let s := selectSlave g s
    sendLookups g.ch g.feed (selectionFrames (s.chan g.ch)) s
  else s

/-- The GANG reply: for each slave whether it lost its window, its frame, whether it was clamped (R107). -/
def gangReply (s : State) (gs : List GangSlave) : List Byte :=
  leBytes 1 gs.length ++ gs.flatMap fun g =>
    let x := s.chan g.ch
    if x.state = .slave then [0#8] ++ optBytes 4 (some (x.pos / 1024)) ++ [boolByte x.slaveClamped]
    else [1#8] ++ optBytes 4 none ++ [0#8]

/-- GANG (R106, R107). -/
def cmdGang (n : Nat) (slaves : List (Nat × Nat × Int)) (s : State) : CmdResult :=
  match chanOf? n, slaveList? slaves with
  | some m, some gs =>
    if gs = [] ∨ 3 < gs.length then refuse s .badArgument
    else if ¬ (m :: gs.map (·.ch)).Nodup then refuse s .badArgument
    else if s.engaged = .disengaged then refuse s .notEngaged
    else if (masterOf s m).isSome ∨ s.gangs.get m ≠ [] then refuse s .ganged
    else if gs.any fun g => isGanged s g.ch then refuse s .ganged
    else if (s.chan m).state = .idle then refuse s .noMaterial
    else
      let s' := gs.foldl (fun acc g => joinGang m g acc) { s with gangs := s.gangs.set m gs }
      done s' (slaves.any fun a => clampOffset a.2.2 != a.2.2) (gangReply s' gs)
  | _, _ => refuse s .badArgument

/-! ## UNGANG (R115) -/

/-- A named slave leaves by UNGANG: JOG on its feed, or IDLE by an empty window (R113, R115). -/
def ungangSlave (m : ChanId) (g : GangSlave) (s : State) : State :=
  let s := leaveGang m g.ch s
  match (s.feed g.feed).range with
  | none => loseWindow g.ch s
  | some w => s.setChan g.ch { (s.chan g.ch).toJog (s.chan g.ch).jog with window := some w }

/-- The slaves UNGANG names, with their master (R115). -/
def ungangNames (s : State) (ch : ChanId) : Option (ChanId × List GangSlave) :=
  match masterOf s ch with
  | some (m, g) => some (m, [g])
  | none => if s.gangs.get ch = [] then none else some (ch, s.gangs.get ch)

/-- UNGANG (R115). -/
def cmdUngang (n : Nat) (s : State) : CmdResult :=
  withEngaged n s fun ch =>
    match ungangNames s ch with
    | none => refuse s .notFound
    | some (m, gs) =>
      let s' := gs.foldl (fun acc g => ungangSlave m g acc) s
      done s' false (leBytes 1 gs.length ++ gs.map fun g => byteOf (s'.chan g.ch).state.code)

/-! ## DISENGAGE (R105, R185) -/

/-- Every gang dissolves; each slave is freed before its channel acts (R113, R185). -/
def dissolveAll (s : State) : State := { s with gangs := Quad.all [] }

end Sys2Proof.Machine
end

