-- ==== Sys2Proof/Machine/Engagement.lean ====
section
/-!
DEFINITION. Engagement (spec/10_engagement.md): SET_STORE, SET_FEED, ENGAGE with its checks, DISENGAGE and hardware
reset.
-/

namespace Sys2Proof.Machine

/-! ## SET_STORE (R181) -/

/-- SET_STORE (R181). -/
def cmdSetStore (size mode : Option Nat) (s : State) : CmdResult :=
  match optCode? ingestMode? mode with
  | none => refuse s .badArgument
  | some m =>
    if s.engaged = .engaged then refuse s .engaged
    else
      let n := (size.map (clampNat 1 4294967296)).getD s.storeSize
      let md := m.getD s.arbiter.mode
      done { s with storeSize := n, arbiter := { s.arbiter with mode := md } }
        (size.any fun v => clampNat 1 4294967296 v != v)
        (leBytes 8 n ++ leBytes 1 md.code ++ leBytes 1 s.engaged.code)

/-! ## SET_FEED (R1, R3, R182) -/

/-- Whether a carried value differs from the present one. -/
def differs (v : Option Nat) (present : Nat) : Bool := v.any (· != present)

/-- A change of the geometry: BEGIN, D or stride (R3). -/
def FeedFields.changesGeometry (x : FeedFields) (c : FeedConfig) : Bool :=
  differs x.beginAddr c.beginAddr || differs x.depth c.depth || differs x.stride c.stride

/-- The configuration after a SET_FEED (R1). -/
def FeedFields.write (x : FeedFields) (c : FeedConfig) : FeedConfig :=
  { beginAddr := x.beginAddr.getD c.beginAddr
    endAddr := x.endAddr.getD c.endAddr
    depth := (x.depth.map (clampNat 64 4194304)).getD c.depth
    stride := (x.stride.map (clampNat 1 48)).getD c.stride
    guard := (x.guard.map (clampNat 2 255)).getD c.guard
    warn := (x.warn.map (clampNat 0 65535)).getD c.warn }

/-- Whether a SET_FEED carries a value that is clamped (R1). -/
def FeedFields.clamped (x : FeedFields) : Bool :=
  outside 64 4194304 x.depth || outside 1 48 x.stride || outside 2 255 x.guard || outside 0 65535 x.warn

/-- The result body of a BAD_CONFIG refusal: the feed, the check, the other feed (R201). -/
def badConfigBytes (f : FeedId) (check : ConfigCheck) (other : Option FeedId) : List Byte :=
  leBytes 1 f.val ++ leBytes 1 check.code ++ optBytes 1 (other.map (·.val))

/-- A refusal with BAD_CONFIG (R192). -/
def refuseConfig (s : State) (f : FeedId) (check : ConfigCheck) (other : Option FeedId) : CmdResult :=
  ⟨s, .badConfig, badConfigBytes f check other⟩

/-- The configuration record with whether the feed is selected (R182). -/
def configBytes (c : FeedConfig) : List Byte :=
  leBytes 4 c.beginAddr ++ leBytes 4 c.endAddr ++ leBytes 4 c.depth ++ leBytes 1 c.stride ++ leBytes 1 c.guard
    ++ leBytes 4 c.warn ++ [boolByte c.selected]

/-- A changed guard hands the feed's new tail to the Clip Table (R45, R182). -/
def handTail (f : FeedId) (oldGuard : Nat) (s : State) : State :=
  if (s.feed f).cfg.guard = oldGuard then s else takeTail f (s.feed f).tail s

/-- SET_FEED (R182). -/
def cmdSetFeed (feed : Nat) (x : FeedFields) (s : State) : CmdResult :=
  match feedOf? feed with
  | none => refuse s .badArgument
  | some f =>
    let old := s.feed f
    if s.engaged = .engaged then refuse s .engaged
    else if x.changesGeometry old.cfg ∧ old.directory ≠ [] then refuseConfig s f .geometry none
    else
      let c := x.write old.cfg
      done (handTail f old.cfg.guard (s.setFeed f { old with cfg := c })) x.clamped (configBytes c)

/-! ## ENGAGE (R183, R184) -/

/-- The first check a selected feed fails, in the order WINDOW, SIZE, GUARD (R183). -/
def feedCheck (size : Nat) (c : FeedConfig) : Option ConfigCheck :=
  if size ≤ c.endAddr then some .window
  else if c.endAddr - c.beginAddr + 1 < c.depth * c.stride then some .size
  else if c.depth < 4 * c.guard then some .guard
  else none

/-- Two windows share a fragment address (R183). -/
def overlaps (a b : FeedConfig) : Bool := a.beginAddr ≤ b.endAddr && b.beginAddr ≤ a.endAddr

/-- The first failing check of the first pass (R183). -/
def firstPass (s : State) : Option (FeedId × ConfigCheck × Option FeedId) :=
  allFeeds.findSome? fun f =>
    let c := (s.feed f).cfg
    if c.selected then (feedCheck s.storeSize c).map fun k => (f, k, none) else none

/-- The first failing pair of the second pass: the higher-numbered feed in order, then the lower one (R183). -/
def secondPass (s : State) : Option (FeedId × ConfigCheck × Option FeedId) :=
  allFeeds.findSome? fun f => allFeeds.findSome? fun g =>
    if g < f ∧ (s.feed f).cfg.selected ∧ (s.feed g).cfg.selected ∧ overlaps (s.feed f).cfg (s.feed g).cfg then
      some (f, .overlap, some g)
    else none

/-- The first failing check of ENGAGE (R183). -/
def layoutFault (s : State) : Option (FeedId × ConfigCheck × Option FeedId) := (firstPass s).or (secondPass s)

/-- A selected feed leaves OFF (R184). -/
def Feed.engage (x : Feed) : Feed :=
  if x.cfg.selected then
    { x with state := if x.nextFrame = Config.frameNumbers then .exhausted else .waiting }
  else x

/-- Every selected feed leaves OFF (R184). -/
def engageFeeds (s : State) : State := allFeeds.foldl (fun acc f => acc.setFeed f (acc.feed f).engage) s

/-- ENGAGE (R183, R184). -/
def cmdEngage (s : State) : CmdResult :=
  if s.engaged = .engaged then refuse s .engaged
  else
    match layoutFault s with
    | some (f, check, other) => refuseConfig s f check other
    | none =>
      let s' := { engageFeeds s with engaged := .engaged }
      done s' false (leBytes 1 s'.engaged.code ++ allFeeds.map fun f => byteOf (s'.feed f).state.code)

/-! ## DISENGAGE (R185) -/

/-- The channel after DISENGAGE; its material is released before (R104). -/
def Channel.disengaged (x : Channel) : Channel :=
  { x.toIdle with idleSel := none, lever := 0, slaveClamped := false, lastRec := PresRecord.blank, outData := [] }

/-- DISENGAGE at one channel (R104). -/
def disengageChan (ch : ChanId) (s : State) : State :=
  let s := changeMaterial ch none s
  s.setChan ch (s.chan ch).disengaged

/-- DISENGAGE at every block (R185). -/
def disengageAll (s : State) : State :=
  let s := allChans.foldl (fun acc ch => disengageChan ch acc) (dissolveAll s)
  let s := allFeeds.foldl (fun acc f => disengageFeed f acc) s
  { s with cache := s.cache.disengage, arbiter := Arbiter.reset, engaged := .disengaged }

/-- DISENGAGE (R185). -/
def cmdDisengage (s : State) : CmdResult :=
  let s' := if s.engaged = .engaged then disengageAll s else s
  done s' false (leBytes 1 s'.engaged.code)

/-! ## Hardware reset (R187) -/

/-- Every block in its reset state with the given panel levels; the events that wait are the outside's and stay (log
entry 9). -/
def hardwareReset (l : PanelLevels) (s : State) : State := { State.afterReset l with pending := s.pending }

end Sys2Proof.Machine
end

