-- ==== Sys2Proof/Machine/Notices.lean ====
section
/-!
DEFINITION. The commands of the Notice Unit (spec/11_control_link_and_notices.md): SET_NOTICES, ACK_NOTICE and
READ_NOTICES.
-/

namespace Sys2Proof.Machine

/-- The class and unit of every cell, in cell order (R194). -/
def allCells : List (NoticeClass × Nat) := allClasses.flatMap fun c => (List.range c.units).map fun u => (c, u)

/-- The cells a class and a unit of a command body name, 255 for ALL; none when they name no cell (R196, R197,
R200). -/
def namedCells? (cls unit : Nat) : Option (List (NoticeClass × Nat)) :=
  if cls = 255 then (if unit = 255 then some allCells else none)
  else
    match noticeClass? cls with
    | none => none
    | some c =>
      if unit = 255 then some ((List.range c.units).map fun u => (c, u))
      else if unit < c.units then some [(c, unit)] else none

/-! ## SET_NOTICES (R197) -/

/-- The enable of one cell is written; a latched cell that goes from off to on sends its record (R197). -/
def enableCell (on : Bool) (s : State) (k : NoticeClass × Nat) : State :=
  let i := cellIndex k.1 k.2
  let c := s.cell i
  let s' := { s with cells := s.cells.set i { c with enable := on } }
  match c.detail with
  | none => s'
  | some d =>
    if on && !c.enable && c.latch then { s' with link := s'.link.handNotice k.1 k.2 c.count d } else s'

/-- SET_NOTICES (R197). -/
def cmdSetNotices (cls unit on : Nat) (s : State) : CmdResult :=
  match namedCells? cls unit, onOff? on with
  | some ks, some b =>
    let s' := ks.foldl (enableCell b) s
    done s' false (packBits 7 (s'.cells.map (·.enable)))
  | _, _ => refuse s .badArgument

/-! ## ACK_NOTICE (R196) -/

/-- The acknowledge of one cell: latch clear, count 0, detail absent (R196). -/
def ackCell (s : State) (k : NoticeClass × Nat) : State :=
  let i := cellIndex k.1 k.2
  { s with cells := s.cells.set i { s.cell i with latch := false, count := 0, detail := none } }

/-- ACK_NOTICE (R196). -/
def cmdAckNotice (cls unit : Nat) (s : State) : CmdResult :=
  match namedCells? cls unit with
  | none => refuse s .badArgument
  | some ks =>
    done (ks.foldl ackCell s) false
      (leBytes 1 ks.length ++ ks.flatMap fun k =>
        let c := s.cell (cellIndex k.1 k.2)
        [boolByte c.latch] ++ leBytes 1 c.count)

/-! ## READ_NOTICES (R199) -/

/-- The cells with latches set from a start position, at most 8 (R199). -/
def latchedFrom (s : State) (start : Nat) : List (NoticeClass × Nat) :=
  ((allCells.drop start).filter fun k => (s.cell (cellIndex k.1 k.2)).latch).take 8

/-- One cell as READ_NOTICES reports it (R199, R201). -/
def cellBytes (s : State) (k : NoticeClass × Nat) : List Byte :=
  let c := s.cell (cellIndex k.1 k.2)
  leBytes 1 k.1.number ++ leBytes 1 k.2 ++ [boolByte c.enable] ++ leBytes 1 c.count
    ++ (match c.detail with
      | some d => d.bytes
      | none => [])

/-- The continue position: one above the last cell reported when 8 were reported and that cell is below 53 (R199). -/
def continuePosition (ks : List (NoticeClass × Nat)) : Option Nat :=
  match ks.getLast? with
  | none => none
  | some k =>
    let i := cellIndex k.1 k.2
    if ks.length = 8 ∧ i < 53 then some (i + 1) else none

/-- READ_NOTICES (R199). -/
def cmdReadNotices (start : Nat) (s : State) : CmdResult :=
  if Config.noticeCells ≤ start then refuse s .badArgument
  else
    let ks := latchedFrom s start
    done s false (packBits 7 (s.cells.map (·.latch)) ++ leBytes 1 ks.length ++ ks.flatMap (cellBytes s)
      ++ optBytes 1 (continuePosition ks))

end Sys2Proof.Machine
end

