-- ==== Sys2Proof/Machine/Cueing.lean ====
section
/-!
DEFINITION. The commands that give a channel material or take it away: CUE_CLIP, CUE_FEED, GO_LIVE and EJECT
(spec/04_playback_channels.md), each with what it does to the gang of a master (spec/05_ganged_playback.md).
-/

namespace Sys2Proof.Machine

/-! ## The entry point (R75) -/

/-- The frame a clip is entered at, in a direction: its mark-in, or its mark-out, or the head for an OPEN clip
(R63, R75, R129). -/
def Clip.entry (c : Clip) (x : Feed) (reverse : Bool) : Nat :=
  if reverse then
    match c.markOut with
    | some o => o
    | none => x.head.getD c.markIn
  else c.markIn

/-- The entry frame clamped into the window of the material (R75). -/
def Clip.entryIn (c : Clip) (x : Feed) (reverse : Bool) (w : Window) : Nat := clampNat w.lo w.hi (c.entry x reverse)

/-! ## The steps of a cue (R77, R79, R112) -/

/-- A selection of one whole frame, with weight 0 and no partner. -/
def wholeFrame (feed : FeedId) (frame : Nat) (m : Option Material) : Selection :=
  { feed := feed, frame := frame, partner := none, weight := 0, clip := materialId m }

/-- The channel placed on its entry frame by a cue (R77 steps 2 to 6). -/
def Channel.cued (x : Channel) (feed : FeedId) (w : Window) (e : Nat) : Channel :=
  { x with pos := e * 1024, speed := 0, target := 0, state := .cued, atLive := false, atTail := false,
           window := some w, selection := some (wholeFrame feed e x.material), damaged := false, preload := true,
           cueWait := some ⟨feed, e⟩, idleSel := none }

/-- The preload lookups of a channel from a frame (R79). -/
def preload (ch : ChanId) (feed : FeedId) (w : Window) (e : Nat) (reverse : Bool) (s : State) : State :=
  sendLookups ch feed (preloadFrames reverse w e (s.chan ch).opts.preloadDepth) s

/-- The angle assignment of the channel's clip, if its material is a clip (R111). -/
def assignOwnAngles (ch : ChanId) (s : State) : State :=
  match materialId (s.chan ch).material with
  | none => s
  | some id => assignAngles ch id s

/-- Steps 2 to 7 of R77 on a channel whose material is set, then its slaves (R112). -/
def cue (ch : ChanId) (feed : FeedId) (w : Window) (e : Nat) (reverse : Bool) (s : State) : State :=
  let s := preload ch feed w e reverse (s.setChan ch ((s.chan ch).cued feed w e))
  followMaster ch (.preload reverse) (assignOwnAngles ch s)

/-! ## CUE_CLIP (R77) -/

/-- CUE_CLIP of a clip whose window is `w` (R77). -/
def cueClip (ch : ChanId) (id : Nat) (c : Clip) (w : Window) (s : State) : CmdResult :=
  let reverse : Bool := c.nominal < 0
  let e := c.entryIn (s.feed c.feed) reverse w
  done (cue ch c.feed w e reverse (changeMaterial ch (some (.clip id)) s)) false (leBytes 4 e)

/-- CUE_CLIP (R76, R77). -/
def cmdCueClip (n id : Nat) (s : State) : CmdResult :=
  withFreeChannel n s fun ch =>
    if Config.clipRecords ≤ id then refuse s .badArgument
    else
      match s.clips.find id with
      | none => refuse s .notFound
      | some c =>
        if c.state = .expired then refuse s .expired
        else
          match c.window (s.feed c.feed) with
          | none => refuse s .noHead
          | some w => cueClip ch id c w s

/-! ## CUE_FEED (R81) -/

/-- The frame CUE_FEED names, as a signed number: ABSOLUTE is 0 and BEHIND_HEAD is 1 (R81, R200). -/
def cueFrame? (ref value head : Nat) : Option Int :=
  match ref with
  | 0 => some value
  | 1 => some ((head : Int) - value)
  | _ => none

/-- CUE_FEED onto a frame of a feed with playable range `w` (R81). -/
def cueFeed (ch : ChanId) (f : FeedId) (w : Window) (named : Int) (s : State) : CmdResult :=
  let e := (clampInt w.lo w.hi named).toNat
  done (cue ch f w e false (changeMaterial ch (some (.feed f)) s)) ((e : Int) != named) (leBytes 4 e)

/-- CUE_FEED (R76, R81). -/
def cmdCueFeed (n feed ref value : Nat) (s : State) : CmdResult :=
  withFreeChannel n s fun ch =>
    match feedOf? feed, cueFrame? ref value 0 with
    | some f, some _ =>
      match (s.feed f).range with
      | none => refuse s .noHead
      | some w => cueFeed ch f w ((cueFrame? ref value w.hi).getD 0) s
    | _, _ => refuse s .badArgument

/-! ## GO_LIVE (R86) -/

/-- The channel placed on the head of its live feed (R86 steps 2 to 5). -/
def Channel.goneLive (x : Channel) (feed : FeedId) (w : Window) : Channel :=
  { x with pos := w.hi * 1024, speed := 1024, target := 1024, state := .live, atLive := false, atTail := false,
           cueWait := none, window := some w, selection := some (wholeFrame feed w.hi x.material), damaged := false,
           preload := true, idleSel := none }

/-- GO_LIVE on a feed with playable range `w`, then the slaves of a master (R86, R112). -/
def goLive (ch : ChanId) (f : FeedId) (w : Window) (s : State) : CmdResult :=
  let s := changeMaterial ch (some (.feed f)) s
  let s := s.setChan ch ((s.chan ch).goneLive f w)
  done (followMaster ch .selected (sendLookups ch f [w.hi] s)) false (leBytes 4 w.hi)

/-- GO_LIVE (R76, R86). -/
def cmdGoLive (n : Nat) (feed : Option Nat) (s : State) : CmdResult :=
  withFreeChannel n s fun ch =>
    match optCode? feedOf? feed with
    | none => refuse s .badArgument
    | some given =>
      match (match given with
        | some f => some f
        | none => sourceFeed s (.chan ch)) with
      | none => refuse s .noMaterial
      | some f =>
        match (s.feed f).range with
        | none => refuse s .noHead
        | some w => goLive ch f w s

/-! ## EJECT (R87, R113) -/

/-- EJECT of a channel that is engaged (R87, R113, R116). -/
def eject (ch : ChanId) (s : State) : State :=
  match (s.chan ch).state with
  | .idle => s
  | .slave =>
    match masterOf s ch with
    | some (m, _) => slaveToIdle m ch s
    | none => enterIdle ch s
  | _ => ejectSlaves ch (enterIdle ch s)

/-- EJECT (R76, R87). -/
def cmdEject (n : Nat) (s : State) : CmdResult := withEngaged n s fun ch => done (eject ch s) false []

end Sys2Proof.Machine
end

