-- ==== Sys2Proof/Machine/CueLists.lean ====
section
/-!
DEFINITION. The Cue Lists (spec/06_cue_lists.md): LIST_APPEND, LIST_INSERT, LIST_REMOVE, LIST_CLEAR, READ_LIST, the
search and the taking of an entry (R125), the advance at a clip bound (R126) and TAKE_NEXT (R127 to R130).
-/

namespace Sys2Proof.Machine

def State.setList (s : State) (ch : ChanId) (l : List CueEntry) : State := { s with lists := s.lists.set ch l }

/-! ## Editing (R119 to R124) -/

/-- The checks of R120 on a clip that is to be listed; the status of a refusal. -/
def listCheck (s : State) (ch : ChanId) (id : Nat) : Option Status :=
  if Config.cueEntries ≤ (s.lists.get ch).length then some .listFull
  else
    match s.clips.find id with
    | none => some .notFound
    | some c => if c.state = .expired then some .expired else none

/-- An entry is placed at a position, with its take (R120, R121); the count of the reply in 1 byte is the model's
choice (log entry 35). -/
def insertEntry (ch : ChanId) (pos id : Nat) (speed : Option Int) (s : State) : CmdResult :=
  let l := (s.lists.get ch).insertIdx pos { clip := id, speed := speed.map clampSpeed }
  done (takeClip id (s.setList ch l)) (speed.any fun v => clampSpeed v != v) (leBytes 1 pos ++ leBytes 1 l.length)

/-- LIST_APPEND (R119, R120). -/
def cmdListAppend (n id : Nat) (speed : Option Int) (s : State) : CmdResult :=
  match chanOf? n with
  | none => refuse s .badArgument
  | some ch =>
    if Config.clipRecords ≤ id then refuse s .badArgument
    else
      match listCheck s ch id with
      | some st => refuse s st
      | none => insertEntry ch (s.lists.get ch).length id speed s

/-- LIST_INSERT (R119, R121). -/
def cmdListInsert (n pos id : Nat) (speed : Option Int) (s : State) : CmdResult :=
  match chanOf? n with
  | none => refuse s .badArgument
  | some ch =>
    if Config.clipRecords ≤ id ∨ (s.lists.get ch).length < pos then refuse s .badArgument
    else
      match listCheck s ch id with
      | some st => refuse s st
      | none => insertEntry ch pos id speed s

/-- LIST_REMOVE (R119, R122); the count of the reply in 1 byte is the model's choice (log entry 35). -/
def cmdListRemove (n pos : Nat) (s : State) : CmdResult :=
  match chanOf? n with
  | none => refuse s .badArgument
  | some ch =>
    match (s.lists.get ch)[pos]? with
    | none => refuse s .badArgument
    | some e =>
      let l := (s.lists.get ch).eraseIdx pos
      done (releaseClip e.clip (s.setList ch l)) false (leBytes 2 e.clip ++ optInt 4 e.speed ++ leBytes 1 l.length)

/-- One release for each entry of a list. -/
def releaseEntries (l : List CueEntry) (s : State) : State := l.foldl (fun acc e => releaseClip e.clip acc) s

/-- LIST_CLEAR (R119, R123); the number of the reply in 1 byte is the model's choice (log entry 35). -/
def cmdListClear (n : Nat) (s : State) : CmdResult :=
  match chanOf? n with
  | none => refuse s .badArgument
  | some ch =>
    let l := s.lists.get ch
    done (releaseEntries l (s.setList ch [])) false (leBytes 1 l.length)

/-- READ_LIST (R119, R124). -/
def cmdReadList (n : Nat) (s : State) : CmdResult :=
  match chanOf? n with
  | none => refuse s .badArgument
  | some ch =>
    let l := s.lists.get ch
    done s false (leBytes 1 l.length ++ l.flatMap fun e => e.bytes (clipState s e.clip))

/-! ## The search and the taking of an entry (R125) -/

/-- The clip of an entry that can be taken: not EXPIRED, and its mark-in not below the tail (R125). -/
def takeable (s : State) (e : CueEntry) : Option Clip :=
  match s.clips.find e.clip with
  | none => none
  | some c => if c.state = .expired ∨ c.markIn < (s.feed c.feed).tail then none else some c

/-- The entries before the first that can be taken, and that entry with its clip and the rest (R125). -/
def searchList (s : State) : List CueEntry → List CueEntry × Option (CueEntry × Clip × List CueEntry)
  | [] => ([], none)
  | e :: rest =>
    match takeable s e with
    | some c => ([], some (e, c, rest))
    | none =>
      let r := searchList s rest
      (e :: r.1, r.2)

/-- An entry passed over leaves: its release, and CLIP_EXPIRED with the action SKIPPED (R125 step 1). -/
def passOver (ch : ChanId) (e : CueEntry) (s : State) : State :=
  let s' := releaseClip e.clip s
  match s.clips.find e.clip with
  | none => s'
  | some c => raise partUnit (.clipExpired e.clip c.feed c.markIn (some (s.feed c.feed).tail) (some ch) true) s'

/-- The entries passed over leave, in list order. -/
def passAll (ch : ChanId) (l : List CueEntry) (s : State) : State := l.foldl (fun acc e => passOver ch e acc) s

/-- The chosen entry is taken: the entries before it pass, the list becomes the rest, the entry's hold gives way to
the channel's, and the old material is released (R125). -/
def takeEntry (ch : ChanId) (passed : List CueEntry) (e : CueEntry) (rest : List CueEntry) (s : State) : State :=
  let s := passAll ch passed (s.setList ch rest)
  releaseClip e.clip (changeMaterial ch (some (.clip e.clip)) s)

/-- The target speed an entry gives: its override, or its clip's nominal speed (R126, R129). -/
def CueEntry.target (e : CueEntry) (c : Clip) : Int := e.speed.getD c.nominal

/-! ## NEXT at the clip bound (R63, R126) -/

/-- The list is emptied at an advance that takes no clip (R126). -/
def passWhole (ch : ChanId) (s : State) : State := passAll ch (s.lists.get ch) (s.setList ch [])

/-- The channel in its new clip at a NEXT advance (R63, R126). -/
def Channel.advanced (x : Channel) (w : Window) (e : Nat) (target : Int) : Channel :=
  { x with pos := e * 1024, target := target, window := some w, atLive := false, atTail := false, preload := true,
           cueWait := none }

/-- The direction of a NEXT advance is reverse (R63). -/
def nextReverse (speed : Int) (e : WindowEnd) : Bool :=
  if 0 < speed then false else if speed < 0 then true else e == .lower

/-- A NEXT advance that takes entry `e` with clip `c`; an empty new window ends the channel as R54 gives (R63,
R126). -/
def advanceNext (ch : ChanId) (bound : WindowEnd) (passed : List CueEntry) (e : CueEntry) (c : Clip)
    (rest : List CueEntry) (s : State) : State :=
  let reverse := nextReverse (s.chan ch).speed bound
  let s := assignOwnAngles ch (takeEntry ch passed e rest s)
  let x := s.feed c.feed
  match c.window x with
  | none => windowLost ch s
  | some w =>
    let entry := c.entryIn x reverse w
    raise ch.val (.clipTaken e.clip entry .next rest.length)
      (s.setChan ch ((s.chan ch).advanced w entry (e.target c)))

/-! ## TAKE_NEXT (R127 to R130) -/

/-- The result body of TAKE_NEXT: clip id, entry frame, state, entries left (R128, R129). -/
def takeReply (id entry : Nat) (st : ChanState) (left : Nat) : List Byte :=
  leBytes 2 id ++ leBytes 4 entry ++ leBytes 1 st.code ++ leBytes 1 left

/-- TAKE_NEXT in CUED, JOG, LIVE or ENDED cues the chosen clip (R128). The slaves of a master preload in the direction
of the override too, the model's choice (log entry 34). -/
def takeCue (ch : ChanId) (passed : List CueEntry) (e : CueEntry) (c : Clip) (rest : List CueEntry) (w : Window)
    (s : State) : CmdResult :=
  let reverse : Bool := e.target c < 0
  let entry := c.entryIn (s.feed c.feed) reverse w
  let s := raise ch.val (.clipTaken e.clip entry .take rest.length) (takeEntry ch passed e rest s)
  done (cue ch c.feed w entry reverse s) false (takeReply e.clip entry .cued rest.length)

/-- The channel in its new clip at a running take (R129 steps 2 and 4 to 7). -/
def Channel.jumped (x : Channel) (feed : FeedId) (w : Window) (e : Nat) (target : Int) : Channel :=
  { x with pos := e * 1024, target := target, window := some w, atLive := false, atTail := false, cueWait := none,
           selection := some (wholeFrame feed e x.material), damaged := false, preload := true }

/-- The direction of a running take is reverse (R129 step 3). -/
def takeReverse (speed target : Int) : Bool :=
  if 0 < speed then false else if speed < 0 then true else target < 0

/-- TAKE_NEXT in PLAYING or SHUTTLE is a running take (R129, R131). -/
def takeRunning (ch : ChanId) (passed : List CueEntry) (e : CueEntry) (c : Clip) (rest : List CueEntry) (w : Window)
    (s : State) : CmdResult :=
  let t := e.target c
  let reverse := takeReverse (s.chan ch).speed t
  let entry := c.entryIn (s.feed c.feed) reverse w
  let s := takeEntry ch passed e rest s
  let s := assignOwnAngles ch (s.setChan ch ((s.chan ch).jumped c.feed w entry t))
  let s := preload ch c.feed w entry reverse s
  done (raise ch.val (.clipTaken e.clip entry .take rest.length) s) false
    (takeReply e.clip entry (s.chan ch).state rest.length)

/-- TAKE_NEXT (R127 to R130). -/
def cmdTakeNext (n : Nat) (s : State) : CmdResult :=
  withMaterial n s fun ch =>
    match searchList s (s.lists.get ch) with
    | (_, none) => refuse s .notFound
    | (passed, some (e, c, rest)) =>
      match c.window (s.feed c.feed) with
      | none => refuse s .noHead
      | some w =>
        match (s.chan ch).state with
        | .playing => takeRunning ch passed e c rest w s
        | .shuttle => takeRunning ch passed e c rest w s
        | _ => takeCue ch passed e c rest w s

end Sys2Proof.Machine
end

