-- ==== Sys2Proof/Machine/Panel.lean ====
section
/-!
DEFINITION. The Panel Port (spec/09_panel_lines.md): SET_PANEL, jog decoding, and the push lines.
-/

namespace Sys2Proof.Machine

/-! ## SET_PANEL (R28, R172) -/

/-- A mark source number in its set (R27). -/
def source? (n : Nat) : Option Nat := if n < 12 then some n else none

/-- The panel after a SET_PANEL, none when a value lies outside its set (R172). -/
def PanelFields.write? (x : PanelFields) (p : Panel) : Option Panel := do
  let bound ← optCode? chanOf? x.bound
  let source ← optCode? source? x.source
  let decode ← optCode? decodeMode? x.decode
  let takeover ← optCode? onOff? x.takeover
  let action ← optCode? takeAction? x.takeAction
  return { p with bound := bound.getD p.bound, source := source.getD p.source, decode := decode.getD p.decode,
                  takeover := takeover.getD p.takeover, takeAction := action.getD p.takeAction }

/-- The result body of SET_PANEL: the binding and the default clip length (R172). -/
def panelBytes (p : Panel) (len : Nat) : List Byte :=
  leBytes 1 p.bound.val ++ leBytes 1 p.source ++ leBytes 1 p.decode.code ++ [boolByte p.takeover]
    ++ leBytes 1 p.takeAction.code ++ leBytes 4 len

/-- SET_PANEL (R172); the default clip length is the Mark Unit's (R28). -/
def cmdSetPanel (x : PanelFields) (s : State) : CmdResult :=
  match x.write? s.panel with
  | none => refuse s .badArgument
  | some p =>
    let len := (x.defaultLen.map (clampNat 1 65535)).getD s.defaultLen
    done { s with panel := p, defaultLen := len } (x.defaultLen.any fun v => clampNat 1 65535 v != v)
      (panelBytes p len)

/-! ## Jog decoding (R173 to R175) -/

/-- The count of a change in X1 and X2 of JA, with the level of JB before it (R174). -/
def phaseCount (falls : Bool) (ja ja' jb : Level) : Option Int :=
  match ja, ja', jb with
  | .low, .high, .low => some 1
  | .low, .high, .high => some (-1)
  | .high, .low, .high => if falls then some 1 else none
  | .high, .low, .low => if falls then some (-1) else none
  | _, _, _ => none

/-- The count of a change in DIRSTEP, with the level of JB after it (R174). -/
def stepCountOf (ja ja' jb' : Level) : Option Int :=
  match ja, ja', jb' with
  | .low, .high, .high => some 1
  | .low, .high, .low => some (-1)
  | _, _, _ => none

/-- The place of a pair of levels in the forward order of X4 (R175). -/
def grayPlace : Level → Level → Nat
  | .low, .low => 0
  | .high, .low => 1
  | .high, .high => 2
  | .low, .high => 3

/-- The count of a change in X4: one place along the order or against it; none for a double change (R175). -/
def grayCount (ja jb ja' jb' : Level) : Option Int :=
  match (grayPlace ja' jb' + 4 - grayPlace ja jb) % 4 with
  | 1 => some 1
  | 3 => some (-1)
  | _ => none

/-- The count a line change produces, by the decode mode (R174, R175). -/
def jogCount (mode : DecodeMode) (ja jb ja' jb' : Level) : Option Int :=
  match mode with
  | .x1 => phaseCount false ja ja' jb
  | .x2 => phaseCount true ja ja' jb
  | .x4 => grayCount ja jb ja' jb'
  | .dirstep => stepCountOf ja ja' jb'

/-- A double change in X4 is a glitch (R175). -/
def isGlitch (p : Panel) (ja' jb' : Level) : Bool := p.decode == .x4 && p.ja != ja' && p.jb != jb'

/-- A line change of JA, JB or both: the count to the bound channel at once, then the new last levels (R173, R176). -/
def jogLines (ja' jb' : Level) (s : State) : State :=
  let p := s.panel
  let s' := match jogCount p.decode p.ja p.jb ja' jb' with
    | none => s
    | some n => s.setChan p.bound ((s.chan p.bound).takeCount p.takeover n)
  { s' with panel := { p with ja := ja', jb := jb', glitch := p.glitch || isGlitch p ja' jb' } }

/-! ## Push lines (R177, R178) -/

def Panel.line (p : Panel) : PushLine → PushState
  | .markin => p.markin
  | .markout => p.markout
  | .take => p.take

def Panel.setLine (p : Panel) (l : PushLine) (x : PushState) : Panel :=
  match l with
  | .markin => { p with markin := x }
  | .markout => { p with markout := x }
  | .take => { p with take := x }

/-- The command an accepted edge stands for, with no reply (R178). -/
def edgeAction (l : PushLine) (s : State) : State :=
  match l with
  | .markin => (cmdMarkIn s.panel.source s).state
  | .markout => (cmdMarkOut s.panel.source s).state
  | .take =>
    match s.panel.takeAction with
    | .play => (cmdPlay s.panel.bound.val none s).state
    | .takeNext => (cmdTakeNext s.panel.bound.val s).state

/-- A rise of a push line; a line already high does not rise (R177, R178). -/
def pushEdge (l : PushLine) (s : State) : State :=
  let x := s.panel.line l
  match x.level with
  | .high => s
  | .low =>
    let s' := { s with panel := s.panel.setLine l ⟨.high, true⟩ }
    if x.accepted then s' else edgeAction l s'

/-- A fall of a push line becomes the last level (R177). -/
def pushFall (l : PushLine) (s : State) : State :=
  { s with panel := s.panel.setLine l { s.panel.line l with level := .low } }

end Sys2Proof.Machine
end

