-- ==== Sys2Proof/Machine/HostCommands.lean ====
section
/-!
DEFINITION. The command frames as the decoder takes them (R191, R192): for each kind, the reading of its body, the rule
that acts, and the reply.
-/

namespace Sys2Proof.Machine

/-- SET_STORE, kind 1 (R201). -/
def runSetStore (tag : Byte) (body : List Byte) (s : State) : State :=
  runCommand 1#8 tag (parseSetStore body) (fun a => cmdSetStore a.1 a.2) s

/-- SET_FEED, kind 2 (R201). -/
def runSetFeed (tag : Byte) (body : List Byte) (s : State) : State :=
  runCommand 2#8 tag (parseSetFeed body) (fun a => cmdSetFeed a.1 a.2) s

/-- SET_CHANNEL, kind 3 (R201). -/
def runSetChannel (tag : Byte) (body : List Byte) (s : State) : State :=
  runCommand 3#8 tag (parseSetChannel body) (fun a => cmdSetChannel a.1 a.2) s

/-- SET_CURVE, kind 4 (R201). -/
def runSetCurve (tag : Byte) (body : List Byte) (s : State) : State :=
  runCommand 4#8 tag (parseSetCurve body) cmdSetCurve s

/-- SET_PANEL, kind 5 (R201). -/
def runSetPanel (tag : Byte) (body : List Byte) (s : State) : State :=
  runCommand 5#8 tag (parseSetPanel body) cmdSetPanel s

/-- SET_NOTICES, kind 6 (R201). -/
def runSetNotices (tag : Byte) (body : List Byte) (s : State) : State :=
  runCommand 6#8 tag (parseSetNotices body) (fun a => cmdSetNotices a.1 a.2.1 a.2.2) s

/-- ENGAGE, kind 7 (R201). -/
def runEngage (tag : Byte) (body : List Byte) (s : State) : State :=
  runCommand 7#8 tag (parseNothing body) (fun _ => cmdEngage) s

/-- DISENGAGE, kind 8 (R201). -/
def runDisengage (tag : Byte) (body : List Byte) (s : State) : State :=
  runCommand 8#8 tag (parseNothing body) (fun _ => cmdDisengage) s

/-- RESTART_FEED, kind 9 (R201). -/
def runRestartFeed (tag : Byte) (body : List Byte) (s : State) : State :=
  runCommand 9#8 tag (parseByte body) cmdRestartFeed s

/-- CUE_CLIP, kind 10 (R201). -/
def runCueClip (tag : Byte) (body : List Byte) (s : State) : State :=
  runCommand 10#8 tag (parseCueClip body) (fun a => cmdCueClip a.1 a.2) s

/-- CUE_FEED, kind 11 (R201). -/
def runCueFeed (tag : Byte) (body : List Byte) (s : State) : State :=
  runCommand 11#8 tag (parseCueFeed body) (fun a => cmdCueFeed a.1 a.2.1 a.2.2.1 a.2.2.2) s

/-- PLAY, kind 12 (R201). -/
def runPlay (tag : Byte) (body : List Byte) (s : State) : State :=
  runCommand 12#8 tag (parsePlay body) (fun a => cmdPlay a.1 a.2) s

/-- SHUTTLE, kind 13 (R201). -/
def runShuttle (tag : Byte) (body : List Byte) (s : State) : State :=
  runCommand 13#8 tag (parseChanWord body) (fun a => cmdShuttle a.1 a.2) s

/-- STILL, kind 14 (R201). -/
def runStill (tag : Byte) (body : List Byte) (s : State) : State :=
  runCommand 14#8 tag (parseByte body) cmdStill s

/-- STEP, kind 15 (R201). -/
def runStepCount (tag : Byte) (body : List Byte) (s : State) : State :=
  runCommand 15#8 tag (parseChanWord body) (fun a => cmdStep a.1 a.2) s

/-- GO_LIVE, kind 16 (R201). -/
def runGoLive (tag : Byte) (body : List Byte) (s : State) : State :=
  runCommand 16#8 tag (parseGoLive body) (fun a => cmdGoLive a.1 a.2) s

/-- EJECT, kind 17 (R201). -/
def runEject (tag : Byte) (body : List Byte) (s : State) : State :=
  runCommand 17#8 tag (parseByte body) cmdEject s

/-- TAKE_NEXT, kind 18 (R201). -/
def runTakeNext (tag : Byte) (body : List Byte) (s : State) : State :=
  runCommand 18#8 tag (parseByte body) cmdTakeNext s

/-- GANG, kind 19 (R201). -/
def runGang (tag : Byte) (body : List Byte) (s : State) : State :=
  runCommand 19#8 tag (parseGang body) (fun a => cmdGang a.1 a.2) s

/-- UNGANG, kind 20 (R201). -/
def runUngang (tag : Byte) (body : List Byte) (s : State) : State :=
  runCommand 20#8 tag (parseByte body) cmdUngang s

/-- MARK_IN, kind 21 (R201). -/
def runMarkIn (tag : Byte) (body : List Byte) (s : State) : State :=
  runCommand 21#8 tag (parseByte body) cmdMarkIn s

/-- MARK_OUT, kind 22 (R201). -/
def runMarkOut (tag : Byte) (body : List Byte) (s : State) : State :=
  runCommand 22#8 tag (parseByte body) cmdMarkOut s

/-- MAKE_CLIP, kind 23 (R201). -/
def runMakeClip (tag : Byte) (body : List Byte) (s : State) : State :=
  runCommand 23#8 tag (parseMakeClip body) (fun a => cmdMakeClip a.1 a.2.1 a.2.2) s

/-- TRIM_CLIP, kind 24 (R201). -/
def runTrimClip (tag : Byte) (body : List Byte) (s : State) : State :=
  runCommand 24#8 tag (parseTrimClip body) (fun a => cmdTrimClip a.1 a.2.1 a.2.2) s

/-- SET_CLIP, kind 25 (R201). -/
def runSetClip (tag : Byte) (body : List Byte) (s : State) : State :=
  runCommand 25#8 tag (parseSetClip body) (fun a => cmdSetClip a.1 a.2) s

/-- DELETE_CLIP, kind 26 (R201). -/
def runDeleteClip (tag : Byte) (body : List Byte) (s : State) : State :=
  runCommand 26#8 tag (parseClipId body) cmdDeleteClip s

/-- READ_CLIP, kind 27 (R201). -/
def runReadClip (tag : Byte) (body : List Byte) (s : State) : State :=
  runCommand 27#8 tag (parseClipId body) cmdReadClip s

/-- LIST_CLIPS, kind 28 (R201). -/
def runListClips (tag : Byte) (body : List Byte) (s : State) : State :=
  runCommand 28#8 tag (parseListClips body) (fun a => cmdListClips a.1 a.2) s

/-- LIST_APPEND, kind 29 (R201). -/
def runListAppend (tag : Byte) (body : List Byte) (s : State) : State :=
  runCommand 29#8 tag (parseListAppend body) (fun a => cmdListAppend a.1 a.2.1 a.2.2) s

/-- LIST_INSERT, kind 30 (R201). -/
def runListInsert (tag : Byte) (body : List Byte) (s : State) : State :=
  runCommand 30#8 tag (parseListInsert body) (fun a => cmdListInsert a.1 a.2.1 a.2.2.1 a.2.2.2) s

/-- LIST_REMOVE, kind 31 (R201). -/
def runListRemove (tag : Byte) (body : List Byte) (s : State) : State :=
  runCommand 31#8 tag (parseListRemove body) (fun a => cmdListRemove a.1 a.2) s

/-- LIST_CLEAR, kind 32 (R201). -/
def runListClear (tag : Byte) (body : List Byte) (s : State) : State :=
  runCommand 32#8 tag (parseByte body) cmdListClear s

/-- READ_LIST, kind 33 (R201). -/
def runReadList (tag : Byte) (body : List Byte) (s : State) : State :=
  runCommand 33#8 tag (parseByte body) cmdReadList s

/-- READ_CHANNEL, kind 34 (R201). -/
def runReadChannel (tag : Byte) (body : List Byte) (s : State) : State :=
  runCommand 34#8 tag (parseByte body) cmdReadChannel s

/-- READ_FEED, kind 35 (R201). -/
def runReadFeed (tag : Byte) (body : List Byte) (s : State) : State :=
  runCommand 35#8 tag (parseByte body) cmdReadFeed s

/-- READ_NOTICES, kind 36 (R201). -/
def runReadNotices (tag : Byte) (body : List Byte) (s : State) : State :=
  runCommand 36#8 tag (parseByte body) cmdReadNotices s

/-- ACK_NOTICE, kind 37 (R201). -/
def runAckNotice (tag : Byte) (body : List Byte) (s : State) : State :=
  runCommand 37#8 tag (parseAckNotice body) (fun a => cmdAckNotice a.1 a.2) s

/-- READ_ERROR, kind 38 (R201). -/
def runReadError (tag : Byte) (body : List Byte) (s : State) : State :=
  runCommand 38#8 tag (parseNothing body) (fun _ => cmdReadError) s

/-- CLEAR_ERROR, kind 39 (R201). -/
def runClearError (tag : Byte) (body : List Byte) (s : State) : State :=
  runCommand 39#8 tag (parseNothing body) (fun _ => cmdClearError) s

/-- A kind that names no command is refused with UNKNOWN_KIND (R192). -/
def runUnknownKind (kind tag : Byte) (s : State) : State := replyWith kind tag (refuse s .unknownKind)

/-- The decoder takes a frame: the command its kind names acts and is answered (R191, R192, R201). -/
def runFrame (f : LinkFrame) (s : State) : State :=
  match f.kind.toNat with
  | 1 => runSetStore f.tag f.body s
  | 2 => runSetFeed f.tag f.body s
  | 3 => runSetChannel f.tag f.body s
  | 4 => runSetCurve f.tag f.body s
  | 5 => runSetPanel f.tag f.body s
  | 6 => runSetNotices f.tag f.body s
  | 7 => runEngage f.tag f.body s
  | 8 => runDisengage f.tag f.body s
  | 9 => runRestartFeed f.tag f.body s
  | 10 => runCueClip f.tag f.body s
  | 11 => runCueFeed f.tag f.body s
  | 12 => runPlay f.tag f.body s
  | 13 => runShuttle f.tag f.body s
  | 14 => runStill f.tag f.body s
  | 15 => runStepCount f.tag f.body s
  | 16 => runGoLive f.tag f.body s
  | 17 => runEject f.tag f.body s
  | 18 => runTakeNext f.tag f.body s
  | 19 => runGang f.tag f.body s
  | 20 => runUngang f.tag f.body s
  | 21 => runMarkIn f.tag f.body s
  | 22 => runMarkOut f.tag f.body s
  | 23 => runMakeClip f.tag f.body s
  | 24 => runTrimClip f.tag f.body s
  | 25 => runSetClip f.tag f.body s
  | 26 => runDeleteClip f.tag f.body s
  | 27 => runReadClip f.tag f.body s
  | 28 => runListClips f.tag f.body s
  | 29 => runListAppend f.tag f.body s
  | 30 => runListInsert f.tag f.body s
  | 31 => runListRemove f.tag f.body s
  | 32 => runListClear f.tag f.body s
  | 33 => runReadList f.tag f.body s
  | 34 => runReadChannel f.tag f.body s
  | 35 => runReadFeed f.tag f.body s
  | 36 => runReadNotices f.tag f.body s
  | 37 => runAckNotice f.tag f.body s
  | 38 => runReadError f.tag f.body s
  | 39 => runClearError f.tag f.body s
  | _ => runUnknownKind f.kind f.tag s

end Sys2Proof.Machine
end

