-- ==== Sys2Proof/Machine/Link.lean ====
section
/-!
DEFINITION. The Control Link (spec/11_control_link_and_notices.md): the form of frames on the wire (R188), the receiver
(R189), the input buffer (R190), the decoder's taking of frames (R191) and the end of a record sent (R193).
-/

namespace Sys2Proof.Machine

/-! ## Frames on the wire (R188, R201) -/

def syncByte : Byte := 0xB7#8
def escapeByte : Byte := 0xB8#8
def escapedSync : Byte := 0xF7#8
def escapedEscape : Byte := 0xF8#8

/-- A byte as it is sent after the sync byte (R188). -/
def escapeOut (b : Byte) : List Byte :=
  if b = syncByte then [escapeByte, escapedSync] else if b = escapeByte then [escapeByte, escapedEscape] else [b]

/-- The two CRC bytes of a frame's length, kind, tag and body, low byte first (R188). -/
def crcBytes (payload : List Byte) : List Byte := leBytes 2 (crc16 payload).toNat

/-- The length, kind, tag and body of a frame (R201). -/
def framePayload (kind tag : Byte) (body : List Byte) : List Byte := byteOf body.length :: kind :: tag :: body

/-- A frame as it crosses the link (R188, R201). -/
def wireBytes (kind tag : Byte) (body : List Byte) : List Byte :=
  let p := framePayload kind tag body
  syncByte :: (p ++ crcBytes p).flatMap escapeOut

/-- The frame of a record (R201). -/
def TxRecord.wire (r : TxRecord) : List Byte := wireBytes r.kind r.tag r.body

/-! ## Link errors, the decoder and the input buffer (R189 to R191) -/

def linkError (cause : LinkErrorCause) (s : State) : State := raise partUnit (.linkError cause 0#8 0#8) s

/-- The decoder takes the frame at the front when the reply to the last command has been sent (R191). The reply it
hands ends the second condition, so one event takes at most one frame. -/
def serviceDecoder (s : State) : State :=
  match s.link.inBuf with
  | [] => s
  | f :: rest => if s.link.replySent then runFrame f { s with link := { s.link with inBuf := rest } } else s

/-- A checked frame is offered to the input buffer (R190). -/
def offer (f : LinkFrame) (s : State) : State :=
  if s.link.inBuf.length < Config.linkFrames then
    { s with link := { s.link with inBuf := s.link.inBuf ++ [f] } }
  else raise partUnit (.linkError .overrun f.kind f.tag) s

/-- A checked frame reaches the input buffer, and the decoder takes what it may: this frame at once when it stands
alone, with the effect `run` (R190, R191; log entries 1 and 2). The frame passes by the receiver of R189: a frame still
under assembly keeps its bytes, and no BROKEN is raised, the model's choice (log entry 2). -/
def arrive (f : LinkFrame) (run : State → State) (s : State) : State :=
  if s.link.inBuf = [] ∧ s.link.replySent then run s else serviceDecoder (offer f s)

/-! ## The receiver (R189) -/

def State.setRx (s : State) (r : RxState) : State := { s with link := { s.link with rx := r } }

/-- A frame that holds the bytes its length calls for is checked and offered (R189). -/
def completeFrame (bytes : List Byte) (s : State) : State :=
  let n := bytes.length - 2
  let s := s.setRx .hunt
  if bytes.drop n = crcBytes (bytes.take n) then
    match bytes.take n with
    | _ :: kind :: tag :: body => serviceDecoder (offer ⟨kind, tag, body⟩ s)
    | _ => s
  else linkError .crc s

/-- The frame holds these bytes now: its length is checked, and its completion (R189). -/
def frameHolds (bytes : List Byte) (s : State) : State :=
  match bytes with
  | [] => s.setRx (.inFrame [] false)
  | len :: _ =>
    if Config.bodyBytes < len.toNat then linkError .length (s.setRx .hunt)
    else if bytes.length = len.toNat + 5 then completeFrame bytes s
    else s.setRx (.inFrame bytes false)

/-- The byte after an escape byte (R189). -/
def escapedByte (bytes : List Byte) (b : Byte) (s : State) : State :=
  if b = escapedSync then frameHolds (bytes ++ [syncByte]) s
  else if b = escapedEscape then frameHolds (bytes ++ [escapeByte]) s
  else if b = syncByte then linkError .broken (s.setRx (.inFrame [] false))
  else linkError .escape (s.setRx .hunt)

/-- A byte in IN_FRAME that follows no escape byte (R189). -/
def plainByte (bytes : List Byte) (b : Byte) (s : State) : State :=
  if b = syncByte then
    if bytes = [] then s else linkError .broken (s.setRx (.inFrame [] false))
  else if b = escapeByte then s.setRx (.inFrame bytes true)
  else frameHolds (bytes ++ [b]) s

/-- One byte received (R189). -/
def receiveByte (s : State) (b : Byte) : State :=
  match s.link.rx with
  | .hunt => if b = syncByte then s.setRx (.inFrame [] false) else s
  | .inFrame bytes true => escapedByte bytes b s
  | .inFrame bytes false => plainByte bytes b s

/-- Bytes received in order; each frame they complete is offered and may be taken before the next byte (R189 to
R191). -/
def receiveBytes (bytes : List Byte) (s : State) : State := bytes.foldl receiveByte s

/-! ## The end of a record (R193) -/

/-- The record being sent has been sent whole: the next begins, and the decoder takes what it may (R191, R193). -/
def recordSent (s : State) : State :=
  match s.link.sending with
  | none => s
  | some r =>
    serviceDecoder
      { s with link := Link.begin { s.link with sending := none, lastSent := some r.wire } }

end Sys2Proof.Machine
end

