-- ==== Sys2Proof/Machine/Tick.lean ====
section
/-!
DEFINITION. The output tick of a channel: its presentation (R89 to R93, R98, R99, R104), then its step (R51), which
for a slave is the selection and lookahead of R110; the clearing of the panel's acceptance flags (R177); and how a
tick's presentation and its count at the Frame Cache pair (R146).
-/

namespace Sys2Proof.Machine

/-! ## Presentation (R89 to R93) -/

/-- The channel sends a record, followed by the fragments of the frames it pins (R89, R93). -/
def sendRecord (ch : ChanId) (r : PresRecord) (s : State) : State :=
  s.setChan ch { s.chan ch with lastRec := r, outData := s.cache.pinnedData ch }

/-- The last presentation is repeated with a cause, and LATE_FRAME is raised (R91, R99). -/
def repeatLast (ch : ChanId) (feed : FeedId) (frame : Option Nat) (cause : RepeatCause) (s : State) : State :=
  raise ch.val (.lateFrame feed frame cause)
    (sendRecord ch { (s.chan ch).lastRec with repeated := some cause } s)

/-- The record of a presentation that pinned the selected frame, with its partner or without (R90, R93). -/
def shownRecord (sel : Selection) (withPartner : Bool) : PresRecord :=
  { shown := some { feed := sel.feed, frame := sel.frame, partner := if withPartner then sel.partner else none,
                    weight := if withPartner then sel.weight else 0, clip := sel.clip }
    repeated := none
    blendDropped := sel.partner.isSome && !withPartner }

/-- A selection is presented, or the last presentation repeated with a cause (R89, R90, R91). -/
def presentSelection (ch : ChanId) (sel : Selection) (cause : RepeatCause) (s : State) : State :=
  match s.cache.present ch sel.feed sel.frame sel.partner with
  | some (c, withPartner) => sendRecord ch (shownRecord sel withPartner) { s with cache := c }
  | none => repeatLast ch sel.feed (some sel.frame) cause s

/-- A selection as a presentation names it: with blend off it names no partner, so its weight is 0 (R89, R100). -/
def Selection.named (sel : Selection) (blend : Bool) : Selection :=
  if blend then sel else { sel with partner := none, weight := 0 }

/-- The presentation of a channel that is not IDLE, by its blend option as it stands now (R89, R91, R100). -/
def presentActive (ch : ChanId) (s : State) : State :=
  let x := s.chan ch
  match x.selection with
  | some sel => presentSelection ch (sel.named x.opts.blend) (if x.damaged then .damaged else .late) s
  | none => repeatLast ch (feedOfChannel s ch) none .late s

/-! ## The idle picture (R98, R99, R104) -/

/-- The record HOLD sends: the last one as a plain presentation, or no frame for a channel without pins (R98). -/
def heldRecord (ch : ChanId) (s : State) : PresRecord :=
  if s.cache.pins.get ch = [] then PresRecord.blank
  else { shown := (s.chan ch).lastRec.shown.map fun x => { x with clip := none }, repeated := none,
         blendDropped := false }

/-- The presentation of an IDLE channel while ENGAGED; the idle picture and the idle feed are read now (R98, R99,
R100). -/
def presentIdle (ch : ChanId) (s : State) : State :=
  let x := s.chan ch
  match x.opts.idlePicture with
  | .hold => sendRecord ch (heldRecord ch s) s
  | .black => sendRecord ch PresRecord.blank (releasePins ch s)
  | .live =>
    match x.idleSel with
    | some n => presentSelection ch (wholeFrame x.opts.idleFeed n none) .late s
    | none => repeatLast ch x.opts.idleFeed none .late s

/-- The step of an IDLE channel while ENGAGED: the accumulator is cleared, and under LIVE the head is selected and
looked up whatever the permit (R51, R98, R99). Under HOLD and BLACK the idle selection stays as it is, the model's choice
(log entry 37). -/
def stepIdle (ch : ChanId) (s : State) : State :=
  let s := s.setChan ch { s.chan ch with jog := 0 }
  let x := s.chan ch
  match x.opts.idlePicture with
  | .live =>
    match (s.feed x.opts.idleFeed).range with
    | none => s.setChan ch { x with idleSel := none }
    | some w => sendLookup ch x.opts.idleFeed w.hi (s.setChan ch { x with idleSel := some w.hi })
  | _ => s

/-! ## Target, ramp and raw step (R51 stages 2 to 4, R58, R59) -/

/-- The channel after the target stage, the ramp and the reading of its accumulator, and Q (R56 to R59). -/
def rawStep (curve : List Int) (x : Channel) (head : Nat) : Channel × Int :=
  match x.state with
  | .playing =>
    let v := rampSpeed x.opts.ramp x.speed x.target
    ({ x with speed := v, jog := 0 }, (x.pos : Int) + v)
  | .shuttle =>
    let t := curveTarget curve x.lever
    let v := rampSpeed x.opts.ramp x.speed t
    ({ x with target := t, speed := v, jog := 0 }, (x.pos : Int) + v)
  | .jog => ({ x with speed := 0, target := 0, jog := 0 }, (x.pos : Int) + x.jog * x.opts.jogStep)
  | .live => ({ x with speed := 1024, target := 1024, jog := 0 }, (head : Int) * 1024)
  | _ => ({ x with jog := 0 }, x.pos)

/-! ## The bound stage (R60 to R67) -/

def WindowEnd.direction : WindowEnd → Direction
  | .upper => .forward
  | .lower => .reverse

/-- The STOP end (R61). -/
def stopEnd (ch : ChanId) (w : Window) (e : WindowEnd) (s : State) : State :=
  let x := s.chan ch
  raise ch.val (.clipEnd ((materialId x.material).getD 0) (w.hold e / 1024) e.direction)
    (s.setChan ch { x with pos := w.hold e, speed := 0, target := 0, state := .ended, preload := false })

/-- The NEXT end: an advance, or the STOP end when the list yields no clip (R63, R126). -/
def nextEnd (ch : ChanId) (w : Window) (e : WindowEnd) (s : State) : State :=
  match searchList s (s.lists.get ch) with
  | (passed, some (entry, c, rest)) => advanceNext ch e passed entry c rest s
  | (_, none) => stopEnd ch w e (passWhole ch s)

/-- An overrun of a clip bound, by the channel's state (R60 to R64). -/
def clipBoundEnd (ch : ChanId) (w : Window) (e : WindowEnd) (q : Int) (mode : EndMode) (s : State) : State :=
  let x := s.chan ch
  match x.state with
  | .playing | .shuttle =>
    match mode with
    | .stop => stopEnd ch w e s
    | .loop => s.setChan ch { x with pos := w.wrap q }
    | .next => nextEnd ch w e s
  | .live => stopEnd ch w e s
  | _ => s.setChan ch { x with pos := w.hold e }

/-- AT_LIVE is set, and raised if it was clear (R65). -/
def setAtLive (ch : ChanId) (head : Nat) (s : State) : State :=
  let x := s.chan ch
  let s' := s.setChan ch { x with atLive := true }
  if x.atLive then s' else raise ch.val (.atLive (feedOfChannel s ch) head) s'

/-- AT_TAIL is set, and TAIL_PUSH raised if it was clear (R66). -/
def setAtTail (ch : ChanId) (tail : Nat) (s : State) : State :=
  let x := s.chan ch
  let s' := s.setChan ch { x with atTail := true }
  if x.atTail then s' else raise ch.val (.tailPush (feedOfChannel s ch) tail) s'

/-- The state of a channel held at the head: LIVE from PLAYING and SHUTTLE with follow-live on (R65). -/
def Channel.heldState (x : Channel) : ChanState :=
  if x.opts.followLive && (x.state == .playing || x.state == .shuttle) then .live else x.state

/-- A forward overrun of a live bound, whose hi is the head (R65). -/
def liveBoundEnd (ch : ChanId) (w : Window) (s : State) : State :=
  let s := setAtLive ch w.hi s
  s.setChan ch { s.chan ch with pos := w.hi * 1024, state := (s.chan ch).heldState }

/-- A reverse overrun of a tail bound, whose lo is the tail (R66). -/
def tailBoundEnd (ch : ChanId) (w : Window) (s : State) : State :=
  let s := setAtTail ch w.lo s
  s.setChan ch { s.chan ch with pos := w.lo * 1024 }

/-- Q inside the window becomes P; a LIVE channel on a live bound sets AT_LIVE (R60, R65). -/
def settleInside (ch : ChanId) (w : Window) (q : Int) (s : State) : State :=
  let x := s.chan ch
  let s' := s.setChan ch { x with pos := q.toNat }
  if x.state = .live ∧ (boundClip s x.material .upper).isNone then setAtLive ch w.hi s' else s'

/-- Q is settled against the window (R60). -/
def settle (ch : ChanId) (w : Window) (q : Int) (s : State) : State :=
  match w.overrun q with
  | none => settleInside ch w q s
  | some e =>
    match boundClip s (s.chan ch).material e with
    | some c => clipBoundEnd ch w e q c.endMode s
    | none =>
      match e with
      | .upper => liveBoundEnd ch w s
      | .lower => tailBoundEnd ch w s

/-- AT_LIVE and AT_TAIL at the end of the bound stage (R67). -/
def Channel.checkFlags (x : Channel) (feed : Feed) : Channel :=
  { x with atLive := atLiveAfter x.atLive (x.pos / 1024) (feed.head.getD 0)
           atTail := atTailAfter x.atTail (x.pos / 1024) feed.tail }

/-! ## Selection, lookahead and lookups (R68 to R70) -/

/-- Stages 6 and 7, the derivation of a master's slaves, then the lookup list (R51, R68, R69, R70, R108); that the
derivation comes before the lookups is the model's choice (log entry 18). -/
def selectAndFetch (ch : ChanId) (w : Window) (s : State) : State :=
  let feed := feedOfChannel s ch
  let x := s.chan ch
  let sel := x.select feed w
  let list := sel.frames ++ lookahead s x w sel
  sendLookups ch feed list (derive ch (s.setChan ch { x with selection := some sel, damaged := false }))

/-- The step of a channel that is not IDLE and not SLAVE (R51). -/
def stepActive (ch : ChanId) (s : State) : State :=
  match (s.chan ch).material.bind (materialWindow s) with
  | none => windowLost ch s
  | some w =>
    let head := (s.feed (feedOfChannel s ch)).head.getD 0
    let r := rawStep s.curve (s.chan ch) head
    let s := settle ch w r.2 (s.setChan ch { r.1 with window := some w })
    match (s.chan ch).window with
    | none => s
    | some w' =>
      let x := s.chan ch
      selectAndFetch ch w' (s.setChan ch (x.checkFlags (s.feed (feedOfChannel s ch))))

/-- The step of a slave (R110). -/
def stepSlave (ch : ChanId) (s : State) : State :=
  let s := s.setChan ch { s.chan ch with jog := 0 }
  match (s.chan ch).window with
  | none => s
  | some w => selectAndFetch ch w s

/-! ## The tick (R51, R98, R102, R104, R146, R177) -/

/-- Presentation, then step (R51, R98, R104), as one event (R102): a report is taken before both or after both, so one
taken after marks the selection this step made, where R95 has the step clear its mark (log entry 40). -/
def presentAndStep (ch : ChanId) (s : State) : State :=
  match s.engaged with
  | .disengaged =>
    s.setChan ch { s.chan ch with lastRec := PresRecord.blank, outData := [], jog := 0 }
  | .engaged =>
    match (s.chan ch).state with
    | .idle => stepIdle ch (presentIdle ch s)
    | .slave => stepSlave ch (presentActive ch s)
    | _ => stepActive ch (presentActive ch s)

/-- The acceptance flags of the push lines are cleared (R177). -/
def Panel.clearAccepted (p : Panel) : Panel :=
  { p with markin := { p.markin with accepted := false }, markout := { p.markout with accepted := false },
           take := { p.take with accepted := false } }

/-- A tick of the bound channel clears the acceptance flags (R177). -/
def tickPanel (ch : ChanId) (s : State) : State :=
  if s.panel.bound = ch then { s with panel := s.panel.clearAccepted } else s

def State.setPhase (s : State) (ch : ChanId) (p : TickPhase) : State :=
  { s with cache := { s.cache with ticks := s.cache.ticks.set ch p } }

/-- An output tick at the channel. A count still owed for the tick before is taken first (log entry 5). -/
def outputTick (ch : ChanId) (s : State) : State :=
  let s := match s.cache.ticks.get ch with
    | .settled => s.setPhase ch .presented
    | .presented => countTick ch s
    | .counted => s.setPhase ch .settled
  tickPanel ch (presentAndStep ch s)

/-- The Frame Cache's count of a tick; a second count for one tick does not happen and has no effect (log entry 5). -/
def tickCounted (ch : ChanId) (s : State) : State :=
  match s.cache.ticks.get ch with
  | .settled => countTick ch (s.setPhase ch .counted)
  | .presented => countTick ch (s.setPhase ch .settled)
  | .counted => s

end Sys2Proof.Machine
end

