-- ==== Sys2Proof/Machine/Commands.lean ====
section
/-!
DEFINITION. The meaning of every row of spec/opcode_table.json, one definition each. A host command is its checked
frame reaching the input buffer (log entry 2).
-/

namespace Sys2Proof.Machine

/-- The answer of a meaning; every row of this part answers a next state. -/
abbrev Meaning := Host.Outcome State Fault Refusal

/-! ## Host commands -/

/-- SET_STORE (kind 1). -/
def execSetStore (tag : Byte) (body : List Byte) (s : State) : Meaning :=
  .next (arrive ⟨1#8, tag, body⟩ (runSetStore tag body) s)

/-- SET_FEED (kind 2). -/
def execSetFeed (tag : Byte) (body : List Byte) (s : State) : Meaning :=
  .next (arrive ⟨2#8, tag, body⟩ (runSetFeed tag body) s)

/-- SET_CHANNEL (kind 3). -/
def execSetChannel (tag : Byte) (body : List Byte) (s : State) : Meaning :=
  .next (arrive ⟨3#8, tag, body⟩ (runSetChannel tag body) s)

/-- SET_CURVE (kind 4). -/
def execSetCurve (tag : Byte) (body : List Byte) (s : State) : Meaning :=
  .next (arrive ⟨4#8, tag, body⟩ (runSetCurve tag body) s)

/-- SET_PANEL (kind 5). -/
def execSetPanel (tag : Byte) (body : List Byte) (s : State) : Meaning :=
  .next (arrive ⟨5#8, tag, body⟩ (runSetPanel tag body) s)

/-- SET_NOTICES (kind 6). -/
def execSetNotices (tag : Byte) (body : List Byte) (s : State) : Meaning :=
  .next (arrive ⟨6#8, tag, body⟩ (runSetNotices tag body) s)

/-- ENGAGE (kind 7). -/
def execEngage (tag : Byte) (body : List Byte) (s : State) : Meaning :=
  .next (arrive ⟨7#8, tag, body⟩ (runEngage tag body) s)

/-- DISENGAGE (kind 8). -/
def execDisengage (tag : Byte) (body : List Byte) (s : State) : Meaning :=
  .next (arrive ⟨8#8, tag, body⟩ (runDisengage tag body) s)

/-- RESTART_FEED (kind 9). -/
def execRestartFeed (tag : Byte) (body : List Byte) (s : State) : Meaning :=
  .next (arrive ⟨9#8, tag, body⟩ (runRestartFeed tag body) s)

/-- CUE_CLIP (kind 10). -/
def execCueClip (tag : Byte) (body : List Byte) (s : State) : Meaning :=
  .next (arrive ⟨10#8, tag, body⟩ (runCueClip tag body) s)

/-- CUE_FEED (kind 11). -/
def execCueFeed (tag : Byte) (body : List Byte) (s : State) : Meaning :=
  .next (arrive ⟨11#8, tag, body⟩ (runCueFeed tag body) s)

/-- PLAY (kind 12). -/
def execPlay (tag : Byte) (body : List Byte) (s : State) : Meaning :=
  .next (arrive ⟨12#8, tag, body⟩ (runPlay tag body) s)

/-- SHUTTLE (kind 13). -/
def execShuttle (tag : Byte) (body : List Byte) (s : State) : Meaning :=
  .next (arrive ⟨13#8, tag, body⟩ (runShuttle tag body) s)

/-- STILL (kind 14). -/
def execStill (tag : Byte) (body : List Byte) (s : State) : Meaning :=
  .next (arrive ⟨14#8, tag, body⟩ (runStill tag body) s)

/-- STEP (kind 15). -/
def execStepCount (tag : Byte) (body : List Byte) (s : State) : Meaning :=
  .next (arrive ⟨15#8, tag, body⟩ (runStepCount tag body) s)

/-- GO_LIVE (kind 16). -/
def execGoLive (tag : Byte) (body : List Byte) (s : State) : Meaning :=
  .next (arrive ⟨16#8, tag, body⟩ (runGoLive tag body) s)

/-- EJECT (kind 17). -/
def execEject (tag : Byte) (body : List Byte) (s : State) : Meaning :=
  .next (arrive ⟨17#8, tag, body⟩ (runEject tag body) s)

/-- TAKE_NEXT (kind 18). -/
def execTakeNext (tag : Byte) (body : List Byte) (s : State) : Meaning :=
  .next (arrive ⟨18#8, tag, body⟩ (runTakeNext tag body) s)

/-- GANG (kind 19). -/
def execGang (tag : Byte) (body : List Byte) (s : State) : Meaning :=
  .next (arrive ⟨19#8, tag, body⟩ (runGang tag body) s)

/-- UNGANG (kind 20). -/
def execUngang (tag : Byte) (body : List Byte) (s : State) : Meaning :=
  .next (arrive ⟨20#8, tag, body⟩ (runUngang tag body) s)

/-- MARK_IN (kind 21). -/
def execMarkIn (tag : Byte) (body : List Byte) (s : State) : Meaning :=
  .next (arrive ⟨21#8, tag, body⟩ (runMarkIn tag body) s)

/-- MARK_OUT (kind 22). -/
def execMarkOut (tag : Byte) (body : List Byte) (s : State) : Meaning :=
  .next (arrive ⟨22#8, tag, body⟩ (runMarkOut tag body) s)

/-- MAKE_CLIP (kind 23). -/
def execMakeClip (tag : Byte) (body : List Byte) (s : State) : Meaning :=
  .next (arrive ⟨23#8, tag, body⟩ (runMakeClip tag body) s)

/-- TRIM_CLIP (kind 24). -/
def execTrimClip (tag : Byte) (body : List Byte) (s : State) : Meaning :=
  .next (arrive ⟨24#8, tag, body⟩ (runTrimClip tag body) s)

/-- SET_CLIP (kind 25). -/
def execSetClip (tag : Byte) (body : List Byte) (s : State) : Meaning :=
  .next (arrive ⟨25#8, tag, body⟩ (runSetClip tag body) s)

/-- DELETE_CLIP (kind 26). -/
def execDeleteClip (tag : Byte) (body : List Byte) (s : State) : Meaning :=
  .next (arrive ⟨26#8, tag, body⟩ (runDeleteClip tag body) s)

/-- READ_CLIP (kind 27). -/
def execReadClip (tag : Byte) (body : List Byte) (s : State) : Meaning :=
  .next (arrive ⟨27#8, tag, body⟩ (runReadClip tag body) s)

/-- LIST_CLIPS (kind 28). -/
def execListClips (tag : Byte) (body : List Byte) (s : State) : Meaning :=
  .next (arrive ⟨28#8, tag, body⟩ (runListClips tag body) s)

/-- LIST_APPEND (kind 29). -/
def execListAppend (tag : Byte) (body : List Byte) (s : State) : Meaning :=
  .next (arrive ⟨29#8, tag, body⟩ (runListAppend tag body) s)

/-- LIST_INSERT (kind 30). -/
def execListInsert (tag : Byte) (body : List Byte) (s : State) : Meaning :=
  .next (arrive ⟨30#8, tag, body⟩ (runListInsert tag body) s)

/-- LIST_REMOVE (kind 31). -/
def execListRemove (tag : Byte) (body : List Byte) (s : State) : Meaning :=
  .next (arrive ⟨31#8, tag, body⟩ (runListRemove tag body) s)

/-- LIST_CLEAR (kind 32). -/
def execListClear (tag : Byte) (body : List Byte) (s : State) : Meaning :=
  .next (arrive ⟨32#8, tag, body⟩ (runListClear tag body) s)

/-- READ_LIST (kind 33). -/
def execReadList (tag : Byte) (body : List Byte) (s : State) : Meaning :=
  .next (arrive ⟨33#8, tag, body⟩ (runReadList tag body) s)

/-- READ_CHANNEL (kind 34). -/
def execReadChannel (tag : Byte) (body : List Byte) (s : State) : Meaning :=
  .next (arrive ⟨34#8, tag, body⟩ (runReadChannel tag body) s)

/-- READ_FEED (kind 35). -/
def execReadFeed (tag : Byte) (body : List Byte) (s : State) : Meaning :=
  .next (arrive ⟨35#8, tag, body⟩ (runReadFeed tag body) s)

/-- READ_NOTICES (kind 36). -/
def execReadNotices (tag : Byte) (body : List Byte) (s : State) : Meaning :=
  .next (arrive ⟨36#8, tag, body⟩ (runReadNotices tag body) s)

/-- ACK_NOTICE (kind 37). -/
def execAckNotice (tag : Byte) (body : List Byte) (s : State) : Meaning :=
  .next (arrive ⟨37#8, tag, body⟩ (runAckNotice tag body) s)

/-- READ_ERROR (kind 38). -/
def execReadError (tag : Byte) (body : List Byte) (s : State) : Meaning :=
  .next (arrive ⟨38#8, tag, body⟩ (runReadError tag body) s)

/-- CLEAR_ERROR (kind 39). -/
def execClearError (tag : Byte) (body : List Byte) (s : State) : Meaning :=
  .next (arrive ⟨39#8, tag, body⟩ (runClearError tag body) s)

/-- A frame of a kind that names no command (R192). -/
def execUnknownKind (kind tag : Byte) (body : List Byte) (s : State) : Meaning :=
  .next (arrive ⟨kind, tag, body⟩ (runUnknownKind kind tag) s)

/-! ## Events of the ports, the blocks, the panel and the link -/

/-- A frame-start mark (R11, R14). -/
def execFrameStartMark (feed : FeedId) (s : State) : Meaning := .next (frameStart feed s)

/-- A fragment arrives (R9). -/
def execFragmentArrival (feed : FeedId) (data : Fragment) (s : State) : Meaning := .next (fragment feed data s)

/-- A frame-end mark (R10). -/
def execFrameEndMark (feed : FeedId) (s : State) : Meaning := .next (closeFrame feed none s)

/-- One beat of the store port (R156). -/
def execBeat (result : StoreResult) (data : Fragment) (s : State) : Meaning := .next (beat result data s)

/-- One output tick: presentation, then step (R51, R89). -/
def execOutputTick (ch : ChanId) (s : State) : Meaning := .next (outputTick ch s)

/-- The Frame Cache counts an output tick (R146). -/
def execFetchTimeout (ch : ChanId) (s : State) : Meaning := .next (tickCounted ch s)

/-- The Frame Cache takes an overwrite notice (R147). -/
def execCacheOverwriteNotice (feed : FeedId) (s : State) : Meaning := .next (cacheNotice feed s)

/-- The Clip Table takes an overwrite notice (R43). -/
def execClipOverwriteNotice (feed : FeedId) (s : State) : Meaning := .next (clipNotice feed s)

/-- The Ingest Controller takes a damage report (R20). -/
def execDamageReport (feed : FeedId) (frame : Nat) (s : State) : Meaning := .next (damageArrives feed frame s)

/-- A channel takes a fill report (R94, R145). -/
def execFillReport (ch : ChanId) (feed : FeedId) (frame : Nat) (s : State) : Meaning := .next (reportArrives ch feed frame s)

/-- A change of JA, JB or both (R173). -/
def execJogLineChange (ja jb : Level) (s : State) : Meaning := .next (jogLines ja jb s)

/-- A rise of MARKIN (R177, R178). -/
def execMarkinEdge (s : State) : Meaning := .next (pushEdge .markin s)

/-- A rise of MARKOUT (R177, R178). -/
def execMarkoutEdge (s : State) : Meaning := .next (pushEdge .markout s)

/-- A rise of TAKE (R177, R178). -/
def execTakeEdge (s : State) : Meaning := .next (pushEdge .take s)

/-- A fall of a push line (R177). -/
def execPushLineFall (line : PushLine) (s : State) : Meaning := .next (pushFall line s)

/-- The release of RESET, after its assertion (R187). -/
def execHardwareReset (levels : PanelLevels) (s : State) : Meaning := .next (hardwareReset levels s)

/-- Bytes arrive on the control link (R189). -/
def execLinkFrameReceived (bytes : List Byte) (s : State) : Meaning := .next (receiveBytes bytes s)

/-- The record being sent has been sent whole (R193). -/
def execRecordSent (s : State) : Meaning := .next (recordSent s)

end Sys2Proof.Machine
end

