-- ==== Sys2Proof/Machine/Dispatch.lean ====
section
/-!
DEFINITION. Dispatch: one arm for each command, one direct call of its meaning.
-/

namespace Sys2Proof.Machine

def exec (i : Instr) (s : State) : Host.Outcome State Fault Refusal :=
  match i with
  | .setStore tag body => Sys2Proof.Machine.execSetStore tag body s
  | .setFeed tag body => Sys2Proof.Machine.execSetFeed tag body s
  | .setChannel tag body => Sys2Proof.Machine.execSetChannel tag body s
  | .setCurve tag body => Sys2Proof.Machine.execSetCurve tag body s
  | .setPanel tag body => Sys2Proof.Machine.execSetPanel tag body s
  | .setNotices tag body => Sys2Proof.Machine.execSetNotices tag body s
  | .engage tag body => Sys2Proof.Machine.execEngage tag body s
  | .disengage tag body => Sys2Proof.Machine.execDisengage tag body s
  | .restartFeed tag body => Sys2Proof.Machine.execRestartFeed tag body s
  | .cueClip tag body => Sys2Proof.Machine.execCueClip tag body s
  | .cueFeed tag body => Sys2Proof.Machine.execCueFeed tag body s
  | .play tag body => Sys2Proof.Machine.execPlay tag body s
  | .shuttle tag body => Sys2Proof.Machine.execShuttle tag body s
  | .still tag body => Sys2Proof.Machine.execStill tag body s
  | .stepCount tag body => Sys2Proof.Machine.execStepCount tag body s
  | .goLive tag body => Sys2Proof.Machine.execGoLive tag body s
  | .eject tag body => Sys2Proof.Machine.execEject tag body s
  | .takeNext tag body => Sys2Proof.Machine.execTakeNext tag body s
  | .gang tag body => Sys2Proof.Machine.execGang tag body s
  | .ungang tag body => Sys2Proof.Machine.execUngang tag body s
  | .markIn tag body => Sys2Proof.Machine.execMarkIn tag body s
  | .markOut tag body => Sys2Proof.Machine.execMarkOut tag body s
  | .makeClip tag body => Sys2Proof.Machine.execMakeClip tag body s
  | .trimClip tag body => Sys2Proof.Machine.execTrimClip tag body s
  | .setClip tag body => Sys2Proof.Machine.execSetClip tag body s
  | .deleteClip tag body => Sys2Proof.Machine.execDeleteClip tag body s
  | .readClip tag body => Sys2Proof.Machine.execReadClip tag body s
  | .listClips tag body => Sys2Proof.Machine.execListClips tag body s
  | .listAppend tag body => Sys2Proof.Machine.execListAppend tag body s
  | .listInsert tag body => Sys2Proof.Machine.execListInsert tag body s
  | .listRemove tag body => Sys2Proof.Machine.execListRemove tag body s
  | .listClear tag body => Sys2Proof.Machine.execListClear tag body s
  | .readList tag body => Sys2Proof.Machine.execReadList tag body s
  | .readChannel tag body => Sys2Proof.Machine.execReadChannel tag body s
  | .readFeed tag body => Sys2Proof.Machine.execReadFeed tag body s
  | .readNotices tag body => Sys2Proof.Machine.execReadNotices tag body s
  | .ackNotice tag body => Sys2Proof.Machine.execAckNotice tag body s
  | .readError tag body => Sys2Proof.Machine.execReadError tag body s
  | .clearError tag body => Sys2Proof.Machine.execClearError tag body s
  | .unknownKind kind tag body => Sys2Proof.Machine.execUnknownKind kind tag body s
  | .frameStartMark feed => Sys2Proof.Machine.execFrameStartMark feed s
  | .fragmentArrival feed data => Sys2Proof.Machine.execFragmentArrival feed data s
  | .frameEndMark feed => Sys2Proof.Machine.execFrameEndMark feed s
  | .beat result data => Sys2Proof.Machine.execBeat result data s
  | .outputTick ch => Sys2Proof.Machine.execOutputTick ch s
  | .fetchTimeout ch => Sys2Proof.Machine.execFetchTimeout ch s
  | .cacheOverwriteNotice feed => Sys2Proof.Machine.execCacheOverwriteNotice feed s
  | .clipOverwriteNotice feed => Sys2Proof.Machine.execClipOverwriteNotice feed s
  | .damageReport feed frame => Sys2Proof.Machine.execDamageReport feed frame s
  | .fillReport ch feed frame => Sys2Proof.Machine.execFillReport ch feed frame s
  | .jogLineChange ja jb => Sys2Proof.Machine.execJogLineChange ja jb s
  | .markinEdge => Sys2Proof.Machine.execMarkinEdge s
  | .markoutEdge => Sys2Proof.Machine.execMarkoutEdge s
  | .takeEdge => Sys2Proof.Machine.execTakeEdge s
  | .pushLineFall line => Sys2Proof.Machine.execPushLineFall line s
  | .hardwareReset levels => Sys2Proof.Machine.execHardwareReset levels s
  | .linkFrameReceived bytes => Sys2Proof.Machine.execLinkFrameReceived bytes s
  | .recordSent => Sys2Proof.Machine.execRecordSent s

end Sys2Proof.Machine
end

