-- ==== Sys2Proof/Safety.lean ====
section
/-!
DEFINITION. What a safe run is, and the bounds and invariants of the manual that the claims speak of, each over one
state. None of them is assumed by the model: `step` is defined for every state.
-/

namespace Sys2Proof.Machine

/-- A step is safe when it answers a next state: the manual gives the part no behaviour in which it stops. -/
def safeStep (s : State) : Prop := ∃ t, step s = .next t

/-- The decoder can take a command frame the moment it is complete: no frame waits and no reply is on its way
(R191). -/
abbrev State.ready (s : State) : Prop := s.link.inBuf = [] ∧ s.link.replySent = true

/-- A number in −32,768 to +32,768 (R49, R55). -/
abbrev inSpeedRange (x : Int) : Prop := -32768 ≤ x ∧ x ≤ 32768

/-- Every S and T_s lies in range (R49), and so does every source of a speed: the curve (R55), nominal speeds (R24) and
speed overrides (R118). -/
structure SpeedsBounded (s : State) : Prop where
  speed : ∀ ch, inSpeedRange (s.chan ch).speed
  target : ∀ ch, inSpeedRange (s.chan ch).target
  curve : ∀ x ∈ s.curve, inSpeedRange x
  nominal : ∀ r ∈ s.clips, inSpeedRange r.2.nominal
  override : ∀ ch, ∀ e ∈ s.lists.get ch, ∀ v, e.speed = some v → inSpeedRange v

/-- Every jog accumulator lies within −2048 to +2047 (R58). -/
abbrev JogBounded (s : State) : Prop := ∀ ch, -2048 ≤ (s.chan ch).jog ∧ (s.chan ch).jog ≤ 2047

/-- Each cue list holds at most 16 entries (R118). -/
abbrev ListsBounded (s : State) : Prop := ∀ ch, (s.lists.get ch).length ≤ 16

/-- The input buffer holds at most 4 frames (R190). -/
abbrev InputBounded (s : State) : Prop := s.link.inBuf.length ≤ 4

/-- While the part is ENGAGED the checks of ENGAGE hold of the layout as it stands (R180, R183). -/
abbrev LayoutHeld (s : State) : Prop := s.engaged = .engaged → layoutFault s = none

/-- A feed's configuration lies in the ranges of R1. -/
structure FeedConfig.InRange (c : FeedConfig) : Prop where
  beginAddr : c.beginAddr ≤ 4294967295
  endAddr : c.endAddr ≤ 4294967295
  depth : 64 ≤ c.depth ∧ c.depth ≤ 4194304
  stride : 1 ≤ c.stride ∧ c.stride ≤ 48
  guard : 2 ≤ c.guard ∧ c.guard ≤ 255
  warn : c.warn ≤ 65535

/-- Every feed's configuration lies in the ranges of R1. -/
def ConfigsInRange (s : State) : Prop := ∀ f, (s.feed f).cfg.InRange

/-- There are 54 notice cells, and every count is at most 255 (R194, R195). -/
abbrev CellsInRange (s : State) : Prop := s.cells.length = 54 ∧ ∀ c ∈ s.cells, c.count ≤ 255

/-- The windows of selected feeds share no fragment address (R180). -/
def WindowsDisjoint (s : State) : Prop :=
  ∀ f g : FeedId, f ≠ g → (s.feed f).cfg.selected = true → (s.feed g).cfg.selected = true →
    ∀ a, ¬ ((s.feed f).cfg.beginAddr ≤ a ∧ a ≤ (s.feed f).cfg.endAddr ∧
      (s.feed g).cfg.beginAddr ≤ a ∧ a ≤ (s.feed g).cfg.endAddr)

/-- No channel is master and slave of one gang, and no channel stands twice in one slave list (R105). -/
abbrev GangsApart (s : State) : Prop := ∀ m, (m :: (s.gangs.get m).map (·.ch)).Nodup

/-- No two cache slots that are not INVALID carry the same feed and frame number (R133). -/
abbrev TagsDistinct (s : State) : Prop :=
  ∀ a ∈ s.cache.slots, ∀ b ∈ s.cache.slots, a.2.feed = b.2.feed → a.2.frame = b.2.frame → a.1 = b.1

/-- The pins of one channel are at most 2 (R89, R149). -/
abbrev PinsBounded (s : State) : Prop := ∀ ch, (s.cache.pins.get ch).length ≤ 2

/-- A channel is in SLAVE exactly when a gang names it, a channel stands in one slave list at most and once, no master
is a slave, and a slave holds the feed of its gang entry and no cue wait (R72, R105, R106, R107, R111, R112). -/
structure GangsWhole (s : State) : Prop where
  once : (allChans.flatMap fun m => (s.gangs.get m).map (·.ch)).Nodup
  apart : ∀ m, s.gangs.get m ≠ [] → masterOf s m = none
  slave : ∀ ch, (s.chan ch).state = .slave ↔ (masterOf s ch).isSome = true
  onFeed : ∀ m, ∀ g ∈ s.gangs.get m, (s.chan g.ch).material = some (.feed g.feed) ∧ (s.chan g.ch).cueWait = none

/-- Every sparse table stands in its canonical form (log entry 24). -/
structure TablesSorted (s : State) : Prop where
  directory : ∀ f, SMap.wf (s.feed f).directory = true
  slots : SMap.wf s.cache.slots = true
  fills : SMap.wf s.cache.fills = true
  clips : SMap.wf s.clips = true
  markRefs : SMap.wf s.markRefs = true

/-- How many channels and list entries hold a clip (R47). -/
def State.holdings (s : State) (id : Nat) : Nat :=
  (allChans.countP fun ch => (s.chan ch).material == some (.clip id)) +
    (allChans.map fun ch => (s.lists.get ch).countP fun e => e.clip == id).sum

/-- Every clip's use count is the number of its holdings, and nothing holds a FREE record (R47). -/
structure UseCountsRight (s : State) : Prop where
  clips : SMap.wf s.clips = true
  count : ∀ id, s.holdings id = ((SMap.find s.clips id).map (·.useCount)).getD 0

/-! ## How the claims speak of closed frames, fills and lookups -/

/-- The part `done` of a pending list finishes with the buffer `b`, and `left` waits (R17): no fragment of a finishing
frame is buffered, and one of the first waiting frame is. -/
structure FinishSplit (l : List ClosedFrame) (b : List BufFragment) (done left : List ClosedFrame) : Prop where
  parts : l = done ++ left
  written : ∀ p ∈ done, ∀ g ∈ b, g.frame ≠ p.number
  waits : ∀ p rest, left = p :: rest → ∃ g ∈ b, g.frame = p.number

/-- A feed after the closed frames `done` finished in turn, with `left` still pending (R17). -/
def Feed.afterFinish (x : Feed) (done left : List ClosedFrame) : Feed :=
  { x with
    closing := left
    head := (match done.getLast? with | some p => some p.number | none => x.head)
    lastCause := (match done.getLast? with | some p => p.finalCause | none => x.lastCause)
    directory := done.foldl (fun m p => SMap.put m (p.number % x.cfg.depth) p.finished) x.directory }

/-- INGEST_DAMAGE of each frame of `done` that finished DAMAGED, in turn (R17). -/
def raiseFinished (f : FeedId) (done : List ClosedFrame) (s : State) : State :=
  done.foldl (fun acc p => raiseDamage f p.number p.finalCause acc) s

/-- Cache `d` is cache `c` after its fill `z`, in context `k` and slot `x`, aborted with a reason (R144, R145): the
context is free and later fills of the owner move up; the victim is restored at the least-recent end unless another
slot carries its tag, and else the slot is INVALID; every waiter is told. -/
structure Aborted (c d : Cache) (k : Nat) (z : Fill) (x : Slot) (why : Reason) : Prop where
  context : SMap.find d.fills k = none
  others : ∀ j, j ≠ k → SMap.find d.fills j = (SMap.find c.fills j).map fun y =>
    if y.owner = z.owner ∧ z.order < y.order then { y with order := y.order - 1 } else y
  slots : ∀ j, j ≠ z.slot → SMap.find d.slots j = SMap.find c.slots j
  emptied : (∀ v, x.victim = some v → ∃ r ∈ c.slots, r.1 ≠ z.slot ∧ r.2.feed = v.feed ∧ r.2.frame = v.frame) →
    SMap.find d.slots z.slot = none ∧ d.lru = c.lru
  restored : ∀ v, x.victim = some v →
    (∀ r ∈ c.slots, r.1 ≠ z.slot → ¬ (r.2.feed = v.feed ∧ r.2.frame = v.frame)) →
    SMap.find d.slots z.slot = some
      { state := .valid, feed := v.feed, frame := v.frame, count := v.count, data := v.data, context := none,
        victim := none } ∧
    d.lru = z.slot :: c.lru
  told : z.waiters.Nodup → ∀ w, d.reports.get w = c.reports.get w ++
    if w ∈ z.waiters then [⟨x.feed, x.frame, some why⟩] else []
  kept : d = { c with slots := d.slots, lru := d.lru, fills := d.fills, reports := d.reports }

/-- The state after the Frame Cache has answered a channel's lookups of some frames of a feed, in order (R94). -/
def lookedUp (ch : ChanId) (f : FeedId) (frames : List Nat) (s : State) : State :=
  frames.foldl (fun acc n => (lookup ch f n acc).1) s

/-- The frames of a preload from `e` in a direction: one apart, inside the window, at most `depth` (R79). -/
def preloadList (reverse : Bool) (w : Window) (e depth : Nat) : List Nat :=
  if reverse then (List.range (min depth (e + 1 - w.lo))).map (e - ·)
  else (List.range (min depth (w.hi + 1 - e))).map (e + ·)

/-- The fetch permit of a channel (R96). -/
abbrev mayFetch (x : Channel) : Prop :=
  x.state ≠ .idle ∧ (x.state = .slave ∨ x.opts.fetchMode = .or ∨ x.preload = true)

/-- The selection of a channel on a feed from the position `p` (R68). -/
def pickedAt (x : Channel) (feed : FeedId) (w : Window) (p : Nat) : Selection :=
  let f := pickFrame x.opts.blend w.hi p
  { feed := feed, frame := f.1, partner := f.2.1, weight := f.2.2, clip := materialId x.material }

/-- A lookup of the frame a selection names answers NOT_AVAILABLE with reason DAMAGED (R91). -/
abbrev namesDamaged (s : State) (ch : ChanId) (sel : Selection) : Prop :=
  (lookup ch sel.feed sel.frame s).2 = .notAvailable .damaged

/-! ## How the claims speak of gangs -/

/-- A slave list after the angle assignment of a clip (R111). -/
def assigned (gs : List GangSlave) (angles : List Angle) : List GangSlave :=
  gs.zipIdx.map fun p => match angles[p.2]? with
    | some a => ⟨p.1.ch, a.feed, a.offset⟩
    | none => p.1

/-- A slave on the feed of its gang entry; a change of its feed clears its damaged mark (R111). -/
def onAngle (g : GangSlave) (x : Channel) : Channel :=
  { x with material := some (.feed g.feed), damaged := x.damaged && decide (x.material = some (.feed g.feed)) }

/-- The slave window under a master window and the playable range of the slave's feed (R108). -/
def slaveSpan (w r : Window) (offset : Int) : Window := slaveWindow r ((w.lo : Int) + offset) ((w.hi : Int) + offset)

/-- The slave `x` that a derivation places in its window `sw` from its master `y` (R109). -/
def derivedSlave (x y : Channel) (sw : Window) (offset : Int) : Channel :=
  let p := placeSlave sw ((y.pos : Int) + offset * 1024)
  { x with window := some sw, pos := p.1, slaveClamped := p.2, speed := y.speed, target := y.target }

/-- The slave `x` that entered IDLE out of its gang (R87, R113). -/
def lostSlave (x : Channel) : Channel :=
  { x with
    state := .idle, material := none, window := none, speed := 0, target := 0, jog := 0, preload := false,
    atLive := false, atTail := false, cueWait := none, selection := none, damaged := false, slaveClamped := false
    lastRec := if x.opts.idlePicture = .black then ⟨none, none, false⟩ else x.lastRec }

/-- WINDOW_LOST reached a slave's cell with the tail and head of its feed (R113). -/
def tellsLoss (s t : State) (g : GangSlave) : Prop :=
  s.cells.length = 54 → (t.cell (24 + g.ch.val)).latch = true ∧
    (t.cell (24 + g.ch.val)).detail = some (.windowLost g.feed none (s.feed g.feed).tail (s.feed g.feed).head)

/-- From `s` to `t`, the slaves `gs` of master `m` in the window `w` were derived from the master as `t` has it, and
`after` acted on each that was placed (R108, R109, R113). -/
structure GangFollows (s t : State) (m : ChanId) (gs : List GangSlave) (w : Window)
    (after : GangSlave → Window → Channel → Channel) : Prop where
  record : t.gangs.get m = gs.filter fun g => (s.feed g.feed).range.isSome
  others : ∀ k, k ≠ m → t.gangs.get k = s.gangs.get k
  placed : ∀ g ∈ gs, ∀ r, (s.feed g.feed).range = some r →
    let sw := slaveSpan w r g.offset
    t.chan g.ch = after g sw (derivedSlave (s.chan g.ch) (t.chan m) sw g.offset)
  lost : ∀ g ∈ gs, (s.feed g.feed).range = none → t.chan g.ch = lostSlave (s.chan g.ch) ∧ tellsLoss s t g

/-- A slave placed at its master's cue or GO_LIVE: its selection, and the damaged mark by the answer to its lookup of
the selected frame, if `asks` names it (R107, R112). -/
def cuedSlave (s : State) (asks : Channel → Window → List Nat) (g : GangSlave) (sw : Window) (x : Channel) : Channel :=
  let y := { x with material := some (.feed g.feed) }
  let sel := pickedAt y g.feed sw x.pos
  { y with selection := some sel, damaged := decide (sel.frame ∈ asks x sw ∧ namesDamaged s g.ch sel) }

/-- The one lookup of a slave at its master's GO_LIVE: its selected frame (R112). -/
def slaveFrame (x : Channel) (sw : Window) : List Nat := [(pickFrame x.opts.blend sw.hi x.pos).1]

/-- The preload lookups of a slave, from its selected frame (R112). -/
def slavePreload (reverse : Bool) (x : Channel) (sw : Window) : List Nat :=
  preloadList reverse sw (pickFrame x.opts.blend sw.hi x.pos).1 x.opts.preloadDepth

/-- The slaves of a list whose feed has no playable range: a derivation takes their window (R108). -/
def windowless (s : State) (gs : List GangSlave) : List GangSlave := gs.filter fun g => (s.feed g.feed).range.isNone

/-- The cache `c` with the pins released of the slaves `gs`, who enter IDLE, under the idle picture BLACK (R87, R113). -/
def lostPins (s : State) (gs : List GangSlave) (c : Cache) : Cache :=
  gs.foldl (fun acc g => if (s.chan g.ch).opts.idlePicture = .black then acc.setPins g.ch [] else acc) c

/-- The state after the lookups of the slaves placed from master `y` in the window `w`, in list order, once the lost
ones have gone (R108, R112). -/
def slavesLookedUp (s : State) (gs : List GangSlave) (w : Window) (y : Channel) (asks : Channel → Window → List Nat)
    (t : State) : State :=
  gs.foldl (fun acc g =>
    match (s.feed g.feed).range with
    | none => acc
    | some r =>
      let sw := slaveSpan w r g.offset
      lookedUp g.ch g.feed (asks (derivedSlave (s.chan g.ch) y sw g.offset) sw) acc)
    { t with cache := lostPins s (windowless s gs) t.cache }

/-- A gang after an event that gives its master a position and then places, selects and looks up the slaves `gs`, the
master's own lookups having left `own` (R108, R109, R112, R113). -/
structure GangCued (s t : State) (m : ChanId) (gs : List GangSlave) (w : Window)
    (asks : Channel → Window → List Nat) (own : State) : Prop where
  slaves : GangFollows s t m gs w (cuedSlave s asks)
  lookups : t.cache = (slavesLookedUp s gs w (t.chan m) asks own).cache

/-! ## How the claims speak of a tick -/

/-- The state as a tick's presentation finds it: a count still owed at the Frame Cache is taken first (log entry
5). -/
def beforeTick (ch : ChanId) (s : State) : State :=
  match s.cache.ticks.get ch with
  | .settled => s.setPhase ch .presented
  | .presented => countTick ch s
  | .counted => s.setPhase ch .settled

/-- T_s after the target stage (R51, R56). -/
def tickTarget (curve : List Int) (x : Channel) : Int :=
  match x.state with
  | .shuttle => curveTarget curve x.lever
  | .jog => 0
  | .live => 1024
  | _ => x.target

/-- S after the ramp (R51, R57). -/
def tickSpeed (curve : List Int) (x : Channel) : Int :=
  match x.state with
  | .playing => rampSpeed x.opts.ramp x.speed (tickTarget curve x)
  | .shuttle => rampSpeed x.opts.ramp x.speed (tickTarget curve x)
  | .jog => 0
  | .live => 1024
  | _ => x.speed

/-- The raw step Q (R51, R59). -/
def tickStep (curve : List Int) (x : Channel) (head : Nat) : Int :=
  match x.state with
  | .playing => x.pos + tickSpeed curve x
  | .shuttle => x.pos + tickSpeed curve x
  | .jog => x.pos + x.jog * x.opts.jogStep
  | .live => (head : Int) * 1024
  | _ => x.pos

/-- The cache after stage 7 of a channel's tick: its lookups in the order of R70 while its fetch permit holds (R94,
R96). -/
def tickCache (ch : ChanId) (t : State) (w : Window) (c : State) : Cache :=
  match (t.chan ch).selection with
  | none => c.cache
  | some sel =>
    if mayFetch (t.chan ch) then
      (lookedUp ch sel.feed (sel.frame :: (sel.partner.toList ++ lookahead t (t.chan ch) w sel)) c).cache
    else c.cache

/-- The state after CLIP_EXPIRED, action SKIPPED, of each entry passed over, in list order (R125). -/
def raiseSkipped (ch : ChanId) (passed : List CueEntry) (s : State) : State :=
  passed.foldl (fun acc p => match SMap.find s.clips p.clip with
    | none => acc
    | some c => raise 0 (.clipExpired p.clip c.feed c.markIn (some (s.feed c.feed).tail) (some ch) true) acc) s

/-! ## How the claims speak of a command -/

/-- The answer to a command frame taken now: the state with the reply handed to the transmitter (R191). -/
def answers (kind tag : Byte) (t : State) (st : Status) (result : List Byte) : Host.Outcome State Fault Refusal :=
  .next { t with link := t.link.handReply (.reply tag kind st result) }

/-- OK, or CLAMPED when a value was clamped (R192). -/
def takenAs (clamped : Bool) : Status := if clamped then .clamped else .ok

/-- An optional unsigned field of a command body: its presence byte, then its bytes when it is present (R200). -/
def packU (w : Nat) : Option Nat → List Byte
  | none => [0#8]
  | some n => 1#8 :: leBytes w n

/-- An optional signed field of a command body (R200). -/
def packS (w : Nat) : Option Int → List Byte
  | none => [0#8]
  | some x => 1#8 :: leInt w x

/-- A signed number that `w` bytes of two's complement hold. -/
abbrev fitsS (w : Nat) (x : Int) : Prop := -(256 ^ w : Int) ≤ 2 * x ∧ 2 * x < 256 ^ w

/-- The byte that a received byte adds to a frame, if it adds one: F7 and F8 stand for B7 and B8 after an escape byte
(R189). -/
def addedByte (escape : Bool) (b : Byte) : Option Byte :=
  if escape then (if b = 0xF7#8 then some 0xB7#8 else if b = 0xF8#8 then some 0xB8#8 else none)
  else if b = 0xB7#8 ∨ b = 0xB8#8 then none else some b

/-- Whether a frame's body fits its kind (R192, R200, R201). -/
def bodyFits (f : LinkFrame) : Bool :=
  match f.kind.toNat with
  | 1 => (parseSetStore f.body).isSome
  | 2 => (parseSetFeed f.body).isSome
  | 3 => (parseSetChannel f.body).isSome
  | 4 => (parseSetCurve f.body).isSome
  | 5 => (parseSetPanel f.body).isSome
  | 6 => (parseSetNotices f.body).isSome
  | 7 => (parseNothing f.body).isSome
  | 8 => (parseNothing f.body).isSome
  | 9 => (parseByte f.body).isSome
  | 10 => (parseCueClip f.body).isSome
  | 11 => (parseCueFeed f.body).isSome
  | 12 => (parsePlay f.body).isSome
  | 13 => (parseChanWord f.body).isSome
  | 14 => (parseByte f.body).isSome
  | 15 => (parseChanWord f.body).isSome
  | 16 => (parseGoLive f.body).isSome
  | 17 => (parseByte f.body).isSome
  | 18 => (parseByte f.body).isSome
  | 19 => (parseGang f.body).isSome
  | 20 => (parseByte f.body).isSome
  | 21 => (parseByte f.body).isSome
  | 22 => (parseByte f.body).isSome
  | 23 => (parseMakeClip f.body).isSome
  | 24 => (parseTrimClip f.body).isSome
  | 25 => (parseSetClip f.body).isSome
  | 26 => (parseClipId f.body).isSome
  | 27 => (parseClipId f.body).isSome
  | 28 => (parseListClips f.body).isSome
  | 29 => (parseListAppend f.body).isSome
  | 30 => (parseListInsert f.body).isSome
  | 31 => (parseListRemove f.body).isSome
  | 32 => (parseByte f.body).isSome
  | 33 => (parseByte f.body).isSome
  | 34 => (parseByte f.body).isSome
  | 35 => (parseByte f.body).isSome
  | 36 => (parseByte f.body).isSome
  | 37 => (parseAckNotice f.body).isSome
  | 38 => (parseNothing f.body).isSome
  | 39 => (parseNothing f.body).isSome
  | _ => false

end Sys2Proof.Machine

namespace Sys2Proof

/-- The checked frame a host command stands for, with the kind numbers of R201; none for the events. -/
def Instr.frame? : Instr → Option Machine.LinkFrame
  | .setStore tag body => some ⟨1#8, tag, body⟩
  | .setFeed tag body => some ⟨2#8, tag, body⟩
  | .setChannel tag body => some ⟨3#8, tag, body⟩
  | .setCurve tag body => some ⟨4#8, tag, body⟩
  | .setPanel tag body => some ⟨5#8, tag, body⟩
  | .setNotices tag body => some ⟨6#8, tag, body⟩
  | .engage tag body => some ⟨7#8, tag, body⟩
  | .disengage tag body => some ⟨8#8, tag, body⟩
  | .restartFeed tag body => some ⟨9#8, tag, body⟩
  | .cueClip tag body => some ⟨10#8, tag, body⟩
  | .cueFeed tag body => some ⟨11#8, tag, body⟩
  | .play tag body => some ⟨12#8, tag, body⟩
  | .shuttle tag body => some ⟨13#8, tag, body⟩
  | .still tag body => some ⟨14#8, tag, body⟩
  | .stepCount tag body => some ⟨15#8, tag, body⟩
  | .goLive tag body => some ⟨16#8, tag, body⟩
  | .eject tag body => some ⟨17#8, tag, body⟩
  | .takeNext tag body => some ⟨18#8, tag, body⟩
  | .gang tag body => some ⟨19#8, tag, body⟩
  | .ungang tag body => some ⟨20#8, tag, body⟩
  | .markIn tag body => some ⟨21#8, tag, body⟩
  | .markOut tag body => some ⟨22#8, tag, body⟩
  | .makeClip tag body => some ⟨23#8, tag, body⟩
  | .trimClip tag body => some ⟨24#8, tag, body⟩
  | .setClip tag body => some ⟨25#8, tag, body⟩
  | .deleteClip tag body => some ⟨26#8, tag, body⟩
  | .readClip tag body => some ⟨27#8, tag, body⟩
  | .listClips tag body => some ⟨28#8, tag, body⟩
  | .listAppend tag body => some ⟨29#8, tag, body⟩
  | .listInsert tag body => some ⟨30#8, tag, body⟩
  | .listRemove tag body => some ⟨31#8, tag, body⟩
  | .listClear tag body => some ⟨32#8, tag, body⟩
  | .readList tag body => some ⟨33#8, tag, body⟩
  | .readChannel tag body => some ⟨34#8, tag, body⟩
  | .readFeed tag body => some ⟨35#8, tag, body⟩
  | .readNotices tag body => some ⟨36#8, tag, body⟩
  | .ackNotice tag body => some ⟨37#8, tag, body⟩
  | .readError tag body => some ⟨38#8, tag, body⟩
  | .clearError tag body => some ⟨39#8, tag, body⟩
  | .unknownKind kind tag body => some ⟨kind, tag, body⟩
  | _ => none

end Sys2Proof
end

