-- ==== Sys2Proof/WellFormed.lean ====
section
/-!
DEFINITION. Which commands can reach the part at all: a frame's body has at most 250 bytes (R188), an UNKNOWN_KIND
frame has a kind that names no command (R192, R201), and a frame number lies in its range (R8).
-/

namespace Sys2Proof

/-- The kinds 1 to 39 name commands (R201). -/
def kindIsKnown (kind : Byte) : Bool := 1 ≤ kind.toNat && kind.toNat ≤ 39

def bodyOk (body : List Byte) : Bool := body.length ≤ Config.bodyBytes

def Instr.wf : Instr → Bool
  | .setStore _ b => bodyOk b
  | .setFeed _ b => bodyOk b
  | .setChannel _ b => bodyOk b
  | .setCurve _ b => bodyOk b
  | .setPanel _ b => bodyOk b
  | .setNotices _ b => bodyOk b
  | .engage _ b => bodyOk b
  | .disengage _ b => bodyOk b
  | .restartFeed _ b => bodyOk b
  | .cueClip _ b => bodyOk b
  | .cueFeed _ b => bodyOk b
  | .play _ b => bodyOk b
  | .shuttle _ b => bodyOk b
  | .still _ b => bodyOk b
  | .stepCount _ b => bodyOk b
  | .goLive _ b => bodyOk b
  | .eject _ b => bodyOk b
  | .takeNext _ b => bodyOk b
  | .gang _ b => bodyOk b
  | .ungang _ b => bodyOk b
  | .markIn _ b => bodyOk b
  | .markOut _ b => bodyOk b
  | .makeClip _ b => bodyOk b
  | .trimClip _ b => bodyOk b
  | .setClip _ b => bodyOk b
  | .deleteClip _ b => bodyOk b
  | .readClip _ b => bodyOk b
  | .listClips _ b => bodyOk b
  | .listAppend _ b => bodyOk b
  | .listInsert _ b => bodyOk b
  | .listRemove _ b => bodyOk b
  | .listClear _ b => bodyOk b
  | .readList _ b => bodyOk b
  | .readChannel _ b => bodyOk b
  | .readFeed _ b => bodyOk b
  | .readNotices _ b => bodyOk b
  | .ackNotice _ b => bodyOk b
  | .readError _ b => bodyOk b
  | .clearError _ b => bodyOk b
  | .unknownKind k _ b => !kindIsKnown k && bodyOk b
  | .frameStartMark _ => true
  | .fragmentArrival _ _ => true
  | .frameEndMark _ => true
  | .beat _ _ => true
  | .outputTick _ => true
  | .fetchTimeout _ => true
  | .cacheOverwriteNotice _ => true
  | .clipOverwriteNotice _ => true
  | .damageReport _ n => n < Config.frameNumbers
  | .fillReport _ _ n => n < Config.frameNumbers
  | .jogLineChange _ _ => true
  | .markinEdge => true
  | .markoutEdge => true
  | .takeEdge => true
  | .pushLineFall _ => true
  | .hardwareReset _ => true
  | .linkFrameReceived _ => true
  | .recordSent => true

end Sys2Proof
end

