-- ==== Sys2Proof/Certificates/Slice0/Obligations.lean ====
section
/-!
DEFINITION. The statements of this model for the provers, one `def Obligations.<Name> : Prop` each, listed in
OBLIGATIONS.json. A command row is stated over an explicit command body; `answers k tag t st b` is the next state `t` with
the reply of kind `k`, tag `tag`, status `st` and result body `b` handed to the transmitter.
-/

section Claims

open Sys2Proof Sys2Proof.Machine

/-! ## The step -/

/-- A step takes the command at the front of the queue and runs it on the state with the queue's rest; on an empty
queue the part idles, the model's choice (log entry 3); and every command answers a next state. -/
def Obligations.StepRunsTheFrontCommand : Prop :=
  (∀ (c : Instr) (rest : List Instr) (s : State),
      step { s with pending := c :: rest } = exec c { s with pending := rest }) ∧
  (∀ s : State, s.pending = [] → step s = .next s) ∧
  (∀ (c : Instr) (s : State), ∃ t, exec c s = .next t)

/-- Hardware reset puts every block in its reset state and takes the panel's present levels as its last levels; no
fill, report or notice in flight survives it, and no count is owed at the Frame Cache, in the model's phase of a tick
(log entry 5). The three fields by which the model observes the ports are empty (log entry 31); the queue of waiting
events is the model's own and stays (log entry 9). -/
def Obligations.HardwareResetGivesResetValues : Prop :=
  ∀ (l : PanelLevels) (s : State), ∃ t, exec (.hardwareReset l) s = .next t ∧
    t.engaged = .disengaged ∧ t.storeSize = 4294967296 ∧ t.arbiter.mode = .deferred ∧ t.arbiter.holder = none ∧
    t.arbiter.idle = 0 ∧ t.arbiter.gapOwed = false ∧ t.arbiter.urgentPtr = 0 ∧ t.arbiter.gapPtr = 0 ∧
    t.arbiter.chanPtr = 0 ∧ (∀ ch, t.arbiter.deferrals.get ch = []) ∧
    (∀ f, t.feed f =
      { cfg := { beginAddr := 4294967295, endAddr := 0, depth := 64, stride := 48, guard := 16, warn := 0 },
        state := .off, nextFrame := 0, head := none, openFrame := none, closing := [], buffer := [], urgent := false,
        directory := [], lastCause := none, cacheNotices := [], clipNotices := [] }) ∧
    (∀ ch, t.chan ch =
      { state := .idle, material := none, pos := 0, speed := 0, target := 0, lever := 0, jog := 0, window := none,
        selection := none, damaged := false, cueWait := none, preload := false, atLive := false, atTail := false,
        slaveClamped := false, lastRec := ⟨none, none, false⟩, outData := [], idleSel := none,
        opts := { level := 8, burst := false, fairness := false, lookahead := 2, preloadDepth := 4, blend := false,
                  followLive := false, idlePicture := .black, idleFeed := 0, fetchMode := .or, ramp := 0,
                  jogStep := 1024 } }) ∧
    t.curve = [-32768, -16384, -8192, -4096, -2048, -1024, -512, -256, 0, 256, 512, 1024, 2048, 4096, 8192, 16384,
      32768] ∧
    t.clips = [] ∧ t.markRefs = [] ∧ t.defaultLen = 150 ∧ (∀ ch, t.lists.get ch = []) ∧ (∀ ch, t.gangs.get ch = []) ∧
    t.cache.slots = [] ∧ t.cache.lru = [] ∧ t.cache.fills = [] ∧ (∀ ch, t.cache.pins.get ch = []) ∧
    t.cache.errorLatch = none ∧ (∀ ch, t.cache.reports.get ch = []) ∧ t.cache.damageReports = [] ∧
    (∀ ch, t.cache.ticks.get ch = .settled) ∧ t.storePort = .idle ∧
    t.panel = { bound := 0, source := 0, decode := .x4, takeover := true, takeAction := .play, ja := l.ja, jb := l.jb,
                glitch := false, markin := ⟨l.markin, false⟩, markout := ⟨l.markout, false⟩, take := ⟨l.take, false⟩ } ∧
    t.cells = List.replicate 54 ⟨false, false, 0, none⟩ ∧ t.attn = false ∧
    t.link.rx = .hunt ∧ t.link.inBuf = [] ∧ t.link.outQueue = [] ∧ t.link.sending = none ∧ t.link.lastSent = none ∧
    t.pending = s.pending

/-! ## The control link -/

/-- A host command is its checked frame: it is offered to the input buffer, and the decoder takes what it may (log
entries 1 and 2). With no frame waiting and no reply on its way the command is taken at once; with a reply on its way
it waits; at a full buffer it is lost with LINK_ERROR cause OVERRUN. That the row passes by the receiver, so that a
frame under assembly keeps its bytes and no BROKEN is raised, is the model's choice too (log entry 2). -/
def Obligations.HostCommandIsItsCheckedFrame : Prop :=
  ∀ (c : Instr) (f : LinkFrame) (s : State), c.wf = true → c.frame? = some f →
    exec c s = .next (serviceDecoder (offer f s)) ∧
    (s.ready → exec c s = .next (runFrame f s)) ∧
    (s.link.replySent = false → s.link.inBuf.length < 4 →
      exec c s = .next { s with link := { s.link with inBuf := s.link.inBuf ++ [f] } }) ∧
    (s.link.replySent = false → 4 ≤ s.link.inBuf.length →
      exec c s = .next (raise 0 (.linkError .overrun f.kind f.tag) s))

/-- A body that does not fit its kind is refused with BAD_LENGTH, and a kind that names no command with UNKNOWN_KIND,
each with an empty result body and no other change. -/
def Obligations.BadFramesAreRefused : Prop :=
  (∀ (c : Instr) (f : LinkFrame) (s : State), c.wf = true → c.frame? = some f → kindIsKnown f.kind = true →
      bodyFits f = false → s.ready → exec c s = answers f.kind f.tag s .badLength []) ∧
  (∀ (kind tag : Byte) (body : List Byte) (s : State), kindIsKnown kind = false → s.ready →
      exec (.unknownKind kind tag body) s = answers kind tag s .unknownKind [])

/-- A frame in the form of the wire, received from HUNT, is offered whole: sync byte, escapes and CRC are read back
to the kind, tag and body they were made from. That the row carries raw bytes and that the decoder takes a waiting
frame in the same event are the model's choices (log entries 2 and 1). -/
def Obligations.WireFrameIsReceivedWhole : Prop :=
  ∀ (kind tag : Byte) (body : List Byte) (s : State), body.length ≤ 250 → s.link.rx = .hunt →
    exec (.linkFrameReceived (wireBytes kind tag body)) s = .next (serviceDecoder (offer ⟨kind, tag, body⟩ s))

/-- What the receiver does with one byte, in HUNT and in IN_FRAME, with every LINK_ERROR it raises. That the row
carries raw bytes and that the decoder takes a waiting frame in the same event are the model's choices (log entries 2
and 1). -/
def Obligations.ReceiverTakesEachByte : Prop :=
  ∀ (s : State) (b : Byte),
    (s.link.rx = .hunt → b ≠ 0xB7#8 → exec (.linkFrameReceived [b]) s = .next s) ∧
    (s.link.rx = .hunt → b = 0xB7#8 → exec (.linkFrameReceived [b]) s = .next (s.setRx (.inFrame [] false))) ∧
    (s.link.rx = .inFrame [] false → b = 0xB7#8 → exec (.linkFrameReceived [b]) s = .next s) ∧
    (∀ x bs, s.link.rx = .inFrame (x :: bs) false → b = 0xB7#8 → exec (.linkFrameReceived [b]) s =
      .next (raise 0 (.linkError .broken 0#8 0#8) (s.setRx (.inFrame [] false)))) ∧
    (∀ bs, s.link.rx = .inFrame bs false → b = 0xB8#8 → exec (.linkFrameReceived [b]) s =
      .next (s.setRx (.inFrame bs true))) ∧
    (∀ bs, s.link.rx = .inFrame bs true → b = 0xB7#8 → exec (.linkFrameReceived [b]) s =
      .next (raise 0 (.linkError .broken 0#8 0#8) (s.setRx (.inFrame [] false)))) ∧
    (∀ bs, s.link.rx = .inFrame bs true → b ≠ 0xB7#8 → b ≠ 0xF7#8 → b ≠ 0xF8#8 →
      exec (.linkFrameReceived [b]) s = .next (raise 0 (.linkError .escape 0#8 0#8) (s.setRx .hunt))) ∧
    (∀ bs e x, s.link.rx = .inFrame bs e → addedByte e b = some x →
      let held := bs ++ [x]
      let len := (held.headD 0#8).toNat
      (250 < len → exec (.linkFrameReceived [b]) s = .next (raise 0 (.linkError .length 0#8 0#8) (s.setRx .hunt))) ∧
      (len ≤ 250 → held.length < len + 5 → exec (.linkFrameReceived [b]) s = .next (s.setRx (.inFrame held false))) ∧
      (len ≤ 250 → held.length = len + 5 → held.drop (len + 3) ≠ leBytes 2 (crc16 (held.take (len + 3))).toNat →
        exec (.linkFrameReceived [b]) s = .next (raise 0 (.linkError .crc 0#8 0#8) (s.setRx .hunt))) ∧
      (∀ kind tag body, body.length ≤ 250 →
        held = framePayload kind tag body ++ leBytes 2 (crc16 (framePayload kind tag body)).toNat →
        exec (.linkFrameReceived [b]) s = .next (serviceDecoder (offer ⟨kind, tag, body⟩ (s.setRx .hunt)))))

/-- The end of a record sent: the next record of the queue begins, and the decoder takes the frame at the front of
the input buffer when no reply is left to send (the times are the model's choice, log entries 2 and 28). A reply
crosses the link as kind 64 with its command's tag, kind, status and result; a notice as kind 65 with tag 0, class,
unit, count and a detail of its class's length. -/
def Obligations.RecordSentBeginsTheNext : Prop :=
  (∀ s : State,
      (s.link.sending = none → exec .recordSent s = .next s) ∧
      (∀ r, s.link.sending = some r →
        let l := { s.link with sending := s.link.outQueue.head?, outQueue := s.link.outQueue.tail,
                               lastSent := some r.wire }
        (s.link.inBuf = [] ∨ l.replySent = false → exec .recordSent s = .next { s with link := l }) ∧
        (∀ f rest, s.link.inBuf = f :: rest → l.replySent = true →
          exec .recordSent s = .next (runFrame f { s with link := { l with inBuf := rest } })))) ∧
  ((∀ (tag kind : Byte) (st : Status) (body : List Byte),
      (TxRecord.reply tag kind st body).wire = wireBytes 64#8 tag (kind :: byteOf st.code :: body)) ∧
    (∀ (cls : NoticeClass) (u n : Nat) (d : Detail),
      (TxRecord.notice cls u n d).wire = wireBytes 65#8 0#8 (byteOf cls.number :: byteOf u :: byteOf n :: d.bytes)) ∧
    (∀ d : Detail, d.bytes.length = match d.cls with
      | .cueReady => 8 | .clipEnd => 7 | .clipTaken => 8 | .lateFrame => 7 | .atLive => 5 | .tailPush => 9
      | .windowLost => 17 | .fetchTimeout => 7 | .ingestDamage => 5 | .feedExhausted => 4 | .mark => 8
      | .markRefused => 3 | .clipExpired => 19 | .clipAtRisk => 14 | .storeError => 8 | .linkError => 3))

/-! ## The Notice Unit -/

/-- An event reaches its cell: latest detail, count up to 255, latch set; a record goes out when an enabled cell's
latch sets, and no other cell and no other block changes. A notice handed to the transmitter gives a waiting record
of its class and unit the new count and detail in its place, or else joins the end of the queue. -/
def Obligations.RaisedEventReachesItsCell : Prop :=
  (∀ (u : Nat) (d : Detail) (s : State),
      let i := cellIndex d.cls u
      let c := s.cell i
      let n := if c.count < 255 then c.count + 1 else 255
      i < s.cells.length → c.count ≤ 255 →
      let t := raise u d s
      t.cell i = { c with latch := true, count := n, detail := some d } ∧ (∀ j, j ≠ i → t.cell j = s.cell j) ∧
      t = { s with cells := t.cells, link := t.link } ∧
      (c.latch = true ∨ c.enable = false → t.link = s.link) ∧
      (c.latch = false → c.enable = true → t.link = s.link.handNotice d.cls u n d) ∧
      (c.enable = true → t.attn = true)) ∧
  (∀ (l : Link) (cls : NoticeClass) (u n : Nat) (d : Detail), l.sending ≠ none →
      ((∀ r ∈ l.outQueue, r.isNotice cls u = false) →
        l.handNotice cls u n d = { l with outQueue := l.outQueue ++ [.notice cls u n d] }) ∧
      (∀ before after n' d', (∀ r ∈ before, r.isNotice cls u = false) →
        l.outQueue = before ++ .notice cls u n' d' :: after →
        l.handNotice cls u n d = { l with outQueue := before ++ .notice cls u n d :: after }))

/-- SET_NOTICES writes the enables of the cells named and nothing else; a record goes out, in cell order, for every
latched cell that goes from off to on, and for no other; turning cells off sends nothing. ACK_NOTICE answers with
latch and count of every cell named, then clears latch, count and detail; enables and the other cells stay. That an
on or off byte above 1 is refused with BAD_ARGUMENT (log entry 25) and the count byte of ACK_NOTICE's result body
(log entry 12) are the model's choices. -/
def Obligations.NoticeCommandsWriteTheirCells : Prop :=
  (∀ (s : State) (tag cls unit : Byte), s.ready → s.cells.length = 54 →
      (namedCells? cls.toNat unit.toNat = none → ∀ on : Byte,
        exec (.setNotices tag [cls, unit, on]) s = answers 6#8 tag s .badArgument []) ∧
      (∀ on : Byte, 1 < on.toNat → exec (.setNotices tag [cls, unit, on]) s = answers 6#8 tag s .badArgument []) ∧
      (∀ ks (b : Bool), namedCells? cls.toNat unit.toNat = some ks →
        ∃ t, exec (.setNotices tag [cls, unit, boolByte b]) s =
            answers 6#8 tag t .ok (packBits 7 (t.cells.map (·.enable))) ∧
          (∀ k ∈ ks, t.cell (cellIndex k.1 k.2) = { s.cell (cellIndex k.1 k.2) with enable := b }) ∧
          (∀ i, (∀ k ∈ ks, i ≠ cellIndex k.1 k.2) → t.cell i = s.cell i) ∧
          t = { s with cells := t.cells, link := t.link } ∧
          (b = false → t.link = s.link) ∧
          t.link = ks.foldl (fun l k =>
            let c := s.cell (cellIndex k.1 k.2)
            match c.detail with
            | some d =>
              if b = true ∧ c.enable = false ∧ c.latch = true then l.handNotice k.1 k.2 c.count d else l
            | none => l) s.link ∧
          (∀ k d, ks = [k] → b = true → (s.cell (cellIndex k.1 k.2)).enable = false →
            (s.cell (cellIndex k.1 k.2)).latch = true → (s.cell (cellIndex k.1 k.2)).detail = some d →
            t.link = s.link.handNotice k.1 k.2 (s.cell (cellIndex k.1 k.2)).count d))) ∧
  (∀ (s : State) (tag cls unit : Byte), s.ready → s.cells.length = 54 →
      (namedCells? cls.toNat unit.toNat = none →
        exec (.ackNotice tag [cls, unit]) s = answers 37#8 tag s .badArgument []) ∧
      (∀ ks, namedCells? cls.toNat unit.toNat = some ks →
        ∃ t, exec (.ackNotice tag [cls, unit]) s =
            answers 37#8 tag t .ok (leBytes 1 ks.length ++ ks.flatMap fun k =>
              [boolByte (s.cell (cellIndex k.1 k.2)).latch] ++ leBytes 1 (s.cell (cellIndex k.1 k.2)).count) ∧
          (∀ k ∈ ks, t.cell (cellIndex k.1 k.2) =
            { s.cell (cellIndex k.1 k.2) with latch := false, count := 0, detail := none }) ∧
          (∀ i, (∀ k ∈ ks, i ≠ cellIndex k.1 k.2) → t.cell i = s.cell i) ∧
          t = { s with cells := t.cells }))

/-! ## Engagement and configuration -/

/-- SET_STORE: the mode is checked, then the engagement state; the fields carried are written, the size clamped to 1
to 2^32; the reply carries size, mode and engagement state. The widths 8, 1 and 1 of the reply's fields are the
model's choice (log entry 13). -/
def Obligations.SetStoreWritesSizeAndMode : Prop :=
  ∀ (s : State) (tag : Byte) (size mode : Option Nat), s.ready → (∀ v, size = some v → v < 2 ^ 64) →
    (∀ v, mode = some v → v < 256) →
    let body := packU 8 size ++ packU 1 mode
    let n := match size with | none => s.storeSize | some v => max 1 (min v 4294967296)
    let m := match mode with | none => s.arbiter.mode | some v => if v = 1 then .claimed else .deferred
    ((∃ v, mode = some v ∧ 1 < v) → exec (.setStore tag body) s = answers 1#8 tag s .badArgument []) ∧
    ((∀ v, mode = some v → v ≤ 1) → s.engaged = .engaged →
      exec (.setStore tag body) s = answers 1#8 tag s .engaged []) ∧
    ((∀ v, mode = some v → v ≤ 1) → s.engaged = .disengaged → exec (.setStore tag body) s =
      answers 1#8 tag { s with storeSize := n, arbiter := { s.arbiter with mode := m } }
        (takenAs (match size with | none => false | some v => v < 1 || 4294967296 < v))
        (leBytes 8 n ++ leBytes 1 m.code ++ leBytes 1 0))

/-- SET_FEED: feed, engagement state, then geometry are checked, in that order; the fields carried are written with
the clamps of R1; a changed guard hands the new tail to the Clip Table; the reply carries the record as it stands,
its widths the model's choice (log entry 13). -/
def Obligations.SetFeedWritesTheConfiguration : Prop :=
  ∀ (s : State) (tag n : Byte) (x : FeedFields), s.ready →
    (∀ v, x.beginAddr = some v → v < 2 ^ 32) → (∀ v, x.endAddr = some v → v < 2 ^ 32) →
    (∀ v, x.depth = some v → v < 2 ^ 32) → (∀ v, x.stride = some v → v < 256) →
    (∀ v, x.guard = some v → v < 256) → (∀ v, x.warn = some v → v < 2 ^ 32) →
    let body := n :: (packU 4 x.beginAddr ++ packU 4 x.endAddr ++ packU 4 x.depth ++ packU 1 x.stride ++
      packU 1 x.guard ++ packU 4 x.warn)
    (8 ≤ n.toNat → exec (.setFeed tag body) s = answers 2#8 tag s .badArgument []) ∧
    (∀ f : FeedId, n.toNat = f.val →
      let old := (s.feed f).cfg
      let moved := (∃ v, x.beginAddr = some v ∧ v ≠ old.beginAddr) ∨ (∃ v, x.depth = some v ∧ v ≠ old.depth) ∨
        (∃ v, x.stride = some v ∧ v ≠ old.stride)
      let new : FeedConfig :=
        { beginAddr := x.beginAddr.getD old.beginAddr
          endAddr := x.endAddr.getD old.endAddr
          depth := match x.depth with | none => old.depth | some v => max 64 (min v 4194304)
          stride := match x.stride with | none => old.stride | some v => max 1 (min v 48)
          guard := match x.guard with | none => old.guard | some v => max 2 (min v 255)
          warn := match x.warn with | none => old.warn | some v => min v 65535 }
      let clamped := (∃ v, x.depth = some v ∧ (v < 64 ∨ 4194304 < v)) ∨ (∃ v, x.stride = some v ∧ (v < 1 ∨ 48 < v)) ∨
        (∃ v, x.guard = some v ∧ v < 2) ∨ (∃ v, x.warn = some v ∧ 65535 < v)
      let t := s.setFeed f { s.feed f with cfg := new }
      let t' := if new.guard = old.guard then t else takeTail f (t.feed f).tail t
      let result := leBytes 4 new.beginAddr ++ leBytes 4 new.endAddr ++ leBytes 4 new.depth ++ leBytes 1 new.stride ++
        leBytes 1 new.guard ++ leBytes 4 new.warn ++ [boolByte (decide (new.beginAddr ≤ new.endAddr))]
      (s.engaged = .engaged → exec (.setFeed tag body) s = answers 2#8 tag s .engaged []) ∧
      (s.engaged = .disengaged → moved → (s.feed f).directory ≠ [] → exec (.setFeed tag body) s =
        answers 2#8 tag s .badConfig [byteOf f.val, 0#8, 0#8, 0#8]) ∧
      (s.engaged = .disengaged → ¬ (moved ∧ (s.feed f).directory ≠ []) → clamped →
        exec (.setFeed tag body) s = answers 2#8 tag t' .clamped result) ∧
      (s.engaged = .disengaged → ¬ (moved ∧ (s.feed f).directory ≠ []) → ¬ clamped →
        exec (.setFeed tag body) s = answers 2#8 tag t' .ok result))

/-- A tail handed to the Clip Table expires every OPEN or CLOSED clip of the feed whose mark-in lies below it, and no
other; a clip that stays is WARNED when its watch is on, the warn distance is above 0 and the tail plus it reaches
the mark-in; marks, labels and use counts stay. Each clip that expires raises CLIP_EXPIRED, and then each clip newly
warned CLIP_AT_RISK; the id order of the warnings is the model's choice (log entry 33). The Clip Table takes the
oldest overwrite notice with the tail it carries; with none on its way nothing happens (log entry 4). -/
def Obligations.NewTailExpiresAndWarnsClips : Prop :=
  (∀ (s : State) (f : FeedId) (tail id : Nat) (c : Clip), SMap.wf s.clips = true → SMap.find s.clips id = some c →
      let w := (s.feed f).cfg.warn
      let t := takeTail f tail s
      let hit := (c.state = .opened ∨ c.state = .closed) ∧ c.feed = f
      (hit → c.markIn < tail → SMap.find t.clips id = some { c with state := .expired }) ∧
      (hit → ¬ c.markIn < tail → c.watch = true → 0 < w → c.markIn ≤ tail + w →
        SMap.find t.clips id = some { c with warned := true }) ∧
      (¬ hit ∨ (¬ c.markIn < tail ∧ (c.watch = false ∨ w = 0 ∨ tail + w < c.markIn)) →
        SMap.find t.clips id = some c) ∧
      (hit → c.markIn < tail → c.state = .opened → ∀ r ∈ t.markRefs, r.2 ≠ id)) ∧
  (∀ (s : State) (f : FeedId) (tail : Nat), SMap.wf s.clips = true →
      let w := (s.feed f).cfg.warn
      let alive := fun c : Clip => (c.state = .opened ∨ c.state = .closed) ∧ c.feed = f
      let gone := s.clips.filter fun r => decide (alive r.2 ∧ r.2.markIn < tail)
      let risk := s.clips.filter fun r => decide (alive r.2 ∧ tail ≤ r.2.markIn ∧ r.2.watch = true ∧ 0 < w ∧
        r.2.warned = false ∧ r.2.markIn ≤ tail + w)
      let told := (gone.map fun r => Detail.clipExpired r.1 f r.2.markIn (some tail) none false) ++
        risk.map fun r => Detail.clipAtRisk r.1 r.2.markIn tail
      let u := told.foldl (fun acc d => raise 0 d acc) s
      let t := takeTail f tail s
      t = { s with clips := t.clips, markRefs := t.markRefs, cells := u.cells, link := u.link }) ∧
  (∀ (s : State) (f : FeedId),
      ((s.feed f).clipNotices = [] → exec (.clipOverwriteNotice f) s = .next s) ∧
      (∀ n rest, (s.feed f).clipNotices = n :: rest →
        exec (.clipOverwriteNotice f) s =
          .next (takeTail f n.tail (s.setFeed f { s.feed f with clipNotices := rest }))))

/-- ENGAGE's checks pass exactly when every selected window lies within the store, holds its ring, keeps its guard at
a quarter of the depth or less, and shares no fragment address with another selected window. ENGAGE is refused with
ENGAGED while ENGAGED, and with BAD_CONFIG, the feed, the check and the other feed at the first failing check; where
the selected feeds are checked first, from FEED0 up, each by WINDOW, SIZE and GUARD in that order, and then the
pairs, by the higher-numbered feed and then the lower-numbered one, from FEED0 up; else every selected feed becomes
WAITING, or EXHAUSTED with its numbers used up, and nothing else changes. The form of the result body, without a
count, is the model's choice (log entry 12). -/
def Obligations.EngageChecksAndStartsTheFeeds : Prop :=
  (∀ s : State, (∀ f, (s.feed f).cfg.selected = true ↔ (s.feed f).cfg.beginAddr ≤ (s.feed f).cfg.endAddr) ∧
      (layoutFault s = none ↔
        (∀ f, (s.feed f).cfg.selected = true →
          (s.feed f).cfg.endAddr < s.storeSize ∧
          (s.feed f).cfg.depth * (s.feed f).cfg.stride ≤ (s.feed f).cfg.endAddr - (s.feed f).cfg.beginAddr + 1 ∧
          4 * (s.feed f).cfg.guard ≤ (s.feed f).cfg.depth) ∧
        WindowsDisjoint s)) ∧
  (∀ (s : State) (f : FeedId) (check : ConfigCheck) (other : Option FeedId),
      let c := fun g : FeedId => (s.feed g).cfg
      let selected := fun g => (c g).beginAddr ≤ (c g).endAddr
      let offStore := fun g => s.storeSize ≤ (c g).endAddr
      let tooSmall := fun g => (c g).endAddr - (c g).beginAddr + 1 < (c g).depth * (c g).stride
      let overGuard := fun g => (c g).depth < 4 * (c g).guard
      let sound := fun g => ¬ offStore g ∧ ¬ tooSmall g ∧ ¬ overGuard g
      let meet := fun a b => selected a ∧ selected b ∧ (c a).beginAddr ≤ (c b).endAddr ∧ (c b).beginAddr ≤ (c a).endAddr
      (layoutFault s = some (f, check, other) ↔
        (other = none ∧ selected f ∧ (∀ g, g < f → selected g → sound g) ∧
          ((offStore f ∧ check = .window) ∨ (¬ offStore f ∧ tooSmall f ∧ check = .size) ∨
            (¬ offStore f ∧ ¬ tooSmall f ∧ overGuard f ∧ check = .guard))) ∨
        (check = .overlap ∧ (∀ g, selected g → sound g) ∧ ∃ g, other = some g ∧ g < f ∧ meet f g ∧
          ∀ a b, b < a → meet a b → f < a ∨ (f = a ∧ g ≤ b)))) ∧
  (∀ (s : State) (tag : Byte), s.ready →
      (s.engaged = .engaged → exec (.engage tag []) s = answers 7#8 tag s .engaged []) ∧
      (∀ f check other, s.engaged = .disengaged → layoutFault s = some (f, check, other) →
        exec (.engage tag []) s = answers 7#8 tag s .badConfig (leBytes 1 f.val ++ leBytes 1 check.code ++
          (match other with | none => [0#8, 0#8] | some g => [1#8, byteOf g.val]))) ∧
      (s.engaged = .disengaged → layoutFault s = none →
        ∃ t, exec (.engage tag []) s = answers 7#8 tag t .ok
            (1#8 :: [0, 1, 2, 3, 4, 5, 6, 7].map fun f : FeedId => byteOf (t.feed f).state.code) ∧
          t = { s with engaged := .engaged, feeds := t.feeds } ∧
          ∀ f, t.feed f = { s.feed f with
            state := if (s.feed f).cfg.beginAddr ≤ (s.feed f).cfg.endAddr then
                (if (s.feed f).nextFrame = 4294967296 then .exhausted else .waiting)
              else (s.feed f).state }))

/-- DISENGAGE while DISENGAGED replies OK and changes nothing; while ENGAGED it stops every block as the table of
R185 gives and keeps configurations, frame numbers, clips but for their use counts, lists, panel, options and the
store error latch. At a feed the open frame closes with TRUNCATED marked, the buffer is emptied, every frame still
pending has TRUNCATED marked, and all of them finish in order: the directory takes their entries and keeps the
others, the head moves to the last of them, and INGEST_DAMAGE keeps the last that finished DAMAGED. At a channel the
damaged mark goes with the selection, which R104 does not name (log entry 21), and the model's observation of the
output port is empty (log entry 31): the model's choices. -/
def Obligations.DisengageStopsEveryBlock : Prop :=
  ∀ (s : State) (tag : Byte), s.ready →
    (s.engaged = .disengaged → exec (.disengage tag []) s = answers 8#8 tag s .ok [0#8]) ∧
    (s.engaged = .engaged →
      ∃ t, exec (.disengage tag []) s = answers 8#8 tag t .ok [0#8] ∧ t.engaged = .disengaged ∧
        (∀ m, t.gangs.get m = []) ∧
        (∀ ch, t.chan ch = { Channel.reset with pos := (s.chan ch).pos, opts := (s.chan ch).opts }) ∧
        (∀ f, (t.feed f).state = .off ∧ (t.feed f).openFrame = none ∧ (t.feed f).closing = [] ∧
          (t.feed f).buffer = [] ∧ (t.feed f).urgent = false ∧ (t.feed f).cfg = (s.feed f).cfg ∧
          (t.feed f).nextFrame = (s.feed f).nextFrame) ∧
        t.cache.slots = [] ∧ t.cache.lru = [] ∧ t.cache.fills = [] ∧ (∀ ch, t.cache.pins.get ch = []) ∧
        t.cache.errorLatch = s.cache.errorLatch ∧ t.arbiter = Arbiter.reset ∧
        t.storeSize = s.storeSize ∧ t.curve = s.curve ∧ t.lists = s.lists ∧ t.panel = s.panel ∧
        t.markRefs = s.markRefs ∧ t.defaultLen = s.defaultLen ∧
        (∀ id c, SMap.find s.clips id = some c → ∃ u, SMap.find t.clips id = some { c with useCount := u }) ∧
        (∀ f, let x := s.feed f
          let cut := fun p : ClosedFrame => { p with cause := some (p.cause.getD .truncated) }
          let ends := fun all : List ClosedFrame =>
            t.feed f = { x.afterFinish all [] with openFrame := none, buffer := [], state := .off, urgent := false } ∧
            (s.cells.length = 54 →
              match (all.filter fun p => p.finalCause.isSome).getLast? with
              | none => t.cell (32 + f.val) = s.cell (32 + f.val)
              | some p => (t.cell (32 + f.val)).latch = true ∧
                (t.cell (32 + f.val)).detail = p.finalCause.map (.ingestDamage p.number))
          (x.openFrame = none → ends (x.closing.map cut)) ∧
          (∀ o done left, x.openFrame = some o →
            let last : ClosedFrame := { number := o.number, count := min o.arrivals x.cfg.stride,
                                        crc := crc32Final o.crc, cause := some (o.cause.getD .truncated) }
            FinishSplit (x.closing ++ [last]) x.buffer done left → ends (done ++ left.map cut))))

/-- RESTART_FEED: a feed out of range is refused, then refused while ENGAGED; else the directory is empty, N is 0,
the head is absent, the feed is OFF, its configuration is kept, and every OPEN or CLOSED clip of the feed expires.
Each of them raises CLIP_EXPIRED, an OPEN one leaves its pending reference, and no at-risk check is made; the order
of these notices (log entry 33) and the mark-in in their details (log entry 30) are the model's choices. So is that
the overwrite notices of the feed and the damage reports on their way stay, to be taken later (log entry 39). -/
def Obligations.RestartFeedEmptiesTheDirectory : Prop :=
  ∀ (s : State) (tag n : Byte), s.ready →
    (8 ≤ n.toNat → exec (.restartFeed tag [n]) s = answers 9#8 tag s .badArgument []) ∧
    (∀ f : FeedId, n.toNat = f.val →
      (s.engaged = .engaged → exec (.restartFeed tag [n]) s = answers 9#8 tag s .engaged []) ∧
      (s.engaged = .disengaged →
        ∃ t, exec (.restartFeed tag [n]) s = answers 9#8 tag t .ok [] ∧
          t.feed f = { s.feed f with directory := [], nextFrame := 0, head := none, state := .off,
                                     lastCause := none } ∧
          (∀ g, g ≠ f → t.feed g = s.feed g) ∧
          (SMap.wf s.clips = true → ∀ id c, SMap.find s.clips id = some c → SMap.find t.clips id =
            some (if (c.state = .opened ∨ c.state = .closed) ∧ c.feed = f then { c with state := .expired } else c)) ∧
          (SMap.wf s.clips = true → ∀ r, r ∈ t.markRefs ↔ r ∈ s.markRefs ∧
            ∀ c, SMap.find s.clips r.2 = some c → ¬ (c.state = .opened ∧ c.feed = f)) ∧
          (let gone := s.clips.filter fun r => decide ((r.2.state = .opened ∨ r.2.state = .closed) ∧ r.2.feed = f)
           let u := gone.foldl (fun acc r => raise 0 (.clipExpired r.1 f r.2.markIn none none false) acc) s
           t = { s with feeds := t.feeds, clips := t.clips, markRefs := t.markRefs, cells := u.cells,
                        link := u.link })))

/-- SET_CHANNEL: a channel out of range is refused, then a slave, then an enumerated value outside its list; else
each option carried is written, with its clamp, and the others keep their values, in every other state and in both
engagement states. That an on or off byte above 1 is refused with BAD_ARGUMENT is the model's choice (log entry 25). -/
def Obligations.SetChannelWritesTheOptions : Prop :=
  ∀ (s : State) (tag n : Byte) (level burst fairness look depth blend follow picture idle fetch : Option Byte)
    (ramp jog : Option Nat), s.ready → (∀ v, ramp = some v → v < 2 ^ 32) → (∀ v, jog = some v → v < 2 ^ 32) →
    let one := fun v : Option Byte => packU 1 (v.map (·.toNat))
    let body := n :: (one level ++ one burst ++ one fairness ++ one look ++ one depth ++ one blend ++ one follow ++
      one picture ++ one idle ++ one fetch ++ packU 4 ramp ++ packU 4 jog)
    let bad := fun (v : Option Byte) (k : Nat) => ∃ b, v = some b ∧ k < b.toNat
    let outside := bad burst 1 ∨ bad fairness 1 ∨ bad blend 1 ∨ bad follow 1 ∨ bad picture 2 ∨ bad idle 7 ∨ bad fetch 1
    let clamped := bad level 15 ∨ bad look 6 ∨ (∃ b, depth = some b ∧ (b.toNat < 1 ∨ 8 < b.toNat)) ∨
      (∃ v, ramp = some v ∧ 65535 < v) ∨ (∃ v, jog = some v ∧ (v < 1 ∨ 65535 < v))
    let flag := fun (v : Option Byte) (old : Bool) => match v with | none => old | some b => b.toNat == 1
    (4 ≤ n.toNat → exec (.setChannel tag body) s = answers 3#8 tag s .badArgument []) ∧
    (∀ ch : ChanId, n.toNat = ch.val →
      let o := (s.chan ch).opts
      let t := s.setChan ch { s.chan ch with opts :=
        { level := match level with | none => o.level | some b => min b.toNat 15
          burst := flag burst o.burst
          fairness := flag fairness o.fairness
          lookahead := match look with | none => o.lookahead | some b => min b.toNat 6
          preloadDepth := match depth with | none => o.preloadDepth | some b => max 1 (min b.toNat 8)
          blend := flag blend o.blend
          followLive := flag follow o.followLive
          idlePicture := match picture with
            | none => o.idlePicture
            | some b => if b.toNat = 0 then .hold else if b.toNat = 1 then .black else .live
          idleFeed := match idle with | none => o.idleFeed | some b => Fin.ofNat 8 b.toNat
          fetchMode := match fetch with | none => o.fetchMode | some b => if b.toNat = 1 then .and else .or
          ramp := match ramp with | none => o.ramp | some v => min v 65535
          jogStep := match jog with | none => o.jogStep | some v => max 1 (min v 65535) } }
      ((s.chan ch).state = .slave → exec (.setChannel tag body) s = answers 3#8 tag s .ganged []) ∧
      ((s.chan ch).state ≠ .slave → outside → exec (.setChannel tag body) s = answers 3#8 tag s .badArgument []) ∧
      ((s.chan ch).state ≠ .slave → ¬ outside → clamped →
        exec (.setChannel tag body) s = answers 3#8 tag t .clamped []) ∧
      ((s.chan ch).state ≠ .slave → ¬ outside → ¬ clamped →
        exec (.setChannel tag body) s = answers 3#8 tag t .ok []))

/-- SET_CURVE writes all 17 points together, each clamped, and nothing else; a body of another length is refused. -/
def Obligations.SetCurveWritesAllPoints : Prop :=
  ∀ (s : State) (tag : Byte) (pts : List Int), s.ready → (∀ x ∈ pts, fitsS 4 x) →
    (pts.length = 17 → exec (.setCurve tag (pts.flatMap (leInt 4))) s =
      answers 4#8 tag { s with curve := pts.map fun x => max (-32768) (min x 32768) }
        (takenAs (pts.any fun x => decide (x < -32768 ∨ 32768 < x))) []) ∧
    (pts.length ≠ 17 → exec (.setCurve tag (pts.flatMap (leInt 4))) s = answers 4#8 tag s .badLength [])

/-- SET_PANEL: a value outside its set refuses the whole command; else the fields carried are written, the default
clip length clamped, and the reply carries the whole binding and the length, its widths the model's choice (log entry
13). That an on or off byte above 1 is such a value is the model's choice too (log entry 25). -/
def Obligations.SetPanelWritesTheBinding : Prop :=
  ∀ (s : State) (tag : Byte) (bound source decode takeover action : Option Byte) (len : Option Nat), s.ready →
    (∀ v, len = some v → v < 2 ^ 32) →
    let one := fun v : Option Byte => packU 1 (v.map (·.toNat))
    let body := one bound ++ one source ++ one decode ++ one takeover ++ one action ++ packU 4 len
    let bad := fun (v : Option Byte) (k : Nat) => ∃ b, v = some b ∧ k < b.toNat
    let outside := bad bound 3 ∨ bad source 11 ∨ bad decode 3 ∨ bad takeover 1 ∨ bad action 1
    let p := s.panel
    let q : Panel := { p with
      bound := match bound with | none => p.bound | some b => Fin.ofNat 4 b.toNat
      source := match source with | none => p.source | some b => b.toNat
      decode := match decode with
        | none => p.decode
        | some b => if b.toNat = 0 then .x1 else if b.toNat = 1 then .x2 else if b.toNat = 2 then .x4 else .dirstep
      takeover := match takeover with | none => p.takeover | some b => b.toNat == 1
      takeAction := match action with | none => p.takeAction | some b => if b.toNat = 1 then .takeNext else .play }
    let n := match len with | none => s.defaultLen | some v => max 1 (min v 65535)
    (outside → exec (.setPanel tag body) s = answers 5#8 tag s .badArgument []) ∧
    (¬ outside → exec (.setPanel tag body) s = answers 5#8 tag { s with panel := q, defaultLen := n }
      (takenAs (match len with | none => false | some v => v < 1 || 65535 < v))
      (leBytes 1 q.bound.val ++ leBytes 1 q.source ++ leBytes 1 q.decode.code ++ [boolByte q.takeover] ++
        leBytes 1 q.takeAction.code ++ leBytes 4 n))

/-! ## Channel commands -/

/-- PLAY, SHUTTLE, STILL, STEP and TAKE_NEXT are refused, with nothing changed, for a channel out of range, then
while DISENGAGED, then on a slave, then in IDLE. PLAY: T_s becomes the given speed, clamped, or the nominal speed of
the clip as its record stands, or 1024, and the state PLAYING. SHUTTLE: the lever value, clamped to −128 to +127, is
written and the state becomes SHUTTLE. STILL: S and T_s become 0 and the state JOG. STEP: the count joins the
accumulator, which saturates, S and T_s become 0 and the state JOG; CLAMPED tells a saturation. Everything else is
kept. The speed 1024 for a material that names a FREE clip, which no run reaches, is the model's choice (log entry
29). -/
def Obligations.TransportCommandsSetTheState : Prop :=
  (∀ (s : State) (tag n : Byte) (speed : Option Int) (x : Int) (st : Status), s.ready →
      (∀ v, speed = some v → fitsS 4 v) → fitsS 2 x →
      ((4 ≤ n.toNat ∧ st = .badArgument) ∨
        (n.toNat < 4 ∧ s.engaged = .disengaged ∧ st = .notEngaged) ∨
        (∃ ch : ChanId, n.toNat = ch.val ∧ s.engaged = .engaged ∧ (s.chan ch).state = .slave ∧ st = .ganged) ∨
        (∃ ch : ChanId, n.toNat = ch.val ∧ s.engaged = .engaged ∧ (s.chan ch).state = .idle ∧ st = .noMaterial)) →
      exec (.play tag (n :: packS 4 speed)) s = answers 12#8 tag s st [] ∧
      exec (.shuttle tag (n :: leInt 2 x)) s = answers 13#8 tag s st [] ∧
      exec (.still tag [n]) s = answers 14#8 tag s st [] ∧
      exec (.stepCount tag (n :: leInt 2 x)) s = answers 15#8 tag s st [] ∧
      exec (.takeNext tag [n]) s = answers 18#8 tag s st []) ∧
  (∀ (s : State) (tag : Byte) (ch : ChanId) (speed : Option Int), s.ready → s.engaged = .engaged →
      (s.chan ch).state ≠ .idle → (s.chan ch).state ≠ .slave → (∀ v, speed = some v → fitsS 4 v) →
      let x := s.chan ch
      let nominal : Int := match x.material with
        | some (.clip id) => ((SMap.find s.clips id).map (·.nominal)).getD 1024
        | _ => 1024
      let t := match speed with | none => nominal | some v => max (-32768) (min v 32768)
      exec (.play tag (byteOf ch.val :: packS 4 speed)) s =
        answers 12#8 tag (s.setChan ch { x with target := t, state := .playing })
          (takenAs (match speed with | none => false | some v => decide (v < -32768 ∨ 32768 < v))) []) ∧
  (∀ (s : State) (tag : Byte) (ch : ChanId) (lever : Int), s.ready → s.engaged = .engaged →
      (s.chan ch).state ≠ .idle → (s.chan ch).state ≠ .slave → fitsS 2 lever →
      exec (.shuttle tag (byteOf ch.val :: leInt 2 lever)) s =
        answers 13#8 tag (s.setChan ch { s.chan ch with lever := max (-128) (min lever 127), state := .shuttle })
          (takenAs (decide (lever < -128 ∨ 127 < lever))) []) ∧
  (∀ (s : State) (tag : Byte) (ch : ChanId), s.ready → s.engaged = .engaged →
      (s.chan ch).state ≠ .idle → (s.chan ch).state ≠ .slave →
      exec (.still tag [byteOf ch.val]) s =
        answers 14#8 tag (s.setChan ch { s.chan ch with speed := 0, target := 0, state := .jog }) .ok []) ∧
  (∀ (s : State) (tag : Byte) (ch : ChanId) (n : Int), s.ready → s.engaged = .engaged →
      (s.chan ch).state ≠ .idle → (s.chan ch).state ≠ .slave → fitsS 2 n →
      let sum := (s.chan ch).jog + n
      exec (.stepCount tag (byteOf ch.val :: leInt 2 n)) s =
        answers 15#8 tag
          (s.setChan ch { s.chan ch with speed := 0, target := 0, state := .jog, jog := max (-2048) (min sum 2047) })
          (takenAs (decide (sum < -2048 ∨ 2047 < sum))) [])

/-- CUE_CLIP is refused with BAD_ARGUMENT, NOT_ENGAGED, GANGED, BAD_ARGUMENT, NOT_FOUND, EXPIRED and NO_HEAD, in that
order of checks, and then changes nothing. With a clip that is OPEN or CLOSED and whose window is not empty: the clip
is the material, P stands on the entry frame, the state is CUED with S and T_s 0, flags, preload flag, window and
selection as R77 gives; the cue wait names the entry frame, unless its preload lookup answered RESIDENT, which raises
CUE_READY; an answer DAMAGED sets the damaged mark; the reply gives the entry frame; the preload lookups of a channel
with no slaves are all the cache sees. The slaves of a master take the feeds and offsets of the clip's angle list,
are placed from the master's new position and window or lost, select, and send their preload lookups in the direction
of the clip. Channels outside the gang, and every clip but for its use count, stay. That the master's own lookups
come first, then the derivation of every slave with the release of lost slaves' pins, then each slave's lookups in
turn, is the model's choice (log entry 18), as is that the damaged mark of a lost slave goes with its selection (log
entry 21). -/
def Obligations.CueClipEntersCued : Prop :=
  (∀ (s : State) (tag n : Byte) (id : Nat) (st : Status), s.ready → id < 65536 →
      ((4 ≤ n.toNat ∧ st = .badArgument) ∨
        (n.toNat < 4 ∧ s.engaged = .disengaged ∧ st = .notEngaged) ∨
        (∃ ch : ChanId, n.toNat = ch.val ∧ s.engaged = .engaged ∧ (s.chan ch).state = .slave ∧ st = .ganged) ∨
        (∃ ch : ChanId, n.toNat = ch.val ∧ s.engaged = .engaged ∧ (s.chan ch).state ≠ .slave ∧
          ((1023 < id ∧ st = .badArgument) ∨ (id ≤ 1023 ∧ SMap.find s.clips id = none ∧ st = .notFound) ∨
            (∃ c, id ≤ 1023 ∧ SMap.find s.clips id = some c ∧
              ((c.state = .expired ∧ st = .expired) ∨
                (c.state ≠ .expired ∧ c.window (s.feed c.feed) = none ∧ st = .noHead)))))) →
      exec (.cueClip tag (n :: leBytes 2 id)) s = answers 10#8 tag s st []) ∧
  (∀ (s : State) (tag : Byte) (ch : ChanId) (id : Nat) (c : Clip) (w : Window), s.ready → s.engaged = .engaged →
      (s.chan ch).state ≠ .slave → id < 1024 → SMap.find s.clips id = some c → c.state ≠ .expired →
      c.window (s.feed c.feed) = some w → GangsApart s →
      let named := if c.nominal < 0 then (match c.markOut with | some o => o | none => ((s.feed c.feed).head).getD c.markIn)
        else c.markIn
      let e := max w.lo (min w.hi named)
      let depth := (s.chan ch).opts.preloadDepth
      let ready := 0 < depth ∧ (lookup ch c.feed e s).2 = .resident
      let bad := 0 < depth ∧ (lookup ch c.feed e s).2 = .notAvailable .damaged
      ∃ t, exec (.cueClip tag (byteOf ch.val :: leBytes 2 id)) s = answers 10#8 tag t .ok (leBytes 4 e) ∧
        t.chan ch = { s.chan ch with
          material := some (.clip id), pos := e * 1024, speed := 0, target := 0, state := .cued, atLive := false,
          atTail := false, window := some w, damaged := decide bad, preload := true, idleSel := none,
          cueWait := if ready then none else some ⟨c.feed, e⟩,
          selection := some { feed := c.feed, frame := e, partner := none, weight := 0, clip := some id } } ∧
        (ready → s.cells.length = 54 → (t.cell ch.val).latch = true ∧
          (t.cell ch.val).detail = some (.cueReady (some id) c.feed e)) ∧
        (s.gangs.get ch = [] →
          t.cache = (lookedUp ch c.feed (preloadList (decide (c.nominal < 0)) w e depth) s).cache) ∧
        (GangsWhole s → GangCued s t ch (assigned (s.gangs.get ch) c.angles) w
          (slavePreload (decide (c.nominal < 0)))
          (lookedUp ch c.feed (preloadList (decide (c.nominal < 0)) w e depth) s)) ∧
        t.feeds = s.feeds ∧ t.arbiter = s.arbiter ∧ t.curve = s.curve ∧ t.lists = s.lists ∧ t.markRefs = s.markRefs ∧
        t.panel = s.panel ∧ t.engaged = s.engaged ∧ t.storeSize = s.storeSize ∧ t.defaultLen = s.defaultLen ∧
        (∀ d, d ≠ ch → (∀ g ∈ s.gangs.get ch, g.ch ≠ d) → t.chan d = s.chan d) ∧
        (∀ k, (SMap.find t.clips k).map (fun y => { y with useCount := 0 }) =
          (SMap.find s.clips k).map (fun y => { y with useCount := 0 })))

/-- CUE_FEED is refused with BAD_ARGUMENT, NOT_ENGAGED, GANGED and BAD_ARGUMENT, in that order of checks. Onto a feed
with a playable range: as CUE_CLIP gives, on the frame named, ABSOLUTE or behind the head, clamped into the range,
with the preload lookups going forward; CLAMPED tells that the clamp changed it; an empty range refuses with NO_HEAD.
The slaves of a master keep their feeds and offsets, and are placed, select and send their preload lookups going
forward. That the master's own lookups come first, then the derivation of every slave with the release of lost
slaves' pins, then each slave's lookups in turn, is the model's choice (log entry 18), as is that the damaged mark of
a lost slave goes with its selection (log entry 21). -/
def Obligations.CueFeedEntersCued : Prop :=
  (∀ (s : State) (tag n f ref : Byte) (value : Nat) (st : Status), s.ready → value < 2 ^ 32 →
    ((4 ≤ n.toNat ∧ st = .badArgument) ∨
      (n.toNat < 4 ∧ s.engaged = .disengaged ∧ st = .notEngaged) ∨
      (∃ ch : ChanId, n.toNat = ch.val ∧ s.engaged = .engaged ∧ (s.chan ch).state = .slave ∧ st = .ganged) ∨
      (∃ ch : ChanId, n.toNat = ch.val ∧ s.engaged = .engaged ∧ (s.chan ch).state ≠ .slave ∧
        (7 < f.toNat ∨ 1 < ref.toNat) ∧ st = .badArgument)) →
    exec (.cueFeed tag (n :: f :: ref :: leBytes 4 value)) s = answers 11#8 tag s st []) ∧
  (∀ (s : State) (tag : Byte) (ch : ChanId) (f : FeedId) (behind : Bool) (value : Nat), s.ready →
    s.engaged = .engaged → (s.chan ch).state ≠ .slave → value < 2 ^ 32 → GangsApart s →
    let body := byteOf ch.val :: byteOf f.val :: boolByte behind :: leBytes 4 value
    ((s.feed f).range = none → exec (.cueFeed tag body) s = answers 11#8 tag s .noHead []) ∧
    (∀ w, (s.feed f).range = some w →
      let named : Int := if behind then (w.hi : Int) - value else value
      let e := (max (w.lo : Int) (min w.hi named)).toNat
      let depth := (s.chan ch).opts.preloadDepth
      let ready := 0 < depth ∧ (lookup ch f e s).2 = .resident
      let bad := 0 < depth ∧ (lookup ch f e s).2 = .notAvailable .damaged
      ∃ t, exec (.cueFeed tag body) s = answers 11#8 tag t (takenAs (decide ((e : Int) ≠ named))) (leBytes 4 e) ∧
        t.chan ch = { s.chan ch with
          material := some (.feed f), pos := e * 1024, speed := 0, target := 0, state := .cued, atLive := false,
          atTail := false, window := some w, damaged := decide bad, preload := true, idleSel := none,
          cueWait := if ready then none else some ⟨f, e⟩,
          selection := some { feed := f, frame := e, partner := none, weight := 0, clip := none } } ∧
        (ready → s.cells.length = 54 → (t.cell ch.val).latch = true ∧
          (t.cell ch.val).detail = some (.cueReady none f e)) ∧
        (s.gangs.get ch = [] → t.cache = (lookedUp ch f (preloadList false w e depth) s).cache) ∧
        (GangsWhole s → GangCued s t ch (s.gangs.get ch) w (slavePreload false)
          (lookedUp ch f (preloadList false w e depth) s)) ∧
        t.feeds = s.feeds ∧ t.arbiter = s.arbiter ∧ t.curve = s.curve ∧ t.lists = s.lists ∧
        t.markRefs = s.markRefs ∧ t.panel = s.panel ∧
        (∀ d, d ≠ ch → (∀ g ∈ s.gangs.get ch, g.ch ≠ d) → t.chan d = s.chan d) ∧
        (∀ k, (SMap.find t.clips k).map (fun y => { y with useCount := 0 }) =
          (SMap.find s.clips k).map (fun y => { y with useCount := 0 }))))

/-- GO_LIVE is refused with BAD_ARGUMENT, NOT_ENGAGED, GANGED and BAD_ARGUMENT, in that order of checks, then with
NO_MATERIAL and NO_HEAD. The live feed is the feed given, or the channel's own; P stands on the head, S and T_s are
1024, the state is LIVE; the cue wait goes, flags, preload flag, window and selection are as R86 gives; one lookup of
the head is sent, whose answer DAMAGED sets the damaged mark; the reply gives the head. The slaves of a master keep
their feeds and offsets, and are placed, select and send one lookup each, of the selected frame. That the master's
own lookups come first, then the derivation of every slave with the release of lost slaves' pins, then each slave's
lookups in turn, is the model's choice (log entry 18), as is that the damaged mark of a lost slave goes with its
selection (log entry 21). -/
def Obligations.GoLiveEntersLive : Prop :=
  (∀ (s : State) (tag n : Byte) (given : Option Byte) (st : Status), s.ready →
    ((4 ≤ n.toNat ∧ st = .badArgument) ∨
      (n.toNat < 4 ∧ s.engaged = .disengaged ∧ st = .notEngaged) ∨
      (∃ ch : ChanId, n.toNat = ch.val ∧ s.engaged = .engaged ∧ (s.chan ch).state = .slave ∧ st = .ganged) ∨
      (∃ (ch : ChanId) (b : Byte), n.toNat = ch.val ∧ s.engaged = .engaged ∧ (s.chan ch).state ≠ .slave ∧
        given = some b ∧ 7 < b.toNat ∧ st = .badArgument)) →
    exec (.goLive tag (n :: packU 1 (given.map (·.toNat)))) s = answers 16#8 tag s st []) ∧
  (∀ (s : State) (tag : Byte) (ch : ChanId) (given : Option FeedId), s.ready → s.engaged = .engaged →
    (s.chan ch).state ≠ .slave → GangsApart s →
    let body := byteOf ch.val :: packU 1 (given.map (·.val))
    let live := match given with
      | some f => some f
      | none => if (s.chan ch).state = .idle then none else channelFeed s ch
    (live = none → exec (.goLive tag body) s = answers 16#8 tag s .noMaterial []) ∧
    (∀ f, live = some f → (s.feed f).range = none → exec (.goLive tag body) s = answers 16#8 tag s .noHead []) ∧
    (∀ f w, live = some f → (s.feed f).range = some w →
      ∃ t, exec (.goLive tag body) s = answers 16#8 tag t .ok (leBytes 4 w.hi) ∧
        t.chan ch = { s.chan ch with
          material := some (.feed f), pos := w.hi * 1024, speed := 1024, target := 1024, state := .live,
          atLive := false, atTail := false, cueWait := none, window := some w, preload := true, idleSel := none,
          damaged := decide ((lookup ch f w.hi s).2 = .notAvailable .damaged),
          selection := some { feed := f, frame := w.hi, partner := none, weight := 0, clip := none } } ∧
        (s.gangs.get ch = [] → t.cache = (lookup ch f w.hi s).1.cache) ∧
        (GangsWhole s → GangCued s t ch (s.gangs.get ch) w slaveFrame (lookup ch f w.hi s).1) ∧
        t.feeds = s.feeds ∧ t.arbiter = s.arbiter ∧ t.curve = s.curve ∧ t.lists = s.lists ∧
        t.markRefs = s.markRefs ∧ t.panel = s.panel ∧
        (∀ d, d ≠ ch → (∀ g ∈ s.gangs.get ch, g.ch ≠ d) → t.chan d = s.chan d) ∧
        (∀ k, (SMap.find t.clips k).map (fun y => { y with useCount := 0 }) =
          (SMap.find s.clips k).map (fun y => { y with useCount := 0 }))))

/-- EJECT of a channel out of range is refused with BAD_ARGUMENT, and while DISENGAGED with NOT_ENGAGED. In IDLE
nothing changes; a slave leaves its gang into IDLE; any other channel enters IDLE without material, its gang
dissolves and its slaves enter IDLE; P, lever value and options are kept; under BLACK the pins go at once and the
last record carries no frame, else pins and record are kept. That the damaged mark goes with the selection is the
model's choice (log entry 21). -/
def Obligations.EjectEntersIdle : Prop :=
  (∀ (s : State) (tag n : Byte), s.ready →
    (4 ≤ n.toNat → exec (.eject tag [n]) s = answers 17#8 tag s .badArgument []) ∧
    (n.toNat < 4 → s.engaged = .disengaged → exec (.eject tag [n]) s = answers 17#8 tag s .notEngaged [])) ∧
  (∀ (s : State) (tag : Byte) (ch : ChanId), s.ready → s.engaged = .engaged → GangsApart s →
    ((s.chan ch).state = .idle → exec (.eject tag [byteOf ch.val]) s = answers 17#8 tag s .ok []) ∧
    ((s.chan ch).state ≠ .idle →
      ∃ t, exec (.eject tag [byteOf ch.val]) s = answers 17#8 tag t .ok [] ∧
        (∃ clamped, t.chan ch = { s.chan ch with
          state := .idle, material := none, window := none, speed := 0, target := 0, jog := 0, preload := false,
          atLive := false, atTail := false, cueWait := none, selection := none, damaged := false,
          slaveClamped := clamped,
          lastRec := if (s.chan ch).opts.idlePicture = .black then ⟨none, none, false⟩ else (s.chan ch).lastRec } ∧
          ((s.chan ch).state ≠ .slave → clamped = (s.chan ch).slaveClamped)) ∧
        ((s.chan ch).opts.idlePicture = .black → t.cache.pins.get ch = []) ∧
        ((s.chan ch).opts.idlePicture ≠ .black → t.cache.pins.get ch = s.cache.pins.get ch) ∧
        ((s.chan ch).state ≠ .slave → t.gangs.get ch = [] ∧
          ∀ g ∈ s.gangs.get ch, (t.chan g.ch).state = .idle ∧ (t.chan g.ch).material = none) ∧
        ((s.chan ch).state = .slave → ∀ m g, masterOf s ch = some (m, g) →
          (∀ g' ∈ t.gangs.get m, g'.ch ≠ ch) ∧ (t.chan ch).slaveClamped = false) ∧
        t.feeds = s.feeds ∧ t.arbiter = s.arbiter ∧ t.curve = s.curve ∧ t.lists = s.lists ∧
        t.markRefs = s.markRefs ∧ t.panel = s.panel ∧ t.link = s.link ∧ t.cells = s.cells))

/-! ## Gangs -/

/-- GANG is refused by the checks of R106 in their order, and then changes nothing. GANG that passes them: the record
holds the slaves whose feeds have a playable range, in the order named, each offset clamped to −65,536 to +65,535,
with CLAMPED in the reply when one was; each of them is in SLAVE on its feed, placed by the derivation from the
master; a slave whose feed has none is in IDLE; the master stands as it did. The count byte of the result body is the
model's choice (log entry 12). -/
def Obligations.GangPlacesItsSlaves : Prop :=
  (∀ (s : State) (tag n : Byte) (l : List (Byte × Byte × Int)) (st : Status), s.ready → l.length < 256 →
    (∀ a ∈ l, fitsS 4 a.2.2) →
    let outside := 3 < n.toNat ∨ (∃ a ∈ l, 3 < a.1.toNat ∨ 7 < a.2.1.toNat) ∨ l = [] ∨ 3 < l.length ∨
      ¬ (n.toNat :: l.map fun a => a.1.toNat).Nodup
    let ganged := ∃ c : ChanId, (c.val = n.toNat ∨ ∃ a ∈ l, c.val = a.1.toNat) ∧
      ((masterOf s c).isSome = true ∨ s.gangs.get c ≠ [])
    ((outside ∧ st = .badArgument) ∨
      (¬ outside ∧ s.engaged = .disengaged ∧ st = .notEngaged) ∨
      (¬ outside ∧ s.engaged = .engaged ∧ ganged ∧ st = .ganged) ∨
      (¬ outside ∧ s.engaged = .engaged ∧ ¬ ganged ∧ st = .noMaterial ∧
        ∃ m : ChanId, m.val = n.toNat ∧ (s.chan m).state = .idle)) →
    exec (.gang tag (n :: byteOf l.length :: l.flatMap fun a => a.1 :: a.2.1 :: leInt 4 a.2.2)) s =
      answers 19#8 tag s st []) ∧
  (∀ (s : State) (tag : Byte) (m : ChanId) (named : List GangSlave) (w : Window), s.ready → s.engaged = .engaged →
    named ≠ [] → named.length ≤ 3 → (m :: named.map (·.ch)).Nodup → isGanged s m = false →
    (∀ g ∈ named, isGanged s g.ch = false) →
    (s.chan m).state ≠ .idle → (s.chan m).window = some w →
    (∀ g ∈ named, fitsS 4 g.offset) →
    let gs := named.map fun g => { g with offset := max (-65536) (min g.offset 65535) }
    ∃ t, exec (.gang tag (byteOf m.val :: byteOf named.length ::
          named.flatMap fun g => byteOf g.ch.val :: byteOf g.feed.val :: leInt 4 g.offset)) s =
        answers 19#8 tag t (takenAs (named.any fun g => decide (g.offset < -65536 ∨ 65535 < g.offset)))
          (gangReply t gs) ∧
      t.gangs.get m = gs.filter (fun g => (s.feed g.feed).range.isSome) ∧ (∀ k, k ≠ m → t.gangs.get k = s.gangs.get k) ∧
      t.chan m = s.chan m ∧ t.feeds = s.feeds ∧ t.lists = s.lists ∧ t.panel = s.panel ∧ t.arbiter = s.arbiter ∧
      ∀ g ∈ gs,
        (∀ r, (s.feed g.feed).range = some r →
          let sw := slaveWindow r ((w.lo : Int) + g.offset) ((w.hi : Int) + g.offset)
          let p := placeSlave sw (((s.chan m).pos : Int) + g.offset * 1024)
          (t.chan g.ch).state = .slave ∧ (t.chan g.ch).material = some (.feed g.feed) ∧
          (t.chan g.ch).window = some sw ∧ (t.chan g.ch).pos = p.1 ∧ (t.chan g.ch).slaveClamped = p.2 ∧
          (t.chan g.ch).speed = (s.chan m).speed ∧ (t.chan g.ch).target = (s.chan m).target ∧
          (t.chan g.ch).cueWait = none ∧ (t.chan g.ch).atLive = false ∧ (t.chan g.ch).atTail = false ∧
          (let f := pickFrame (s.chan g.ch).opts.blend sw.hi p.1
           (t.chan g.ch).selection =
             some { feed := g.feed, frame := f.1, partner := f.2.1, weight := f.2.2, clip := none }) ∧
          (t.chan g.ch).lever = (s.chan g.ch).lever ∧ (t.chan g.ch).jog = (s.chan g.ch).jog ∧
          (t.chan g.ch).preload = (s.chan g.ch).preload ∧ (t.chan g.ch).opts = (s.chan g.ch).opts) ∧
        ((s.feed g.feed).range = none → (t.chan g.ch).state = .idle ∧ (t.chan g.ch).material = none))

/-- UNGANG of a channel out of range is refused with BAD_ARGUMENT, while DISENGAGED with NOT_ENGAGED, and of a
channel in no gang with NOT_FOUND; else each named slave leaves its gang and stands in JOG on its feed, or in IDLE
when the feed has no playable range; a master stands as it did. The count byte of the result body is the model's
choice (log entry 12). -/
def Obligations.UngangFreesTheSlaves : Prop :=
  (∀ (s : State) (tag n : Byte), s.ready →
    (4 ≤ n.toNat → exec (.ungang tag [n]) s = answers 20#8 tag s .badArgument []) ∧
    (n.toNat < 4 → s.engaged = .disengaged → exec (.ungang tag [n]) s = answers 20#8 tag s .notEngaged [])) ∧
  (∀ (s : State) (tag : Byte) (ch : ChanId), s.ready → s.engaged = .engaged → GangsApart s →
    (masterOf s ch = none → s.gangs.get ch = [] →
      exec (.ungang tag [byteOf ch.val]) s = answers 20#8 tag s .notFound []) ∧
    (∀ m gs, ungangNames s ch = some (m, gs) →
      ∃ t, exec (.ungang tag [byteOf ch.val]) s = answers 20#8 tag t .ok
          (byteOf gs.length :: gs.map fun g => byteOf (t.chan g.ch).state.code) ∧
        t.chan m = s.chan m ∧ t.feeds = s.feeds ∧ t.lists = s.lists ∧ t.panel = s.panel ∧ t.arbiter = s.arbiter ∧
        ∀ g ∈ gs, (∀ g' ∈ t.gangs.get m, g'.ch ≠ g.ch) ∧
          (∀ w, (s.feed g.feed).range = some w → t.chan g.ch =
            { s.chan g.ch with state := .jog, speed := 0, target := 0, window := some w, slaveClamped := false }) ∧
          ((s.feed g.feed).range = none → (t.chan g.ch).state = .idle ∧ (t.chan g.ch).material = none)))

/-! ## Position arithmetic -/

/-- The arithmetic of a tick: the shuttle curve between two points, rounded to the nearest, a half away from zero;
the ramp; the saturating jog accumulator; the LOOP wrap; frame selection and blend weight; the lookahead frames, from
positions that wrap beyond a LOOP clip's bound and are clamped beyond any other end; and the window and place of a
slave, which lie in the playable range. -/
def Obligations.PositionArithmetic : Prop :=
  (∀ (curve : List Int) (lever : Int), curve.length = 17 → -128 ≤ lever → lever ≤ 127 →
    ∃ (k u : Nat) (a b r : Int), lever + 128 = 16 * k + u ∧ u < 16 ∧ curve[k]? = some a ∧ curve[k + 1]? = some b ∧
      curveTarget curve lever = a + r ∧ -8 ≤ 16 * r - (b - a) * u ∧ 16 * r - (b - a) * u ≤ 8 ∧
      (16 * r - (b - a) * u = 8 → 0 < (b - a) * u) ∧ (16 * r - (b - a) * u = -8 → (b - a) * u < 0)) ∧
  (∀ (limit : Nat) (speed target : Int),
    (limit = 0 → rampSpeed limit speed target = target) ∧
    (speed - limit ≤ target → target ≤ speed + limit → rampSpeed limit speed target = target) ∧
    (0 < limit → speed + limit < target → rampSpeed limit speed target = speed + limit) ∧
    (0 < limit → target < speed - limit → rampSpeed limit speed target = speed - limit)) ∧
  (∀ jog n : Int, jogSum jog n = max (-2048) (min (jog + n) 2047)) ∧
  (∀ (w : Window) (q : Int), w.lo ≤ w.hi → w.lo * 1024 ≤ w.wrap q ∧ w.wrap q ≤ w.hi * 1024 + 1023 ∧
    ∃ k : Int, q = w.wrap q + k * ((w.hi - w.lo + 1) * 1024 : Nat)) ∧
  (∀ (blend : Bool) (hi p : Nat),
    let f := p / 1024
    let weight := (p % 1024 + 32) / 64
    (blend = false ∨ f = hi → pickFrame blend hi p = (f, none, 0)) ∧
    (blend = true → f ≠ hi → weight = 0 → pickFrame blend hi p = (f, none, 0)) ∧
    (blend = true → f ≠ hi → weight = 16 → pickFrame blend hi p = (f + 1, none, 0)) ∧
    (blend = true → f ≠ hi → weight ≠ 0 → weight ≠ 16 → pickFrame blend hi p = (f, some (f + 1), weight))) ∧
  (∀ (s : State) (x : Channel) (w : Window) (sel : Selection),
    let loops := fun e : WindowEnd => ∃ c, boundClip s x.material e = some c ∧ c.endMode = .loop
    let place := fun q : Int =>
      if ((w.hi : Int) + 1) * 1024 ≤ q ∧ loops .upper ∨ q < ((w.hi : Int) + 1) * 1024 ∧ q < (w.lo : Int) * 1024 ∧ loops .lower
      then w.wrap q
      else if ((w.hi : Int) + 1) * 1024 ≤ q then w.hi * 1024 + 1023
      else if q < (w.lo : Int) * 1024 then w.lo * 1024
      else q.toNat
    let runs := x.state = .playing ∨ x.state = .shuttle ∨ x.state = .live ∨ x.state = .slave
    (¬ (runs ∧ x.speed ≠ 0) → lookahead s x w sel = []) ∧
    (runs → x.speed ≠ 0 → ∀ frames : List Nat,
      (∀ i, i < x.opts.lookahead → frames[i]? = some (place ((x.pos : Int) + (i + 1 : Nat) * x.speed) / 1024)) →
      frames.length = x.opts.lookahead →
      lookahead s x w sel = (frames.filter fun n => n ≠ sel.frame ∧ sel.partner ≠ some n).eraseDups)) ∧
  (∀ (r : Window) (a b q : Int), r.lo ≤ r.hi → a ≤ b →
    let w := slaveWindow r a b
    let p := placeSlave w q
    r.lo ≤ w.lo ∧ w.lo ≤ w.hi ∧ w.hi ≤ r.hi ∧ w.lo * 1024 ≤ p.1 ∧ p.1 ≤ w.hi * 1024 + 1023 ∧
    (b < r.lo → w = ⟨r.lo, r.lo⟩) ∧ ((r.hi : Int) < a → w = ⟨r.hi, r.hi⟩) ∧
    ((r.lo : Int) ≤ b → a ≤ r.hi → (w.lo : Int) = max a r.lo ∧ (w.hi : Int) = min b r.hi) ∧
    (q < w.lo * 1024 → p = (w.lo * 1024, true)) ∧ ((w.hi : Int) * 1024 + 1023 < q → p = (w.hi * 1024, true)) ∧
    ((w.lo : Int) * 1024 ≤ q → q ≤ w.hi * 1024 + 1023 → (p.1 : Int) = q ∧ p.2 = false))

/-! ## Marks and clips -/

/-- MARK_IN with no pending clip on the source's present feed opens a clip at the captured frame, takes the lowest
FREE id, sets the source's reference and raises MARK; the angle list is a gang master's slaves. On a source whose
pending clip lies on its present feed it re-marks that clip: the mark-in moves into the previous mark-in, the
captured frame becomes the mark-in, CLAMPED follows the capture, WARNED goes with a changed value. Nothing else
changes. -/
def Obligations.MarkInOpensOrReMarks : Prop :=
  (∀ (s : State) (tag n : Byte) (src : MarkSource) (cap : Capture) (id : Nat), s.ready →
      markSource? n.toNat = some src → pendingClip s n.toNat src = none → capture s src = .ok cap →
      freeClip s = some id →
      let c : Clip :=
        { state := .opened, feed := cap.feed, markIn := cap.frame, markOut := none, prevIn := none, swapped := false,
          defaulted := false, clampedFlag := cap.clamped, warned := false, nominal := 1024, endMode := .stop,
          watch := true, label := 0, useCount := 0,
          angles := match src with
            | .chan m => (s.gangs.get m).map fun g => ⟨g.feed, g.offset⟩
            | .feed _ => [] }
      exec (.markIn tag [n]) s =
        answers 21#8 tag
          (raise 0 (.mark id n.toNat .newIn cap.frame)
            { s with clips := SMap.put s.clips id c, markRefs := SMap.put s.markRefs n.toNat id })
          (takenAs cap.clamped) (leBytes 2 id ++ [n, 0#8] ++ leBytes 4 cap.frame)) ∧
  (∀ (s : State) (tag n : Byte) (src : MarkSource) (cap : Capture) (id : Nat) (c : Clip), s.ready →
      markSource? n.toNat = some src → pendingClip s n.toNat src = some (id, c) → capture s src = .ok cap →
      exec (.markIn tag [n]) s =
        answers 21#8 tag
          (raise 0 (.mark id n.toNat .remark cap.frame)
            { s with
                clips := SMap.put s.clips id
                  { c with markIn := cap.frame, prevIn := some c.markIn, clampedFlag := cap.clamped,
                           warned := if c.markIn = cap.frame then c.warned else false } })
          (takenAs cap.clamped) (leBytes 2 id ++ [n, 1#8] ++ leBytes 4 cap.frame))

/-- MARK_OUT on a source whose pending clip lies on its present feed closes it: the pair is put in order, SWAPPED
tells an exchange, CLAMPED the capture, and the reference becomes absent. With no pending clip there it makes a
CLOSED clip of the default length that ends at the captured frame, cut by the tail, with DEFAULTED set; no reference
is left on the source. The tail is the one the feed holds at the mark (log entry 36). -/
def Obligations.MarkOutClosesOrMakesAClip : Prop :=
  (∀ (s : State) (tag n : Byte) (src : MarkSource) (cap : Capture) (id : Nat) (c : Clip), s.ready →
      markSource? n.toNat = some src → pendingClip s n.toNat src = some (id, c) → capture s src = .ok cap →
      let i := min c.markIn cap.frame
      let o := max c.markIn cap.frame
      exec (.markOut tag [n]) s =
        answers 22#8 tag
          (raise 0 (.mark id n.toNat .close o)
            { s with
              clips := SMap.put s.clips id
                { c with state := .closed, markIn := i, markOut := some o, swapped := decide (cap.frame < c.markIn),
                         clampedFlag := cap.clamped, warned := if c.markIn = i then c.warned else false }
              markRefs := SMap.del s.markRefs n.toNat })
          (takenAs cap.clamped) (leBytes 2 id ++ [n, 2#8] ++ leBytes 4 o)) ∧
  (∀ (s : State) (tag n : Byte) (src : MarkSource) (cap : Capture) (id : Nat), s.ready →
      markSource? n.toNat = some src → pendingClip s n.toNat src = none → capture s src = .ok cap →
      freeClip s = some id →
      let c : Clip :=
        { state := .closed, feed := cap.feed, markIn := max cap.tail (cap.frame + 1 - s.defaultLen),
          markOut := some cap.frame, prevIn := none, swapped := false, defaulted := true, clampedFlag := cap.clamped,
          warned := false, nominal := 1024, endMode := .stop, watch := true, label := 0, useCount := 0,
          angles := match src with
            | .chan m => (s.gangs.get m).map fun g => ⟨g.feed, g.offset⟩
            | .feed _ => [] }
      exec (.markOut tag [n]) s =
        answers 22#8 tag
          (raise 0 (.mark id n.toNat .newOut cap.frame)
            { s with clips := SMap.put s.clips id c, markRefs := SMap.del s.markRefs n.toNat })
          (takenAs cap.clamped) (leBytes 2 id ++ [n, 3#8] ++ leBytes 4 cap.frame))

/-- What a mark captures: on a channel the frame it stands on, clamped into the playable range of its feed; on a feed
its head; an IDLE channel has no material and an empty range no head. A mark refused with NO_MATERIAL, NO_HEAD or
TABLE_FULL raises MARK_REFUSED and changes neither the clip table nor a reference, a reference to a clip of another
feed among them (log entry 16); a source above 11 is refused with BAD_ARGUMENT and raises nothing. That the tail is
the one the feed holds at the mark, also while an overwrite notice waits at the Clip Table, is the model's choice
(log entry 36). -/
def Obligations.MarksCaptureOrAreRefused : Prop :=
  (∀ s : State,
      (∀ f, capture s (.feed f) =
        match (s.feed f).range with
        | none => .error .noHead
        | some w => .ok ⟨f, w.lo, w.hi, false⟩) ∧
      (∀ ch, (s.chan ch).state = .idle → capture s (.chan ch) = .error .noMaterial) ∧
      (∀ ch f, (s.chan ch).state ≠ .idle → channelFeed s ch = some f →
        ((s.feed f).range = none → capture s (.chan ch) = .error .noHead) ∧
        (∀ w, (s.feed f).range = some w →
          let frame := (s.chan ch).pos / 1024
          let got := max w.lo (min w.hi frame)
          capture s (.chan ch) = .ok ⟨f, w.lo, got, decide (got ≠ frame)⟩))) ∧
  (∀ (s : State) (tag n : Byte), s.ready →
      (11 < n.toNat → exec (.markIn tag [n]) s = answers 21#8 tag s .badArgument [] ∧
        exec (.markOut tag [n]) s = answers 22#8 tag s .badArgument []) ∧
      (∀ src st, markSource? n.toNat = some src →
        (capture s src = .error st ∨
          (∃ cap, capture s src = .ok cap ∧ freeClip s = none ∧ pendingClip s n.toNat src = none ∧ st = .tableFull)) →
        exec (.markIn tag [n]) s = answers 21#8 tag (raise 0 (.markRefused n.toNat .into st) s) st [] ∧
        exec (.markOut tag [n]) s = answers 22#8 tag (raise 0 (.markRefused n.toNat .out st) s) st []))

/-- MAKE_CLIP clamps both frames into the playable range, puts them in order and makes the lowest FREE id a CLOSED
clip; no reference and no other block changes, and MARK is not raised. The range is the one the feed holds at the
command, the model's choice while an overwrite notice waits (log entry 36). -/
def Obligations.MakeClipMakesAClosedClip : Prop :=
  ∀ (s : State) (tag n : Byte) (i o : Nat), s.ready → i < 2 ^ 32 → o < 2 ^ 32 →
    let body := n :: (leBytes 4 i ++ leBytes 4 o)
    (8 ≤ n.toNat → exec (.makeClip tag body) s = answers 23#8 tag s .badArgument []) ∧
    (∀ f : FeedId, n.toNat = f.val →
      ((s.feed f).range = none → exec (.makeClip tag body) s = answers 23#8 tag s .noHead []) ∧
      (∀ w, (s.feed f).range = some w →
        (freeClip s = none → exec (.makeClip tag body) s = answers 23#8 tag s .tableFull []) ∧
        (∀ id, freeClip s = some id →
          let i' := max w.lo (min w.hi i)
          let o' := max w.lo (min w.hi o)
          let clamped := decide (i' ≠ i ∨ o' ≠ o)
          exec (.makeClip tag body) s =
            answers 23#8 tag
              { s with
                  clips := SMap.put s.clips id
                    { state := .closed, feed := f, markIn := min i' o', markOut := some (max i' o'), prevIn := none,
                      swapped := decide (o' < i'), defaulted := false, clampedFlag := clamped, warned := false,
                      nominal := 1024, endMode := .stop, watch := true, label := 0, angles := [], useCount := 0 } }
              (takenAs clamped) (leBytes 2 id ++ leBytes 4 (min i' o') ++ leBytes 4 (max i' o')))))

/-- TRIM_CLIP is refused with BAD_ARGUMENT, NOT_FOUND, EXPIRED and NO_HEAD, in that order of checks, and then changes
nothing. Of a CLOSED clip: the values given are clamped, the pair is formed with the present values and put in order,
and SWAPPED, CLAMPED, DEFAULTED and WARNED follow; the previous mark-in and the other fields are kept. Of an OPEN
clip: a mark-in alone is written and the clip stays OPEN with its reference; a mark-out closes it and clears every
reference that names it. The absent mark-out of the reply is the model's choice (log entry 14). So is the range, the
one the feed holds at the command, while an overwrite notice waits (log entry 36). -/
def Obligations.TrimClipWritesThePair : Prop :=
  (∀ (s : State) (tag : Byte) (id : Nat) (i o : Option Nat) (st : Status), s.ready → id < 65536 →
      (∀ v, i = some v → v < 2 ^ 32) → (∀ v, o = some v → v < 2 ^ 32) →
      let outside := 1023 < id ∨ (i = none ∧ o = none)
      ((outside ∧ st = .badArgument) ∨ (¬ outside ∧ SMap.find s.clips id = none ∧ st = .notFound) ∨
        (∃ c, ¬ outside ∧ SMap.find s.clips id = some c ∧
          ((c.state = .expired ∧ st = .expired) ∨
            (c.state ≠ .expired ∧ (s.feed c.feed).range = none ∧ st = .noHead)))) →
      exec (.trimClip tag (leBytes 2 id ++ packU 4 i ++ packU 4 o)) s = answers 24#8 tag s st []) ∧
  (∀ (s : State) (tag : Byte) (id : Nat) (i o : Option Nat) (c : Clip) (w : Window) (out : Nat), s.ready → id < 1024 →
      (i ≠ none ∨ o ≠ none) → (∀ v, i = some v → v < 2 ^ 32) → (∀ v, o = some v → v < 2 ^ 32) →
      SMap.find s.clips id = some c → c.state = .closed → c.markOut = some out → (s.feed c.feed).range = some w →
      let a := match i with | none => c.markIn | some v => max w.lo (min w.hi v)
      let b := match o with | none => out | some v => max w.lo (min w.hi v)
      let clamped := (i.any fun v => decide (a ≠ v)) || (o.any fun v => decide (b ≠ v))
      exec (.trimClip tag (leBytes 2 id ++ packU 4 i ++ packU 4 o)) s =
        answers 24#8 tag
          { s with
              clips := SMap.put s.clips id
                { c with markIn := min a b, markOut := some (max a b), swapped := decide (b < a), clampedFlag := clamped,
                         defaulted := c.defaulted && decide (i = none),
                         warned := if c.markIn = min a b then c.warned else false } }
          (takenAs clamped) (leBytes 4 (min a b) ++ 1#8 :: leBytes 4 (max a b))) ∧
  (∀ (s : State) (tag : Byte) (id : Nat) (c : Clip) (w : Window), s.ready → id < 1024 →
      SMap.find s.clips id = some c → c.state = .opened → c.markOut = none → (s.feed c.feed).range = some w →
      (∀ v, v < 2 ^ 32 →
        let a := max w.lo (min w.hi v)
        exec (.trimClip tag (leBytes 2 id ++ packU 4 (some v) ++ packU 4 none)) s =
          answers 24#8 tag
            { s with
                clips := SMap.put s.clips id
                  { c with markIn := a, clampedFlag := decide (a ≠ v), defaulted := false,
                           warned := if c.markIn = a then c.warned else false } }
            (takenAs (decide (a ≠ v))) (leBytes 4 a ++ [0#8, 0#8, 0#8, 0#8, 0#8])) ∧
      (∀ (i : Option Nat) (v : Nat), (∀ x, i = some x → x < 2 ^ 32) → v < 2 ^ 32 →
        let a := match i with | none => c.markIn | some x => max w.lo (min w.hi x)
        let b := max w.lo (min w.hi v)
        let clamped := (i.any fun x => decide (a ≠ x)) || decide (b ≠ v)
        exec (.trimClip tag (leBytes 2 id ++ packU 4 i ++ packU 4 (some v))) s =
          answers 24#8 tag
            { s with
              clips := SMap.put s.clips id
                { c with state := .closed, markIn := min a b, markOut := some (max a b), swapped := decide (b < a),
                         clampedFlag := clamped, defaulted := c.defaulted && decide (i = none),
                         warned := if c.markIn = min a b then c.warned else false }
              markRefs := s.markRefs.filter fun r => r.2 != id }
            (takenAs clamped) (leBytes 4 (min a b) ++ 1#8 :: leBytes 4 (max a b))))

/-- SET_CLIP: an id above 1023, an end mode or watch outside its list, more than 3 angles or an angle feed out of
range refuse the command, then a FREE clip; else each field carried is written, speed and offsets clamped, and a
watch turned on clears WARNED. That a watch byte above 1 is refused with BAD_ARGUMENT is the model's choice (log
entry 25). -/
def Obligations.SetClipWritesTheFields : Prop :=
  ∀ (s : State) (tag : Byte) (id : Nat) (nominal : Option Int) (mode watch : Option Byte) (label : Option Nat)
    (angles : Option (List (Byte × Int))), s.ready → id < 65536 → (∀ v, nominal = some v → fitsS 4 v) →
    (∀ v, label = some v → v < 65536) → (∀ l, angles = some l → l.length < 256 ∧ ∀ a ∈ l, fitsS 4 a.2) →
    let one := fun v : Option Byte => packU 1 (v.map (·.toNat))
    let body := leBytes 2 id ++ packS 4 nominal ++ one mode ++ one watch ++ packU 2 label ++
      (match angles with
        | none => [0#8]
        | some l => 1#8 :: byteOf l.length :: l.flatMap fun a => a.1 :: leInt 4 a.2)
    let outside := 1023 < id ∨ (∃ b, mode = some b ∧ 2 < b.toNat) ∨ (∃ b, watch = some b ∧ 1 < b.toNat) ∨
      (∃ l, angles = some l ∧ (3 < l.length ∨ ∃ a ∈ l, 7 < a.1.toNat))
    let clamped := (∃ v, nominal = some v ∧ (v < -32768 ∨ 32768 < v)) ∨
      (∃ l, angles = some l ∧ ∃ a ∈ l, a.2 < -65536 ∨ 65535 < a.2)
    (outside → exec (.setClip tag body) s = answers 25#8 tag s .badArgument []) ∧
    (¬ outside → SMap.find s.clips id = none → exec (.setClip tag body) s = answers 25#8 tag s .notFound []) ∧
    (∀ c, ¬ outside → SMap.find s.clips id = some c →
      let t : State := { s with
        clips := SMap.put s.clips id
          { c with
          nominal := match nominal with | none => c.nominal | some v => max (-32768) (min v 32768)
          endMode := match mode with
            | none => c.endMode
            | some b => if b.toNat = 0 then .stop else if b.toNat = 1 then .loop else .next
          watch := match watch with | none => c.watch | some b => b.toNat == 1
          warned := if watch = some 1#8 ∧ c.watch = false then false else c.warned
          label := label.getD c.label
          angles := match angles with
            | none => c.angles
            | some l => l.map fun a => ⟨Fin.ofNat 8 a.1.toNat, max (-65536) (min a.2 65535)⟩ } }
      (clamped → exec (.setClip tag body) s = answers 25#8 tag t .clamped []) ∧
      (¬ clamped → exec (.setClip tag body) s = answers 25#8 tag t .ok []))

/-- DELETE_CLIP: BAD_ARGUMENT, NOT_FOUND and IN_USE in that order; else the record is FREE and no reference names it. -/
def Obligations.DeleteClipFreesTheRecord : Prop :=
  ∀ (s : State) (tag : Byte) (id : Nat), s.ready → id < 65536 →
    (1023 < id → exec (.deleteClip tag (leBytes 2 id)) s = answers 26#8 tag s .badArgument []) ∧
    (id ≤ 1023 → SMap.find s.clips id = none →
      exec (.deleteClip tag (leBytes 2 id)) s = answers 26#8 tag s .notFound []) ∧
    (∀ c, id ≤ 1023 → SMap.find s.clips id = some c →
      (0 < c.useCount → exec (.deleteClip tag (leBytes 2 id)) s = answers 26#8 tag s .inUse []) ∧
      (c.useCount = 0 → SMap.wf s.clips = true →
        ∃ t, exec (.deleteClip tag (leBytes 2 id)) s = answers 26#8 tag t .ok [] ∧ SMap.find t.clips id = none ∧
          (∀ k, k ≠ id → SMap.find t.clips k = SMap.find s.clips k) ∧
          (∀ r, r ∈ t.markRefs ↔ r ∈ s.markRefs ∧ r.2 ≠ id) ∧
          t = { s with clips := t.clips, markRefs := t.markRefs }))

/-! ## Reads -/

/-- READ_CLIP, LIST_CLIPS, READ_LIST, READ_FEED and READ_NOTICES answer from the state as it stands and change
nothing; a clip id above 1023, a channel above 3, a feed above 7 and a start above 53 are refused with BAD_ARGUMENT,
and a FREE clip with NOT_FOUND. READ_CHANNEL answers with the record of the channel and changes nothing but
JOG_GLITCH, which the read of the bound channel clears after reporting it. The clip record, the feed status record
and the channel status record have 44, 57 and 76 bytes with every field at its offset. -/
def Obligations.ReadsReportAndChangeNothing : Prop :=
  (∀ (s : State) (tag : Byte), s.ready →
      (∀ id c, id < 1024 → SMap.find s.clips id = some c →
        exec (.readClip tag (leBytes 2 id)) s = answers 27#8 tag s .ok (c.bytes id)) ∧
      (∀ id, id < 1024 → SMap.find s.clips id = none →
        exec (.readClip tag (leBytes 2 id)) s = answers 27#8 tag s .notFound []) ∧
      (∀ (first : Nat) (count : Byte), first < 1024 →
        let n := min (max 1 (min 16 count.toNat)) 5
        let found := (s.clips.filter fun r => decide (first ≤ r.1)).take n
        exec (.listClips tag (leBytes 2 first ++ [count])) s =
          answers 28#8 tag s (takenAs (decide (count.toNat < 1 ∨ 16 < count.toNat)))
            (leBytes 1 found.length ++ (found.flatMap fun r => r.2.bytes r.1) ++
              (match found.getLast? with
                | some r => if found.length = n ∧ r.1 < 1023 then 1#8 :: leBytes 2 (r.1 + 1) else [0#8, 0#8, 0#8]
                | none => [0#8, 0#8, 0#8]))) ∧
      (∀ ch : ChanId, exec (.readList tag [byteOf ch.val]) s =
        answers 33#8 tag s .ok (leBytes 1 (s.lists.get ch).length ++ (s.lists.get ch).flatMap fun e =>
          leBytes 2 e.clip ++
            (match e.speed with | none => [0#8, 0#8, 0#8, 0#8, 0#8] | some v => 1#8 :: leInt 4 v) ++
            [byteOf (match SMap.find s.clips e.clip with | none => 0 | some c => c.state.code)])) ∧
      (∀ f : FeedId, exec (.readFeed tag [byteOf f.val]) s = answers 35#8 tag s .ok (s.feed f).bytes) ∧
      (∀ start : Byte, start.toNat < 54 →
        let shown := ((allCells.drop start.toNat).filter fun k => (s.cell (cellIndex k.1 k.2)).latch).take 8
        exec (.readNotices tag [start]) s =
          answers 36#8 tag s .ok (packBits 7 (s.cells.map (·.latch)) ++ byteOf shown.length ::
            (shown.flatMap fun k =>
              [byteOf k.1.number, byteOf k.2, boolByte (s.cell (cellIndex k.1 k.2)).enable,
                byteOf (s.cell (cellIndex k.1 k.2)).count] ++
              (match (s.cell (cellIndex k.1 k.2)).detail with | none => [] | some d => d.bytes)) ++
            (match shown.getLast? with
              | some k => if shown.length = 8 ∧ cellIndex k.1 k.2 < 53 then [1#8, byteOf (cellIndex k.1 k.2 + 1)]
                else [0#8, 0#8]
              | none => [0#8, 0#8]))) ∧
      (∀ id, 1023 < id → id < 65536 → exec (.readClip tag (leBytes 2 id)) s = answers 27#8 tag s .badArgument [] ∧
        ∀ count, exec (.listClips tag (leBytes 2 id ++ [count])) s = answers 28#8 tag s .badArgument []) ∧
      (∀ n : Byte, 4 ≤ n.toNat → exec (.readList tag [n]) s = answers 33#8 tag s .badArgument []) ∧
      (∀ n : Byte, 8 ≤ n.toNat → exec (.readFeed tag [n]) s = answers 35#8 tag s .badArgument []) ∧
      (∀ start : Byte, 54 ≤ start.toNat → exec (.readNotices tag [start]) s = answers 36#8 tag s .badArgument [])) ∧
  (∀ (s : State) (tag n : Byte), s.ready →
      (4 ≤ n.toNat → exec (.readChannel tag [n]) s = answers 34#8 tag s .badArgument []) ∧
      (∀ ch : ChanId, n.toNat = ch.val →
        exec (.readChannel tag [n]) s =
          answers 34#8 tag
            { s with panel := { s.panel with glitch := if s.panel.bound = ch then false else s.panel.glitch } } .ok
            (channelBytes s ch))) ∧
  (∀ (s : State) (ch : ChanId) (f : FeedId) (id : Nat) (c : Clip),
      let part := fun (r : List Byte) (o w : Nat) => (r.drop o).take w
      let opt := fun (w : Nat) (v : Option Nat) => match v with
        | none => List.replicate (w + 1) 0#8
        | some n => 1#8 :: leBytes w n
      let bits := fun l : List Bool => byteOf ((l.zipIdx.map fun p => if p.1 then 2 ^ p.2 else 0).sum)
      (let r := c.bytes id
       r.length = 44 ∧ part r 0 2 = leBytes 2 id ∧ part r 2 1 = [byteOf c.state.code] ∧ part r 3 1 = [byteOf c.feed.val] ∧
       part r 4 4 = leBytes 4 c.markIn ∧ part r 8 5 = opt 4 c.markOut ∧ part r 13 5 = opt 4 c.prevIn ∧
       part r 18 1 = [bits [c.swapped, c.defaulted, c.clampedFlag, c.warned]] ∧ part r 19 4 = leInt 4 c.nominal ∧
       part r 23 1 = [byteOf c.endMode.code] ∧ part r 24 1 = [boolByte c.watch] ∧ part r 25 2 = leBytes 2 c.label ∧
       part r 27 1 = [byteOf c.angles.length] ∧ part r 43 1 = [byteOf c.useCount] ∧
       (c.angles.length ≤ 3 → ∀ i, i < 3 → part r (28 + 5 * i) 5 = match c.angles[i]? with
         | none => List.replicate 5 0#8
         | some a => byteOf a.feed.val :: leInt 4 a.offset)) ∧
      (let x := s.feed f
       let r := x.bytes
       r.length = 57 ∧ part r 0 1 = [byteOf x.state.code] ∧
       part r 1 1 = [boolByte (decide (x.cfg.beginAddr ≤ x.cfg.endAddr))] ∧ part r 2 4 = leBytes 4 x.cfg.beginAddr ∧
       part r 6 4 = leBytes 4 x.cfg.endAddr ∧ part r 10 4 = leBytes 4 x.cfg.depth ∧ part r 14 1 = [byteOf x.cfg.stride] ∧
       part r 15 1 = [byteOf x.cfg.guard] ∧ part r 16 2 = leBytes 2 x.cfg.warn ∧ part r 18 8 = leBytes 8 x.nextFrame ∧
       part r 26 5 = opt 4 x.head ∧ part r 31 8 = leBytes 8 (x.nextFrame - x.cfg.depth + x.cfg.guard) ∧
       part r 39 5 = opt 4 (if x.nextFrame = 0 then none else some (x.nextFrame - x.cfg.depth)) ∧
       part r 44 1 = [byteOf x.buffer.length] ∧ part r 45 1 = [boolByte x.urgent] ∧
       part r 46 5 = opt 4 (x.openFrame.map (·.number)) ∧ part r 51 4 = leBytes 4 x.closing.length ∧
       part r 55 2 = opt 1 (x.lastCause.map (·.code))) ∧
      (let x := s.chan ch
       let r := channelBytes s ch
       r.length = 76 ∧ part r 0 1 = [byteOf x.state.code] ∧
       part r 1 3 = (match x.material with
         | none => [0#8, 0#8, 0#8]
         | some (.clip k) => 1#8 :: leBytes 2 k
         | some (.feed g) => 2#8 :: leBytes 2 g.val) ∧
       part r 4 8 = leBytes 8 x.pos ∧ part r 12 4 = leInt 4 x.speed ∧ part r 16 4 = leInt 4 x.target ∧
       part r 20 2 = leInt 2 x.lever ∧ part r 22 9 = (match x.window with
         | none => List.replicate 9 0#8
         | some w => 1#8 :: (leBytes 4 w.lo ++ leBytes 4 w.hi)) ∧
       part r 31 1 = [bits [x.atLive, x.atTail, x.slaveClamped, s.panel.glitch && decide (s.panel.bound = ch), x.preload]] ∧
       part r 32 2 = leInt 2 x.jog ∧ part r 34 5 = opt 4 (x.cueWait.map (·.frame)) ∧
       part r 39 1 = [bits [x.lastRec.shown.isSome, x.lastRec.repeated.isSome, x.lastRec.blendDropped]] ∧
       part r 40 11 = (match x.lastRec.shown with
         | none => List.replicate 11 0#8
         | some y => byteOf y.feed.val :: (leBytes 4 y.frame ++ opt 4 y.partner ++ [byteOf y.weight])) ∧
       part r 51 1 = [byteOf (match x.lastRec.repeated with | none => 0 | some k => k.code)] ∧
       part r 52 3 = opt 2 (x.lastRec.shown.bind (·.clip)) ∧ part r 55 1 = [byteOf (s.cache.activeFills ch)] ∧
       part r 56 1 = [byteOf x.opts.level] ∧
       part r 57 1 = [bits [x.opts.burst, x.opts.fairness, x.opts.blend, x.opts.followLive, x.opts.fetchMode == .and]] ∧
       part r 58 8 = [byteOf x.opts.lookahead, byteOf x.opts.preloadDepth, byteOf x.opts.idlePicture.code,
         byteOf x.opts.idleFeed.val] ++ leBytes 2 x.opts.ramp ++ leBytes 2 x.opts.jogStep ∧
       (∀ m g, masterOf s ch = some (m, g) → part r 66 10 = [2#8, byteOf m.val] ++ leInt 4 g.offset ++ List.replicate 4 0#8) ∧
       (masterOf s ch = none → s.gangs.get ch = [] → part r 66 10 = List.replicate 10 0#8) ∧
       (masterOf s ch = none → s.gangs.get ch ≠ [] → (s.gangs.get ch).length ≤ 3 →
         part r 66 10 = [1#8, 0#8, 0#8, 0#8, 0#8, 0#8, byteOf (s.gangs.get ch).length] ++
           (s.gangs.get ch).map (fun g => byteOf g.ch.val) ++ List.replicate (3 - (s.gangs.get ch).length) 0#8)))

/-- READ_ERROR answers with the store error latch and changes nothing; CLEAR_ERROR answers with the record as it
stood and empties the latch. Both are answered in both engagement states. -/
def Obligations.ErrorLatchIsReadAndCleared : Prop :=
  ∀ (s : State) (tag : Byte), s.ready →
    let record := match s.cache.errorLatch with
      | none => List.replicate 10 0#8
      | some e => 1#8 :: (leBytes 1 e.feed.val ++ leBytes 4 e.frame ++
          (match e.index with | none => [0#8, 0#8] | some k => 1#8 :: leBytes 1 k) ++
          [byteOf (if e.cause = .store then 0 else 1), boolByte e.more])
    exec (.readError tag []) s = answers 38#8 tag s .ok record ∧
    exec (.clearError tag []) s =
      answers 39#8 tag { s with cache := { s.cache with errorLatch := none } } .ok record

/-! ## Cue lists -/

/-- LIST_APPEND and LIST_INSERT: BAD_ARGUMENT (a channel above 3, a clip id above 1023, a position beyond the end),
LIST_FULL, NOT_FOUND and EXPIRED in that order; else the entry stands at its position, those from there on one place
down, the override clamped, and the clip's use count one higher. The 1-byte count of the reply is the model's choice
(log entry 35). -/
def Obligations.ListInsertPlacesTheEntry : Prop :=
  (∀ (s : State) (tag n : Byte) (pos id : Nat) (speed : Option Int), s.ready → pos < 256 → id < 65536 →
    (∀ v, speed = some v → fitsS 4 v) → 4 ≤ n.toNat →
    exec (.listAppend tag (n :: (leBytes 2 id ++ packS 4 speed))) s = answers 29#8 tag s .badArgument [] ∧
    exec (.listInsert tag (n :: byteOf pos :: (leBytes 2 id ++ packS 4 speed))) s =
      answers 30#8 tag s .badArgument []) ∧
  (∀ (s : State) (tag : Byte) (ch : ChanId) (pos id : Nat) (speed : Option Int), s.ready → pos < 256 → id < 65536 →
    (∀ v, speed = some v → fitsS 4 v) →
    let l := s.lists.get ch
    let insert := Instr.listInsert tag (byteOf ch.val :: byteOf pos :: (leBytes 2 id ++ packS 4 speed))
    let append := Instr.listAppend tag (byteOf ch.val :: (leBytes 2 id ++ packS 4 speed))
    let e : CueEntry := ⟨id, speed.map fun v => max (-32768) (min v 32768)⟩
    let st := takenAs (match speed with | none => false | some v => decide (v < -32768 ∨ 32768 < v))
    let after := fun k : Nat =>
      ({ s with lists := s.lists.set ch (l.take k ++ e :: l.drop k),
                clips := SMap.adjust s.clips id fun c => { c with useCount := c.useCount + 1 } } : State)
    (1023 < id → exec append s = answers 29#8 tag s .badArgument [] ∧
      exec insert s = answers 30#8 tag s .badArgument []) ∧
    (l.length < pos → exec insert s = answers 30#8 tag s .badArgument []) ∧
    (id ≤ 1023 → pos ≤ l.length →
      (16 ≤ l.length → exec append s = answers 29#8 tag s .listFull [] ∧
        exec insert s = answers 30#8 tag s .listFull []) ∧
      (l.length < 16 → SMap.find s.clips id = none → exec append s = answers 29#8 tag s .notFound [] ∧
        exec insert s = answers 30#8 tag s .notFound []) ∧
      (∀ c, l.length < 16 → SMap.find s.clips id = some c →
        (c.state = .expired → exec append s = answers 29#8 tag s .expired [] ∧
          exec insert s = answers 30#8 tag s .expired []) ∧
        (c.state ≠ .expired →
          exec append s = answers 29#8 tag (after l.length) st [byteOf l.length, byteOf (l.length + 1)] ∧
          exec insert s = answers 30#8 tag (after pos) st [byteOf pos, byteOf (l.length + 1)]))))

/-- LIST_REMOVE: a position not below the count is refused; else the entry leaves, those after it move up, its clip's
use count falls by one, and the reply carries the entry and the count after. LIST_CLEAR empties the list, sends one
release for each entry that stood in it, and replies with their number; nothing else changes. The 1-byte counts of
the replies are the model's choice (log entry 35). -/
def Obligations.ListRemoveAndClearTakeEntriesOut : Prop :=
  (∀ (s : State) (tag n p : Byte), s.ready →
      (4 ≤ n.toNat → exec (.listRemove tag [n, p]) s = answers 31#8 tag s .badArgument []) ∧
      (∀ ch : ChanId, n.toNat = ch.val →
        ((s.lists.get ch).length ≤ p.toNat → exec (.listRemove tag [n, p]) s = answers 31#8 tag s .badArgument []) ∧
        (∀ before e after, s.lists.get ch = before ++ e :: after → before.length = p.toNat →
          exec (.listRemove tag [n, p]) s =
            answers 31#8 tag
              { s with lists := s.lists.set ch (before ++ after)
                       clips := SMap.adjust s.clips e.clip fun c => { c with useCount := c.useCount - 1 } } .ok
              (leBytes 2 e.clip ++ (match e.speed with | none => [0#8, 0#8, 0#8, 0#8, 0#8] | some v => 1#8 :: leInt 4 v) ++
                leBytes 1 (before.length + after.length))))) ∧
  (∀ (s : State) (tag n : Byte), s.ready →
      (4 ≤ n.toNat → exec (.listClear tag [n]) s = answers 32#8 tag s .badArgument []) ∧
      (∀ ch : ChanId, n.toNat = ch.val → SMap.wf s.clips = true →
        ∃ t, exec (.listClear tag [n]) s = answers 32#8 tag t .ok (leBytes 1 (s.lists.get ch).length) ∧
          t = { s with lists := s.lists.set ch [], clips := t.clips } ∧
          ∀ id, SMap.find t.clips id = (SMap.find s.clips id).map fun c =>
            { c with useCount := c.useCount - (s.lists.get ch).countP fun e => e.clip == id }))

/-- TAKE_NEXT with no entry that can be taken is refused with NOT_FOUND and changes nothing, not even the list. Else
it takes the first entry whose clip is not EXPIRED and whose mark-in is not below the tail; the entries before it
leave with it. In CUED, JOG, LIVE and ENDED the clip is cued; in PLAYING and SHUTTLE the channel jumps into it with S
and its state kept and T_s the override or the nominal speed. CLIP_EXPIRED with the action SKIPPED is raised for each
entry passed over, then CLIP_TAKEN. The slaves of a master take the feeds and offsets of the clip's angle list; at a
cue they are placed, select and preload too, in the direction of the take, the model's choice (log entry 34); at a
running take they are left where they stand. The preload lookups go out from the entry frame in the direction of the
take; at a cue the cue wait names the entry frame unless its lookup answered RESIDENT; an answer DAMAGED sets the
damaged mark. The 1-byte count of entries left in the reply is the model's choice (log entry 35). That the master's
own lookups come first, then the derivation of every slave with the release of lost slaves' pins, then each slave's
lookups in turn, is the model's choice (log entry 18), as is that the damaged mark of a lost slave goes with its
selection (log entry 21). A chosen clip whose window is empty, which no run reaches, refuses the command with
NO_HEAD, the model's choice (log entry 17). -/
def Obligations.TakeNextTakesTheChosenEntry : Prop :=
  (∀ (s : State) (tag : Byte) (ch : ChanId), s.ready → s.engaged = .engaged → (s.chan ch).state ≠ .idle →
      (s.chan ch).state ≠ .slave →
      (∀ e ∈ s.lists.get ch, SMap.find s.clips e.clip = none ∨
        ∃ c, SMap.find s.clips e.clip = some c ∧ (c.state = .expired ∨ c.markIn < (s.feed c.feed).tail)) →
      exec (.takeNext tag [byteOf ch.val]) s = answers 18#8 tag s .notFound []) ∧
  (∀ (s : State) (tag : Byte) (ch : ChanId) (passed rest : List CueEntry) (e : CueEntry) (c : Clip),
      s.ready → s.engaged = .engaged → (s.chan ch).state ≠ .idle → (s.chan ch).state ≠ .slave →
      s.lists.get ch = passed ++ e :: rest →
      (∀ p ∈ passed, ∃ d, SMap.find s.clips p.clip = some d ∧
        (d.state = .expired ∨ d.markIn < (s.feed d.feed).tail)) →
      SMap.find s.clips e.clip = some c → c.state ≠ .expired → (s.feed c.feed).tail ≤ c.markIn →
      c.window (s.feed c.feed) = none →
      exec (.takeNext tag [byteOf ch.val]) s = answers 18#8 tag s .noHead []) ∧
  (∀ (s : State) (tag : Byte) (ch : ChanId) (passed rest : List CueEntry) (e : CueEntry) (c : Clip) (w : Window),
      s.ready → s.engaged = .engaged → (s.chan ch).state ≠ .idle → (s.chan ch).state ≠ .slave → GangsApart s →
      s.lists.get ch = passed ++ e :: rest →
      (∀ p ∈ passed, ∃ d, SMap.find s.clips p.clip = some d ∧
        (d.state = .expired ∨ d.markIn < (s.feed d.feed).tail)) →
      SMap.find s.clips e.clip = some c → c.state ≠ .expired → (s.feed c.feed).tail ≤ c.markIn →
      c.window (s.feed c.feed) = some w →
      let x := s.chan ch
      let goal := e.speed.getD c.nominal
      let runs := x.state = .playing ∨ x.state = .shuttle
      let reverse : Prop := if runs then (x.speed < 0 ∨ (x.speed = 0 ∧ goal < 0)) else goal < 0
      let named := fun r : Bool => if r then (match c.markOut with
        | some o => o
        | none => ((s.feed c.feed).head).getD c.markIn) else c.markIn
      ∀ r : Bool, (r = true ↔ reverse) →
        let frame := max w.lo (min w.hi (named r))
        let answer := (lookup ch c.feed frame s).2
        let depth := x.opts.preloadDepth
        ∃ t, exec (.takeNext tag [byteOf ch.val]) s = answers 18#8 tag t .ok
            (leBytes 2 e.clip ++ leBytes 4 frame ++
              [byteOf (if x.state = .playing then 2 else if x.state = .shuttle then 3 else 1), byteOf rest.length]) ∧
          t.lists = s.lists.set ch rest ∧ t.feeds = s.feeds ∧ t.panel = s.panel ∧ t.arbiter = s.arbiter ∧
          (∀ d, d ≠ ch → (∀ g ∈ s.gangs.get ch, g.ch ≠ d) → t.chan d = s.chan d) ∧
          t.chan ch = { x with
            material := some (.clip e.clip), pos := frame * 1024, atLive := false, atTail := false, window := some w,
            preload := true, damaged := decide (0 < depth ∧ answer = .notAvailable .damaged),
            cueWait := if runs ∨ (0 < depth ∧ answer = .resident) then none else some ⟨c.feed, frame⟩,
            idleSel := if runs then x.idleSel else none,
            speed := if runs then x.speed else 0, target := if runs then goal else 0,
            state := if runs then x.state else .cued,
            selection := some { feed := c.feed, frame := frame, partner := none, weight := 0, clip := some e.clip } } ∧
          (s.cells.length = 54 → (t.cell (8 + ch.val)).latch = true ∧
            (t.cell (8 + ch.val)).detail = some (.clipTaken e.clip frame .take rest.length)) ∧
          (s.cells.length = 54 → t.cell 50 = (raiseSkipped ch passed s).cell 50) ∧
          (let gs := assigned (s.gangs.get ch) c.angles
           (runs → t.gangs = s.gangs.set ch gs ∧ ∀ g ∈ gs, t.chan g.ch = onAngle g (s.chan g.ch)) ∧
           (¬ runs → GangsWhole s → GangCued s t ch gs w (slavePreload r)
             (lookedUp ch c.feed (preloadList r w frame depth) s))) ∧
          (runs ∨ s.gangs.get ch = [] → t.cache = (lookedUp ch c.feed (preloadList r w frame depth) s).cache))

/-! ## Ingest -/

/-- A frame start in WAITING or RECORDING with a number left: frame N takes entry N mod D as WRITING and is the open
frame, N rises by one, the feed is RECORDING, and the overwrite notice goes to Frame Cache and Clip Table exactly
when N is D or higher, with the lost frame and the tail after the start; in OFF and EXHAUSTED it is discarded. In
RECORDING with every number used it is refused: the open frame closes, the feed is EXHAUSTED, and FEED_EXHAUSTED is
raised. An open frame is closed first as a frame end closes it, with TRUNCATED marked. A frame whose entry is still
WRITING is overtaken: its fragments leave the buffer, it leaves the pending list for the head with its cause or
DROPPED, its entry is not written, and the frames behind it that are written finish. -/
def Obligations.FrameStartOpensTheNextFrame : Prop :=
  (∀ (s : State) (f : FeedId),
      let x := s.feed f
      let n := x.nextFrame
      ((x.state = .off ∨ x.state = .exhausted) → exec (.frameStartMark f) s = .next s) ∧
      ((x.state = .waiting ∨ x.state = .recording) → n < 4294967296 →
        ∃ t, exec (.frameStartMark f) s = .next t ∧
          (t.feed f).nextFrame = n + 1 ∧ (t.feed f).state = .recording ∧ (t.feed f).cfg = x.cfg ∧
          (t.feed f).openFrame = some { number := n, arrivals := 0, crc := 0xFFFFFFFF#32, cause := none } ∧
          (SMap.wf x.directory = true → SMap.find (t.feed f).directory (n % x.cfg.depth) =
            some { frame := n, state := .writing, count := 0, crc := none }) ∧
          (let notice := if x.cfg.depth ≤ n then
              [OverwriteNotice.mk (n - x.cfg.depth) (n + 1 - x.cfg.depth + x.cfg.guard)] else []
           (t.feed f).cacheNotices = x.cacheNotices ++ notice ∧ (t.feed f).clipNotices = x.clipNotices ++ notice) ∧
          (∀ g, g ≠ f → t.feed g = s.feed g) ∧
          t = { s with feeds := t.feeds, cells := t.cells, link := t.link })) ∧
  (∀ (s t : State) (f : FeedId) (o : OpenFrame), (s.feed f).state = .recording → (s.feed f).openFrame = some o →
      let marked := { o with cause := some (o.cause.getD .truncated) }
      exec (.frameEndMark f) (s.setFeed f { s.feed f with openFrame := some marked }) = .next t →
      exec (.frameStartMark f) s = exec (.frameStartMark f) t) ∧
  (∀ (s : State) (f : FeedId), (s.feed f).state = .waiting ∨ (s.feed f).state = .recording →
      (s.feed f).nextFrame < 4294967296 → (s.feed f).openFrame = none →
      let x := s.feed f
      let n := x.nextFrame
      let entry := SMap.find x.directory (n % x.cfg.depth)
      let notice := if x.cfg.depth ≤ n then
        [OverwriteNotice.mk (n - x.cfg.depth) (n + 1 - x.cfg.depth + x.cfg.guard)] else []
      let opened := fun y : Feed => { y with
        nextFrame := n + 1
        directory := SMap.put y.directory (n % x.cfg.depth) { frame := n, state := .writing, count := 0, crc := none }
        cacheNotices := x.cacheNotices ++ notice, clipNotices := x.clipNotices ++ notice, state := .recording
        openFrame := some { number := n, arrivals := 0, crc := 0xFFFFFFFF#32, cause := none } }
      ((∀ e, entry = some e → e.state ≠ .writing) → exec (.frameStartMark f) s = .next (s.setFeed f (opened x))) ∧
      (∀ e done left, entry = some e → e.state = .writing →
        let buf := x.buffer.filter fun g => g.frame != e.frame
        let behind := x.closing.filter fun p => p.number != e.frame
        let cause := match x.closing.find? fun p => p.number == e.frame with
          | some p => p.cause.getD .dropped
          | none => .dropped
        let y := { x with
          buffer := buf, closing := behind, head := some e.frame, lastCause := some cause
          urgent := if 64 ≤ buf.length then true else if buf.length ≤ 16 then false else x.urgent }
        FinishSplit behind buf done left →
        exec (.frameStartMark f) s = .next (raiseFinished f done (raise f.val (.ingestDamage e.frame cause)
          (s.setFeed f (opened (y.afterFinish done left))))))) ∧
  (∀ (s : State) (f : FeedId), (s.feed f).state = .recording → (s.feed f).nextFrame = 4294967296 →
      ∃ t, exec (.frameStartMark f) s = .next t ∧ (t.feed f).state = .exhausted ∧
        (t.feed f).nextFrame = 4294967296 ∧ (t.feed f).openFrame = none ∧
        (s.cells.length = 54 → (t.cell (40 + f.val)).latch = true ∧
          (t.cell (40 + f.val)).detail = some (.feedExhausted 4294967295)) ∧
        (∀ g, g ≠ f → t.feed g = s.feed g))

/-- A fragment at a feed's port: with no open frame it is discarded; else it takes the next index and is discarded
with OVERSIZE at stride or higher, discarded with DROPPED at a full buffer, or joins the buffer and the running CRC. -/
def Obligations.FragmentTakesTheNextIndex : Prop :=
  ∀ (s : State) (f : FeedId) (d : Fragment),
    let x := s.feed f
    (x.openFrame = none → exec (.fragmentArrival f d) s = .next s) ∧
    (∀ o, x.openFrame = some o →
      let marked := fun c => some (match o.cause with | some p => p | none => c)
      (x.cfg.stride ≤ o.arrivals → exec (.fragmentArrival f d) s = .next (s.setFeed f
        { x with openFrame := some { o with arrivals := o.arrivals + 1, cause := marked .oversize } })) ∧
      (o.arrivals < x.cfg.stride → 96 ≤ x.buffer.length → exec (.fragmentArrival f d) s = .next (s.setFeed f
        { x with openFrame := some { o with arrivals := o.arrivals + 1, cause := marked .dropped } })) ∧
      (o.arrivals < x.cfg.stride → x.buffer.length < 96 → exec (.fragmentArrival f d) s = .next (s.setFeed f
        { x with
          openFrame := some { o with arrivals := o.arrivals + 1, crc := crc32Feed o.crc d }
          buffer := x.buffer ++ [⟨o.number, o.arrivals, d⟩]
          urgent := if 64 ≤ x.buffer.length + 1 then true else if x.buffer.length + 1 ≤ 16 then false
            else x.urgent })))

/-- A frame end: with no open frame nothing happens; with nothing ahead in the pending list and no fragment of the
frame buffered the frame finishes at once, COMPLETE or DAMAGED, and is the head; else it waits at the end of the
list. The frames at the front of the list whose fragments are all written finish in turn, and INGEST_DAMAGE is raised
for each that finishes DAMAGED. -/
def Obligations.FrameEndClosesTheFrame : Prop :=
  ∀ (s : State) (f : FeedId),
    let x := s.feed f
    (x.openFrame = none → exec (.frameEndMark f) s = .next s) ∧
    (∀ o, x.openFrame = some o →
      let p : ClosedFrame := { number := o.number, count := min o.arrivals x.cfg.stride, crc := crc32Final o.crc,
                               cause := o.cause }
      let cause : Option DamageCause := match o.cause with
        | some c => some c
        | none => if p.count = 0 then some .empty else none
      let ended : EntryState := match cause with | some c => .damaged c | none => .complete
      let entry : Entry := { frame := o.number, count := p.count, crc := some p.crc, state := ended }
      let done := s.setFeed f { x with openFrame := none, head := some o.number, lastCause := cause,
                                       directory := SMap.put x.directory (o.number % x.cfg.depth) entry }
      (x.closing = [] → (∀ g ∈ x.buffer, g.frame ≠ o.number) → exec (.frameEndMark f) s =
        .next (match cause with | some c => raise f.val (.ingestDamage o.number c) done | none => done)) ∧
      ((∃ q rest, x.closing ++ [p] = q :: rest ∧ ∃ g ∈ x.buffer, g.frame = q.number) →
        exec (.frameEndMark f) s = .next (s.setFeed f { x with openFrame := none, closing := x.closing ++ [p] })) ∧
      (∀ done left, FinishSplit (x.closing ++ [p]) x.buffer done left → exec (.frameEndMark f) s =
        .next (raiseFinished f done (s.setFeed f { x.afterFinish done left with openFrame := none })))) ∧
    (∀ p : ClosedFrame,
      p.finalCause = (match p.cause with | some c => some c | none => if p.count = 0 then some .empty else none) ∧
      p.finished = { frame := p.number, count := p.count, crc := some p.crc,
                     state := match p.finalCause with | some c => .damaged c | none => .complete })

/-- The Ingest Controller takes a damage report on its way: a COMPLETE entry that holds the frame becomes DAMAGED
with cause CHECK and INGEST_DAMAGE is raised; any other entry leaves the report without effect. -/
def Obligations.DamageReportMarksCheck : Prop :=
  ∀ (s : State) (f : FeedId) (n : Nat), (f, n) ∈ s.cache.damageReports →
    let x := s.feed f
    let t : State := { s with cache := { s.cache with damageReports := s.cache.damageReports.erase (f, n) } }
    (∀ e, SMap.find x.directory (n % x.cfg.depth) = some e → e.frame = n → e.state = .complete →
      let entries := SMap.put x.directory (n % x.cfg.depth) { e with state := .damaged .check }
      exec (.damageReport f n) s =
        .next (raise f.val (.ingestDamage n .check) (t.setFeed f { x with directory := entries }))) ∧
    ((∀ e, SMap.find x.directory (n % x.cfg.depth) = some e → e.frame ≠ n ∨ e.state ≠ .complete) →
      exec (.damageReport f n) s = .next t)

/-! ## Frame Cache -/

/-- The Frame Cache takes the oldest overwrite notice: a VALID slot with the lost frame leaves the LRU list and
becomes INVALID without pins and ORPHAN with them; a FILLING slot with the lost frame aborts its fill with reason
OVERRUN, its victim restored as R144 gives; every other slot stays, but for a victim that is the lost frame, which is
dropped in each. With no notice on its way nothing happens (delivery: log entry 4). -/
def Obligations.CacheTakesTheOverwriteNotice : Prop :=
  ∀ (s : State) (f : FeedId),
    ((s.feed f).cacheNotices = [] → exec (.cacheOverwriteNotice f) s = .next s) ∧
    (∀ n rest, (s.feed f).cacheNotices = n :: rest →
      ∃ t, exec (.cacheOverwriteNotice f) s = .next t ∧
        t.feed f = { s.feed f with cacheNotices := rest } ∧ (∀ g, g ≠ f → t.feed g = s.feed g) ∧
        t = { s with feeds := t.feeds, cache := t.cache } ∧ t.cache.pins = s.cache.pins ∧
        (∀ i x, SMap.wf s.cache.slots = true → TagsDistinct s → SMap.find s.cache.slots i = some x →
          x.feed = f → x.frame = n.lost → x.state = .valid →
          i ∉ t.cache.lru ∧
          (s.cache.pinCount i = 0 → SMap.find t.cache.slots i = none) ∧
          (0 < s.cache.pinCount i → ∃ y, SMap.find t.cache.slots i = some y ∧ y.state = .orphan ∧ y.feed = f ∧
            y.frame = n.lost ∧ y.data = x.data)) ∧
        (let drop := fun x : Slot =>
           if x.victim.any (fun v => v.feed == f && v.frame == n.lost) then { x with victim := none } else x
         let kept : Cache := { s.cache with slots := s.cache.slots.map fun r => (r.1, drop r.2) }
         ((∀ i x, (i, x) ∈ s.cache.slots → x.feed = f → x.frame ≠ n.lost) → t.cache = kept) ∧
         (∀ i x, SMap.find s.cache.slots i = some x → TagsDistinct s → SMap.wf s.cache.slots = true →
           x.feed = f → x.frame = n.lost →
           (∀ j y, j ≠ i → SMap.find s.cache.slots j = some y → SMap.find t.cache.slots j = some (drop y)) ∧
           (x.state = .valid → t.cache = { s.cache with slots := t.cache.slots
                                                        lru := s.cache.lru.filter fun j => j != i }) ∧
           (∀ k z, x.state = .filling → x.context = some k → SMap.find s.cache.fills k = some z → z.slot = i →
             SMap.wf s.cache.fills = true → Aborted kept t.cache k z (drop x) .overrun) ∧
           (x.state = .orphan → t.cache = kept))))

/-- The five answers of a lookup, in the order of R135: out of range; DAMAGED; RESIDENT, with the slot moved to the
most-recent end; WAIT on a running fill, which the channel joins once; a miss, which starts a fill or is BUSY. An
allocation succeeds exactly when the channel owns fewer than 4 active fills, a context is free, a slot qualifies and
the directory read gives an entry, which it does exactly for an entry that holds the frame COMPLETE with its CRC, and
gives DAMAGED with the cause exactly for one that holds it DAMAGED; it takes the lowest INVALID slot, else the least
recent unpinned one. A channel's own lookups go out in order while its fetch permit holds, and none without it; of
the answers, RESIDENT for the frame of the cue wait clears it and raises CUE_READY, and DAMAGED for the selected
frame sets the damaged mark. Three cases that no run reaches are BUSY and change nothing, the model's choice (log
entry 20): a miss whose directory read gives no entry, a tag that an ORPHAN slot carries, and one of a FILLING slot
without a fill. -/
def Obligations.LookupAnswersByTheFirstCase : Prop :=
  (∀ (s : State) (ch : ChanId) (f : FeedId) (n : Nat),
      let x := s.feed f
      ((∀ w, x.range = some w → n < w.lo ∨ w.hi < n) → lookup ch f n s = (s, .notAvailable .range)) ∧
      (∀ w, x.range = some w → w.lo ≤ n → n ≤ w.hi →
        ((∃ e c, x.entry n = some e ∧ e.frame = n ∧ e.state = .damaged c) →
          lookup ch f n s = (s, .notAvailable .damaged)) ∧
        ((¬ ∃ e c, x.entry n = some e ∧ e.frame = n ∧ e.state = .damaged c) →
          (∀ i y, s.cache.tagged f n = some (i, y) → y.state = .valid →
            lookup ch f n s =
              ({ s with cache := { s.cache with lru := s.cache.lru.filter (fun k => k != i) ++ [i] } }, .resident)) ∧
          (∀ i y k, s.cache.tagged f n = some (i, y) → y.state = .filling → y.context = some k →
            let joined := SMap.adjust s.cache.fills k fun z =>
              if ch ∈ z.waiters then z else { z with waiters := z.waiters ++ [ch] }
            lookup ch f n s = ({ s with cache := { s.cache with fills := joined } }, .wait)) ∧
          (∀ i y, s.cache.tagged f n = some (i, y) → y.state = .orphan ∨ (y.state = .filling ∧ y.context = none) →
            lookup ch f n s = (s, .busy)) ∧
          (s.cache.tagged f n = none →
            (s.cache.allocate ch f n (x.read n) = none → lookup ch f n s = (s, .busy)) ∧
            (∀ c, s.cache.allocate ch f n (x.read n) = some c → lookup ch f n s = ({ s with cache := c }, .wait)))))) ∧
  (∀ (x : Feed) (n base count : Nat) (crc : BitVec 32), x.read n = .entry base count crc ↔
      base = x.cfg.beginAddr + (n % x.cfg.depth) * x.cfg.stride ∧ x.entry n = some ⟨n, .complete, count, some crc⟩) ∧
  (∀ (x : Feed) (n : Nat) (cause : DamageCause),
      x.read n = .damaged cause ↔ ∃ e, x.entry n = some e ∧ e.frame = n ∧ e.state = .damaged cause) ∧
  (∀ (c : Cache) (ch : ChanId) (f : FeedId) (n : Nat) (read : DirAnswer),
      (∀ base count crc, read ≠ .entry base count crc) → c.allocate ch f n read = none) ∧
  (∀ (c : Cache) (ch : ChanId) (f : FeedId) (n base count : Nat) (crc : BitVec 32),
      (4 ≤ c.activeFills ch → c.allocate ch f n (.entry base count crc) = none) ∧
      (SMap.firstFree c.fills 8 = none → c.allocate ch f n (.entry base count crc) = none) ∧
      (SMap.firstFree c.slots 128 = none → (∀ i ∈ c.lru, 0 < c.pinCount i) →
        c.allocate ch f n (.entry base count crc) = none) ∧
      (∀ k i, c.activeFills ch < 4 → SMap.firstFree c.fills 8 = some k →
        (SMap.firstFree c.slots 128 = some i ∨
          (SMap.firstFree c.slots 128 = none ∧ c.lru.find? (fun j => c.pinCount j == 0) = some i)) →
        ∃ d, c.allocate ch f n (.entry base count crc) = some d ∧
          SMap.find d.slots i = some
            { state := .filling, feed := f, frame := n, count := count, data := [], context := some k,
              victim := (SMap.find c.slots i).map fun x => ⟨x.feed, x.frame, x.count, x.data⟩ } ∧
          SMap.find d.fills k = some
            { slot := i, owner := ch, waiters := [ch], order := c.activeFills ch, age := 0, base := base,
              count := count, crc := crc, next := 0, retried := false, running := 0xFFFFFFFF#32 } ∧
          i ∉ d.lru ∧ d.pins = c.pins ∧ d.errorLatch = c.errorLatch)) ∧
  (∀ (s : State) (ch : ChanId) (f : FeedId) (n : Nat) (rest : List Nat),
      let x := s.chan ch
      let permit := match x.state with
        | .idle => False
        | .slave => True
        | _ => x.opts.fetchMode = .or ∨ x.preload = true
      let r := lookup ch f n s
      let clip := match x.material with | some (.clip id) => some id | _ => none
      (¬ permit → sendLookups ch f (n :: rest) s = s) ∧ sendLookups ch f [] s = s ∧
      (permit → sendLookups ch f (n :: rest) s = sendLookups ch f rest (sendLookup ch f n s)) ∧
      (r.2 = .resident → x.cueWait = some ⟨f, n⟩ →
        sendLookup ch f n s = raise ch.val (.cueReady clip f n) (r.1.setChan ch { x with cueWait := none })) ∧
      (∀ sel, r.2 = .notAvailable .damaged → x.selection = some sel → sel.feed = f → sel.frame = n →
        sendLookup ch f n s = r.1.setChan ch { x with damaged := true }) ∧
      (¬ (r.2 = .resident ∧ x.cueWait = some ⟨f, n⟩) →
        ¬ (r.2 = .notAvailable .damaged ∧ ∃ sel, x.selection = some sel ∧ sel.feed = f ∧ sel.frame = n) →
        sendLookup ch f n s = r.1))

/-- A fill's beat with result OK: the fragment is read at base plus index and stored; the last one completes the fill
when the CRC matches, leaving the slot VALID and most recent, the context free and a RESIDENT report to every waiter,
and else gives the slot up with a damage report, frees the context, reports DAMAGED and enters the cause CHECK in the
store error latch. With result STORE the cause STORE enters that latch with the fragment's index; fragment 0 is tried
once more with its victim kept; any other error, the second at fragment 0 among them, aborts the fill with reason
STORE: the victim, if it is still held and no other slot carries its tag, is VALID again at the least-recent end, and
else the slot is INVALID. An error that finds the latch empty is recorded there and raises STORE_ERROR with the same
detail; one that finds it held sets MORE, keeps the record and raises nothing. -/
def Obligations.FillBeatTransfersOrFails : Prop :=
  (∀ (s : State) (d : Fragment) (a : Arbiter) (ch : ChanId) (k : Nat) (z : Fill) (x : Slot),
      decideBeat s = (a, .chan ch) → presentedFill s ch = some (k, z) → SMap.find s.cache.fills k = some z →
      SMap.find s.cache.slots z.slot = some x →
      let z' := { z with running := crc32Feed z.running d, retried := false, next := z.next + 1 }
      let x' := { x with data := x.data ++ [d], victim := none }
      (z.next + 1 ≠ z.count → exec (.beat .ok d) s = .next { s with
        arbiter := a
        storePort := .read z.owner (z.base + z.next)
        cache := { s.cache with slots := SMap.put s.cache.slots z.slot x', fills := SMap.put s.cache.fills k z' } }) ∧
      (z.next + 1 = z.count → crc32Final z'.running = z.crc →
        ∃ t, exec (.beat .ok d) s = .next t ∧
          t = { s with arbiter := a, storePort := .read z.owner (z.base + z.next), cache := t.cache } ∧
          SMap.find t.cache.slots z.slot = some { x' with state := .valid, context := none } ∧
          t.cache.lru = s.cache.lru.filter (fun i => i != z.slot) ++ [z.slot] ∧
          (SMap.wf s.cache.fills = true → SMap.find t.cache.fills k = none) ∧ t.cache.pins = s.cache.pins ∧
          (∀ w, z.waiters.Nodup → t.cache.reports.get w = s.cache.reports.get w ++
            (if w ∈ z.waiters then [⟨x.feed, x.frame, none⟩] else []))) ∧
      (z.next + 1 = z.count → crc32Final z'.running ≠ z.crc →
        ∃ t, exec (.beat .ok d) s = .next t ∧
          (SMap.wf s.cache.slots = true → SMap.find t.cache.slots z.slot = none) ∧
          (SMap.wf s.cache.fills = true → SMap.find t.cache.fills k = none) ∧
          t.cache.damageReports = s.cache.damageReports ++ [(x.feed, x.frame)] ∧
          (s.cache.errorLatch = none → t.cache.errorLatch = some ⟨x.feed, x.frame, none, .check, false⟩ ∧
            let u := raise 0 (.storeError x.feed x.frame none .check) s
            t.cells = u.cells ∧ t.link = u.link) ∧
          (∀ e, s.cache.errorLatch = some e →
            t.cache.errorLatch = some { e with more := true } ∧ t.cells = s.cells ∧ t.link = s.link) ∧
          (∀ w, z.waiters.Nodup → t.cache.reports.get w = s.cache.reports.get w ++
            (if w ∈ z.waiters then [⟨x.feed, x.frame, some .damaged⟩] else [])))) ∧
  (∀ (s : State) (d : Fragment) (a : Arbiter) (ch : ChanId) (k : Nat) (z : Fill) (x : Slot),
      decideBeat s = (a, .chan ch) → presentedFill s ch = some (k, z) → SMap.find s.cache.fills k = some z →
      SMap.find s.cache.slots z.slot = some x →
      ∃ t, exec (.beat .store d) s = .next t ∧ t.storePort = .read z.owner (z.base + z.next) ∧ t.arbiter = a ∧
        (s.cache.errorLatch = none → t.cache.errorLatch = some ⟨x.feed, x.frame, some z.next, .store, false⟩ ∧
          let u := raise 0 (.storeError x.feed x.frame (some z.next) .store) s
          t.cells = u.cells ∧ t.link = u.link) ∧
        (∀ e, s.cache.errorLatch = some e →
          t.cache.errorLatch = some { e with more := true } ∧ t.cells = s.cells ∧ t.link = s.link) ∧
        (z.next = 0 → z.retried = false → t.cache.slots = s.cache.slots ∧
          SMap.find t.cache.fills k = some { z with retried := true } ∧ t.cache.reports = s.cache.reports) ∧
        (¬ (z.next = 0 ∧ z.retried = false) → SMap.wf s.cache.fills = true → SMap.wf s.cache.slots = true →
          Aborted { s.cache with errorLatch := t.cache.errorLatch } t.cache k z x .store ∧
          SMap.find t.cache.fills k = none ∧
          (x.victim = none → SMap.find t.cache.slots z.slot = none) ∧
          (∀ w, z.waiters.Nodup → t.cache.reports.get w = s.cache.reports.get w ++
            (if w ∈ z.waiters then [⟨x.feed, x.frame, some .store⟩] else []))))

/-- The Frame Cache counts a tick (its pairing with the tick's presentation is the model's choice, log entry 5):
every fill of the channel ages by one, and no other fill; with no fill that reaches 4 nothing else changes. A fill of
the channel that alone reaches it aborts with reason TIMEOUT, whatever other fills there are: its context is free,
its slot is decided as R144 gives, the owner's preload flag is cleared, FETCH_TIMEOUT reaches the owner's cell, every
waiter is told, and nothing else changes. Where several reach it, each of them ends (their order is the model's
choice, log entry 6), and every other fill goes on. -/
def Obligations.FetchTimeoutAgesAndAborts : Prop :=
  (∀ (s : State) (ch : ChanId), s.cache.ticks.get ch ≠ .counted →
      (∀ r ∈ s.cache.fills, r.2.owner = ch → r.2.age < 3) →
      let aged := s.cache.fills.map fun r =>
        if r.2.owner = ch then (r.1, { r.2 with age := r.2.age + 1 }) else r
      let phase := if s.cache.ticks.get ch = .settled then TickPhase.counted else .settled
      exec (.fetchTimeout ch) s =
        .next { s with cache := { s.cache with ticks := s.cache.ticks.set ch phase, fills := aged } }) ∧
  (∀ (s : State) (ch : ChanId) (k : Nat) (z : Fill) (x : Slot), s.cache.ticks.get ch ≠ .counted →
      SMap.wf s.cache.fills = true → SMap.wf s.cache.slots = true → SMap.find s.cache.fills k = some z → z.owner = ch →
      3 ≤ z.age → (∀ r ∈ s.cache.fills, r.1 ≠ k → r.2.owner = ch → r.2.age < 3) →
      SMap.find s.cache.slots z.slot = some x →
      let aged := s.cache.fills.map fun r =>
        if r.2.owner = ch then (r.1, { r.2 with age := r.2.age + 1 }) else r
      let phase := if s.cache.ticks.get ch = .settled then TickPhase.counted else .settled
      let u := raise ch.val (.fetchTimeout x.feed x.frame k z.next) s
      ∃ t, exec (.fetchTimeout ch) s = .next t ∧
        Aborted { s.cache with ticks := s.cache.ticks.set ch phase, fills := aged } t.cache k
          { z with age := z.age + 1 } x .timeout ∧
        t = { s with cache := t.cache, cells := u.cells, link := u.link,
                     chans := s.chans.set ch { s.chan ch with preload := false } }) ∧
  (∀ (s : State) (ch : ChanId), s.cache.ticks.get ch ≠ .counted → SMap.wf s.cache.fills = true →
      ∃ t, exec (.fetchTimeout ch) s = .next t ∧
        ∀ k z, SMap.find s.cache.fills k = some z →
          (z.owner = ch → 3 ≤ z.age → SMap.find t.cache.fills k = none ∧ (t.chan ch).preload = false) ∧
          (z.owner = ch → z.age < 3 → ∃ o, SMap.find t.cache.fills k = some { z with age := z.age + 1, order := o }) ∧
          (z.owner ≠ ch → SMap.find t.cache.fills k = some z)) ∧
  (∀ (s : State) (ch : ChanId) (k : Nat) (z : Fill) (x : Slot), s.cache.ticks.get ch ≠ .counted →
      s.cache.fills = [(k, z)] → z.owner = ch → z.age = 3 → SMap.find s.cache.slots z.slot = some x →
      s.cells.length = 54 →
      ∃ t, exec (.fetchTimeout ch) s = .next t ∧ t.cache.fills = [] ∧
        t.chan ch = { s.chan ch with preload := false } ∧ (∀ d, d ≠ ch → t.chan d = s.chan d) ∧
        (t.cell (28 + ch.val)).latch = true ∧
        (t.cell (28 + ch.val)).detail = some (.fetchTimeout x.feed x.frame k z.next) ∧
        t.feeds = s.feeds ∧ t.arbiter = s.arbiter ∧
        (∀ w, z.waiters.Nodup → t.cache.reports.get w = s.cache.reports.get w ++
          (if w ∈ z.waiters then [⟨x.feed, x.frame, some .timeout⟩] else [])))

/-- A fill report reaches a waiting channel as the answer of its name: RESIDENT for the frame of a cue wait clears
the wait and raises CUE_READY; DAMAGED for the selected frame sets the damaged mark; any other changes nothing but
the report's place on its way. The selection it meets is the one a whole tick left (R102; log entry 40). -/
def Obligations.FillReportActsAsTheAnswer : Prop :=
  ∀ (s : State) (ch : ChanId) (f : FeedId) (n : Nat) (r : FillReport) (before after : List FillReport),
    s.cache.reports.get ch = before ++ r :: after → r.feed = f → r.frame = n →
    (∀ q ∈ before, q.feed ≠ f ∨ q.frame ≠ n) →
    let x := s.chan ch
    let t : State := { s with cache := { s.cache with reports := s.cache.reports.set ch (before ++ after) } }
    let clip := match x.material with | some (.clip id) => some id | _ => none
    (r.failed = none → x.cueWait = some ⟨f, n⟩ →
      exec (.fillReport ch f n) s = .next (raise ch.val (.cueReady clip f n) (t.setChan ch { x with cueWait := none }))) ∧
    (r.failed = none → x.cueWait ≠ some ⟨f, n⟩ → exec (.fillReport ch f n) s = .next t) ∧
    (∀ sel, r.failed = some .damaged → x.selection = some sel → sel.feed = f → sel.frame = n →
      exec (.fillReport ch f n) s = .next (t.setChan ch { x with damaged := true })) ∧
    (∀ why, r.failed = some why → (why ≠ .damaged ∨ ∀ sel, x.selection = some sel → sel.feed ≠ f ∨ sel.frame ≠ n) →
      exec (.fillReport ch f n) s = .next t)

/-! ## Store Arbiter -/

/-- While a feed is urgent the beat goes to an urgent feed, no urgent feed lying before it from the urgent pointer,
which then names the feed after it; a burst ends and its gap beat is owed. A burst holder is preempted by an urgent
feed or by a channel of a lower level number, and deferred with fairness on; it loses the port when its burst option
is found off, and after eight idle beats while others wait; else the beat is its own. Without a holder an owed gap
beat, and a beat that no channel wants, goes to the first requesting feed from the gap pointer, or lapses; the other
beats go to the first channel from the channel pointer among the candidates of the lowest level number, which becomes
the holder with burst on and owes a gap beat with burst off. A channel presents its fill of the lowest level number,
the earliest of several; a fill's level is the least of its waiters'. The idle count 0 at a burst option found off is
the model's choice (log entry 38). -/
def Obligations.BeatServesUrgentIngestThenTheLeastLevel : Prop :=
  (∀ s : State, (∃ f, feedUrgent s f = true) →
      ∃ f a, decideBeat s = (a, .feed f) ∧ feedUrgent s f = true ∧
        (∀ k : Fin 8, k < f - s.arbiter.urgentPtr → feedUrgent s (s.arbiter.urgentPtr + k) = false) ∧
        a.urgentPtr = f + 1 ∧ a.gapPtr = s.arbiter.gapPtr ∧ a.chanPtr = s.arbiter.chanPtr ∧ a.holder = none ∧
        (s.arbiter.holder ≠ none → a.gapOwed = true) ∧ (s.arbiter.holder = none → a.gapOwed = s.arbiter.gapOwed)) ∧
  (∀ (s : State) (a : Arbiter) (ch : ChanId), s.arbiter.holder = none → decideBeat s = (a, .chan ch) →
      let b := s.arbiter.update s
      (∀ f, feedUrgent s f = false) ∧ b.eligible s ch = true ∧
      (∀ d, b.eligible s d = true → chanLevel s ch ≤ chanLevel s d) ∧ a.chanPtr = ch + 1 ∧
      ((s.chan ch).opts.burst = true → a.holder = some ch ∧ a.idle = 0) ∧
      ((s.chan ch).opts.burst = false → a.holder = none ∧ a.gapOwed = true)) ∧
  (∀ (s : State) (d : ChanId),
      (s.arbiter.update s).deferrals.get d = (s.arbiter.deferrals.get d).filter (fun k => chanRequests s k) ∧
      ((s.arbiter.update s).eligible s d = true ↔
        chanRequests s d = true ∧ (s.arbiter.update s).deferrals.get d = [])) ∧
  (∀ (s : State) (h : ChanId), s.arbiter.holder = some h →
      let b := s.arbiter.update s
      let ended : Arbiter := { s.arbiter with holder := none, idle := 0, gapOwed := true }
      let waiting := ([0, 1, 2, 3] : List ChanId).filter fun k => k != h && chanRequests s k
      let lost : Arbiter := if (s.chan h).opts.fairness = true then
        { ended with deferrals := s.arbiter.deferrals.set h waiting } else ended
      let beaten := (∃ f, feedUrgent s f = true) ∨ ∃ d, b.eligible s d = true ∧ chanLevel s d < chanLevel s h
      let others := (∃ f, feedRequests s f = true) ∨ ∃ d, b.eligible s d = true
      (beaten → decideBeat s = decideBeat { s with arbiter := lost }) ∧
      (¬ beaten → (s.chan h).opts.burst = false → decideBeat s = decideBeat { s with arbiter := ended }) ∧
      (¬ beaten → (s.chan h).opts.burst = true → chanRequests s h = true →
        decideBeat s = ({ b with chanPtr := h + 1, idle := 0
                                 deferrals := b.deferrals.map fun l => l.filter fun k => k != h }, .chan h)) ∧
      (¬ beaten → (s.chan h).opts.burst = true → chanRequests s h = false →
        (others → 7 ≤ s.arbiter.idle → decideBeat s = decideBeat { s with arbiter := ended }) ∧
        (others → s.arbiter.idle < 7 → decideBeat s = ({ b with idle := s.arbiter.idle + 1 }, .idle)) ∧
        (¬ others → decideBeat s = ({ b with idle := 0 }, .idle)))) ∧
  (∀ s : State, s.arbiter.holder = none → (∀ f, feedUrgent s f = false) →
      let b := s.arbiter.update s
      let gap := s.arbiter.gapOwed = true ∨ ∀ d, b.eligible s d = false
      (gap → (∃ f, feedRequests s f = true) →
        ∃ f, feedRequests s f = true ∧
          (∀ k : Fin 8, k < f - s.arbiter.gapPtr → feedRequests s (s.arbiter.gapPtr + k) = false) ∧
          decideBeat s = ({ b with gapPtr := f + 1, gapOwed := false }, .feed f)) ∧
      ((∀ f, feedRequests s f = false) → (∀ d, b.eligible s d = false) →
        decideBeat s = ({ b with gapOwed := false }, .idle)) ∧
      (¬ gap ∨ (∀ f, feedRequests s f = false) → (∃ d, b.eligible s d = true) →
        ∃ ch, b.eligible s ch = true ∧ (∀ d, b.eligible s d = true → chanLevel s ch ≤ chanLevel s d) ∧
          (∀ k : Fin 4, k < ch - s.arbiter.chanPtr →
            ¬ (b.eligible s (s.arbiter.chanPtr + k) = true ∧
              chanLevel s (s.arbiter.chanPtr + k) = chanLevel s ch)) ∧
          decideBeat s =
            ({ b with
                deferrals := b.deferrals.map fun l => l.filter fun k => k != ch
                chanPtr := ch + 1
                holder := if (s.chan ch).opts.burst = true then some ch else none
                idle := if (s.chan ch).opts.burst = true then 0 else b.idle
                gapOwed := !(s.chan ch).opts.burst }, .chan ch))) ∧
  (∀ (s : State) (ch : ChanId),
      (presentedFill s ch = none → (∀ r ∈ s.cache.fills, r.2.owner ≠ ch) ∧ chanLevel s ch = (s.chan ch).opts.level) ∧
      (∀ k z, presentedFill s ch = some (k, z) →
        (k, z) ∈ s.cache.fills ∧ z.owner = ch ∧ chanLevel s ch = fillLevel s z ∧
        (∀ r ∈ s.cache.fills, r.2.owner = ch →
          fillLevel s z < fillLevel s r.2 ∨ (fillLevel s z = fillLevel s r.2 ∧ z.order ≤ r.2.order))) ∧
      (∀ z : Fill, (∀ w, w = z.owner ∨ w ∈ z.waiters → fillLevel s z ≤ (s.chan w).opts.level) ∧
        ∃ w, (w = z.owner ∨ w ∈ z.waiters) ∧ fillLevel s z = (s.chan w).opts.level))

/-- The store write of a granted feed: the front fragment is written at BEGIN + (frame mod D) × stride + index and
leaves the buffer; the urgent flag follows the buffer; a STORE result marks DROPPED on the frame, open or closed; the
closed frames at the front of the pending list whose fragments are all written then finish, with the head, the
directory and INGEST_DAMAGE as R17 gives; cache, channels and clips stay. A beat that no requester is granted moves
nothing. -/
def Obligations.IngestBeatWritesTheFront : Prop :=
  (∀ (s : State) (r : StoreResult) (d : Fragment) (a : Arbiter) (f : FeedId) (g : BufFragment) (rest : List BufFragment),
      decideBeat s = (a, .feed f) → (s.feed f).presented = some g → (s.feed f).buffer = g :: rest →
      let x := s.feed f
      ∃ t, exec (.beat r d) s = .next t ∧ t.arbiter = a ∧
        t.storePort = .write f (x.cfg.beginAddr + (g.frame % x.cfg.depth) * x.cfg.stride + g.index) g.data ∧
        (t.feed f).buffer = rest ∧
        (t.feed f).urgent = (if 64 ≤ rest.length then true else if rest.length ≤ 16 then false else x.urgent) ∧
        (∀ o, x.openFrame = some o → (t.feed f).openFrame = some { o with
          cause := if r = .store ∧ o.number = g.frame then
            some (match o.cause with | some p => p | none => .dropped) else o.cause }) ∧
        (∀ k, k ≠ f → t.feed k = s.feed k) ∧ t.cache = s.cache ∧ t.chans = s.chans ∧ t.clips = s.clips ∧
        (∀ done left,
          let dropped := fun (n : Nat) (c : Option DamageCause) =>
            if r = .store ∧ n = g.frame then some (c.getD .dropped) else c
          let closing := x.closing.map fun p => { p with cause := dropped p.number p.cause }
          let opened := x.openFrame.map fun o => { o with cause := dropped o.number o.cause }
          FinishSplit closing rest done left →
          let u := raiseFinished f done s
          t.feed f = { x.afterFinish done left with openFrame := opened, buffer := rest, urgent := (t.feed f).urgent } ∧
          t = { s with arbiter := a, storePort := t.storePort, feeds := t.feeds, cells := u.cells, link := u.link })) ∧
  (∀ (s : State) (r : StoreResult) (d : Fragment) (a : Arbiter), decideBeat s = (a, .idle) →
      exec (.beat r d) s = .next { s with arbiter := a, storePort := .idle })

/-! ## Output ticks -/

/-- What an output tick leaves as it was, whatever its channel's state, and what it does to the panel; the tick of a
DISENGAGED part; and the tick of an IDLE channel under BLACK, HOLD and LIVE. Under LIVE the frame of the idle
selection is pinned and shown when it is resident on the idle feed as the option stands now (log entry 22), and else
the last record is repeated with cause LATE and LATE_FRAME raised; then the head of the idle feed is selected and
looked up, whatever the permit. A count that the Frame Cache still owes for the tick before is taken first, the
model's choice (log entry 5). So is that a tick under BLACK or HOLD keeps the idle selection (log entry 37). -/
def Obligations.TickFrameAndIdleTick : Prop :=
  ∀ (s : State) (ch : ChanId), ∃ t, exec (.outputTick ch) s = .next t ∧
    t.feeds = s.feeds ∧ t.arbiter = s.arbiter ∧ t.engaged = s.engaged ∧ t.storeSize = s.storeSize ∧
    t.curve = s.curve ∧ t.markRefs = s.markRefs ∧ t.defaultLen = s.defaultLen ∧ t.storePort = s.storePort ∧
    t.pending = s.pending ∧ t.cache.errorLatch = s.cache.errorLatch ∧
    t.panel = (if s.panel.bound = ch then { s.panel with
        markin := { s.panel.markin with accepted := false }, markout := { s.panel.markout with accepted := false },
        take := { s.panel.take with accepted := false } } else s.panel) ∧
    (∀ id, (SMap.find t.clips id).map (fun c => { c with useCount := 0 }) =
      (SMap.find s.clips id).map (fun c => { c with useCount := 0 })) ∧
    (∀ d, (t.chan d).opts = (s.chan d).opts ∧ (t.chan d).lever = (s.chan d).lever) ∧
    (∀ d, d ≠ ch → t.lists.get d = s.lists.get d) ∧
    (∀ d, d ≠ ch → (∀ g ∈ s.gangs.get ch, g.ch ≠ d) → t.chan d = s.chan d) ∧
    (s.cache.ticks.get ch ≠ .presented →
      let x := s.chan ch
      (s.engaged = .disengaged → t.chan ch = { x with lastRec := ⟨none, none, false⟩, outData := [], jog := 0 } ∧
        t.cells = s.cells ∧ t.link = s.link ∧ t.cache.slots = s.cache.slots ∧ t.cache.pins = s.cache.pins) ∧
      (s.engaged = .engaged → x.state = .idle →
        (x.opts.idlePicture = .black → t.chan ch = { x with lastRec := ⟨none, none, false⟩, outData := [], jog := 0 } ∧
          t.cache.pins.get ch = []) ∧
        (x.opts.idlePicture = .hold → t.cache.pins = s.cache.pins ∧ t.chan ch = { x with
          lastRec := if s.cache.pins.get ch = [] then ⟨none, none, false⟩
            else ⟨x.lastRec.shown.map fun y => { y with clip := none }, none, false⟩
          outData := s.cache.pinnedData ch, jog := 0 }) ∧
        (x.opts.idlePicture = .live →
          let f := x.opts.idleFeed
          let found := x.idleSel.bind (s.cache.validSlot f)
          (t.chan ch).idleSel = (s.feed f).range.map (fun w => w.hi) ∧ (t.chan ch).jog = 0 ∧
          (t.chan ch).state = .idle ∧
          (x.idleSel = none → (t.chan ch).lastRec = { x.lastRec with repeated := some .late } ∧
            t.cache.pins = s.cache.pins) ∧
          (found = none → (t.chan ch).lastRec = { x.lastRec with repeated := some .late } ∧
            t.cache.pins = s.cache.pins ∧
            (s.cells.length = 54 → (t.cell (12 + ch.val)).latch = true ∧
              (t.cell (12 + ch.val)).detail = some (.lateFrame f x.idleSel .late))) ∧
          (∀ n i, x.idleSel = some n → found = some i →
            (t.chan ch).lastRec = ⟨some ⟨f, n, none, 0, none⟩, none, false⟩ ∧ t.cache.pins = s.cache.pins.set ch [i] ∧
            (∀ y, SMap.find s.cache.slots i = some y → (t.chan ch).outData = y.data) ∧
            t.cell (12 + ch.val) = s.cell (12 + ch.val)) ∧
          (let phase := if s.cache.ticks.get ch = .settled then TickPhase.presented else .settled
           let shown := presentIdle ch { s with cache := { s.cache with ticks := s.cache.ticks.set ch phase } }
           t.cache = match (s.feed f).range with
             | none => shown.cache
             | some w => (lookup ch f w.hi shown).1.cache))))

/-- The presentation of a tick in any state but IDLE: a selected frame that a VALID slot holds is pinned and
presented, with its partner when blend is on and the partner is resident too, else without it, and BLEND_DROPPED when
a partner was named; a presentation with blend off names no partner; a selected frame that is not resident repeats
the last record with cause DAMAGED or LATE, keeps the pins and raises LATE_FRAME. A count still owed at the Frame
Cache is taken first (log entry 5). -/
def Obligations.TickPresentsOrRepeats : Prop :=
  ∀ (s : State) (ch : ChanId) (sel : Selection), s.engaged = .engaged → (s.chan ch).state ≠ .idle → GangsApart s →
    (s.chan ch).selection = some sel →
    let c := (if s.cache.ticks.get ch = .presented then countTick ch s else s).cache
    let partner := if (s.chan ch).opts.blend = true then sel.partner else none
    ∃ t, exec (.outputTick ch) s = .next t ∧
      (∀ i, c.validSlot sel.feed sel.frame = some i →
        (partner.bind (c.validSlot sel.feed) = none →
          (t.chan ch).lastRec = ⟨some ⟨sel.feed, sel.frame, none, 0, sel.clip⟩, none, partner.isSome⟩ ∧
          t.cache.pins.get ch = [i] ∧ (∀ y, SMap.find c.slots i = some y → (t.chan ch).outData = y.data)) ∧
        (∀ j, partner.bind (c.validSlot sel.feed) = some j →
          (t.chan ch).lastRec = ⟨some ⟨sel.feed, sel.frame, sel.partner, sel.weight, sel.clip⟩, none, false⟩ ∧
          t.cache.pins.get ch = [i, j])) ∧
      (c.validSlot sel.feed sel.frame = none →
        let cause := if (s.chan ch).damaged then RepeatCause.damaged else .late
        (t.chan ch).lastRec = { (s.chan ch).lastRec with repeated := some cause } ∧
        t.cache.pins.get ch = s.cache.pins.get ch ∧
        (s.cells.length = 54 → (t.cell (12 + ch.val)).latch = true ∧
          (t.cell (12 + ch.val)).detail = some (.lateFrame sel.feed (some sel.frame) cause)))

/-- The step of an output tick, on the state as its presentation leaves it; a count still owed at the Frame Cache is
taken first (log entry 5). A tick that overruns no end of the window: S, T_s and P by the channel's state, the
accumulator emptied, the window as the material gives it now, the selection of the frame that P stands on; in LIVE on
a live bound AT_LIVE is set, and raised if it was clear. The slaves of a master are then derived from its new P, S,
T_s and window, each placed on its own feed or lost; the channel looks up the selected frame, the partner and the
lookahead frames, in that order, while its fetch permit holds. A tick that finds the window empty: WINDOW_LOST with
feed, clip, tail and head, the material released, the channel in IDLE and no more of the step; a master's gang
dissolves, each slave in IDLE with WINDOW_LOST of its own. A slave's own tick: the selection is made from the
position and window of the latest derivation, the accumulator emptied, the lookups sent in the same order; nothing
else moves. Four points are the model's choice: a material that names a FREE record, which no run reaches, has no
window and the feed number FEED0 (log entry 29); at an empty window the selection and the damaged mark go too, which
R54 does not name, and likewise the damaged mark of every slave that enters IDLE (log entry 21); and the derivation,
with the release of lost slaves' pins, comes before the master's lookups (log entry 18). -/
def Obligations.TickMovesThePosition : Prop :=
  (∀ (s : State) (ch : ChanId) (m : Material) (w : Window), s.engaged = .engaged → GangsApart s →
    (s.chan ch).state ≠ .idle → (s.chan ch).state ≠ .slave → (s.chan ch).material = some m →
    materialWindow s m = some w →
    let x := s.chan ch
    let feed := (materialFeed s m).getD 0
    let head := (s.feed feed).head.getD 0
    let q := tickStep s.curve x head
    (w.lo : Int) * 1024 ≤ q → q < ((w.hi : Int) + 1) * 1024 →
    let gs := s.gangs.get ch
    let sel := pickedAt x feed w q.toNat
    let onLive := x.state = .live ∧ boundClip s (some m) .upper = none
    ∃ t, exec (.outputTick ch) s = .next t ∧
      (t.chan ch).pos = q.toNat ∧ (t.chan ch).speed = tickSpeed s.curve x ∧
      (t.chan ch).target = tickTarget s.curve x ∧ (t.chan ch).jog = 0 ∧
      (t.chan ch).window = some w ∧ (t.chan ch).state = x.state ∧ (t.chan ch).material = some m ∧
      (t.chan ch).selection = some sel ∧
      (t.chan ch).damaged = decide (mayFetch (t.chan ch) ∧ namesDamaged s ch sel) ∧
      (onLive → (t.chan ch).atLive = true ∧
        (x.atLive = false → s.cells.length = 54 → (t.cell (16 + ch.val)).latch = true ∧
          (t.cell (16 + ch.val)).detail = some (.atLive feed head))) ∧
      (¬ onLive → (t.chan ch).atLive = (x.atLive && decide (head ≤ q.toNat / 1024))) ∧
      (¬ onLive ∨ x.atLive = true → t.cell (16 + ch.val) = s.cell (16 + ch.val)) ∧
      (t.chan ch).atTail = (x.atTail && decide (q.toNat / 1024 ≤ (s.feed feed).tail)) ∧ t.lists = s.lists ∧
      (∀ d, d ≠ ch → (∀ g ∈ gs, g.ch ≠ d) → t.chan d = s.chan d) ∧
      GangFollows s t ch gs w (fun _ _ y => y) ∧
      (let shown := presentActive ch (beforeTick ch s)
       t.cache = tickCache ch t w { shown with cache := lostPins s (windowless s gs) shown.cache })) ∧
  (∀ (s : State) (ch : ChanId) (m : Material), s.engaged = .engaged → GangsApart s →
    (s.chan ch).state ≠ .idle → (s.chan ch).state ≠ .slave → (s.chan ch).material = some m →
    materialWindow s m = none →
    let x := s.chan ch
    let feed := (materialFeed s m).getD 0
    let gs := s.gangs.get ch
    let shown := presentActive ch (beforeTick ch s)
    ∃ t, exec (.outputTick ch) s = .next t ∧
      t.chan ch = { x with
        state := .idle, material := none, window := none, speed := 0, target := 0, jog := 0, preload := false,
        atLive := false, atTail := false, cueWait := none, selection := none, damaged := false,
        lastRec := (shown.chan ch).lastRec, outData := (shown.chan ch).outData } ∧
      (s.cells.length = 54 → (t.cell (24 + ch.val)).latch = true ∧
        (t.cell (24 + ch.val)).detail =
          some (.windowLost feed (materialId x.material) (s.feed feed).tail (s.feed feed).head)) ∧
      t.gangs = s.gangs.set ch [] ∧
      (∀ g ∈ gs, t.chan g.ch = lostSlave (s.chan g.ch) ∧ tellsLoss s t g) ∧
      (∀ d, d ≠ ch → (∀ g ∈ gs, g.ch ≠ d) → t.chan d = s.chan d) ∧
      t.cache = lostPins s gs shown.cache ∧ t.lists = s.lists ∧
      ∀ id, SMap.find t.clips id = (SMap.find s.clips id).map fun c =>
        { c with useCount := c.useCount -
            (ch :: gs.map (·.ch)).countP (fun d => decide ((s.chan d).material = some (.clip id))) }) ∧
  (∀ (s : State) (m ch : ChanId) (g : GangSlave) (w : Window), s.engaged = .engaged → GangsWhole s →
    masterOf s ch = some (m, g) → (s.chan ch).window = some w →
    let x := s.chan ch
    let sel := pickedAt x g.feed w x.pos
    let before := beforeTick ch s
    let shown := presentActive ch before
    ∃ t, exec (.outputTick ch) s = .next t ∧
      t.chan ch = { x with
        jog := 0, selection := some sel, damaged := decide (namesDamaged s ch sel),
        preload := (before.chan ch).preload,
        lastRec := (shown.chan ch).lastRec, outData := (shown.chan ch).outData } ∧
      (∀ d, d ≠ ch → t.chan d = s.chan d) ∧ t.gangs = s.gangs ∧ t.lists = s.lists ∧
      (∀ i, i ≠ 12 + ch.val → i ≠ 28 + ch.val → t.cell i = s.cell i) ∧
      t.cache = tickCache ch t w shown)

/-- The bound stage: which clip bounds a window has; a position inside the window is taken as it is, and in LIVE on a
live bound sets AT_LIVE; the STOP end and the LOOP wrap of a channel in PLAYING or SHUTTLE; the end of a LIVE channel
at a clip bound; the hold of the other states; the live bound, with AT_LIVE and follow-live; the tail bound, with
AT_TAIL; and the NEXT end, which takes the first entry that can be taken or else stops with CLIP_END. CLIP_EXPIRED
with the action SKIPPED is raised for each entry passed over, in list order, before CLIP_TAKEN or CLIP_END; the
slaves of a master take the new clip's angles; an empty window of the new clip ends the channel with WINDOW_LOST.
That the entry frame of a NEXT advance is clamped into the new window is the model's choice (log entry 19). An output
tick of a channel with a window hands the bound stage the raw step with S, T_s and the window of R51; from the state
it leaves, AT_LIVE and AT_TAIL are cleared by R67, and the selection, the derivation of the slaves and the lookups
follow. The count owed at the Frame Cache is taken first (log entry 5). That the derivation, with the release of lost
slaves' pins, comes before the lookups (log entry 18), and that the damaged mark of a lost slave goes with its
selection (log entry 21), are the model's choices. So is the feed number FEED0 of a channel whose material names no
record, which no run reaches (log entry 29). -/
def Obligations.BoundStageEndsWrapsOrHolds : Prop :=
  (∀ (s : State) (ch : ChanId) (w : Window) (q : Int),
    let x := s.chan ch
    let feed := (channelFeed s ch).getD 0
    let runs := x.state = .playing ∨ x.state = .shuttle
    (∀ f e, boundClip s (some (.feed f)) e = none) ∧
    (∀ id c, SMap.find s.clips id = some c →
      (boundClip s (some (.clip id)) .upper = some c ↔
        ∃ o h, c.markOut = some o ∧ (s.feed c.feed).head = some h ∧ o ≤ h) ∧
      (boundClip s (some (.clip id)) .lower = some c ↔ (s.feed c.feed).tail ≤ c.markIn)) ∧
    ((w.lo : Int) * 1024 ≤ q → q < ((w.hi : Int) + 1) * 1024 →
      let onLive := x.state = .live ∧ boundClip s x.material .upper = none
      let moved := { x with pos := q.toNat }
      (¬ onLive → settle ch w q s = s.setChan ch moved) ∧
      (onLive → x.atLive = true → settle ch w q s = s.setChan ch moved) ∧
      (onLive → x.atLive = false →
        settle ch w q s = raise ch.val (.atLive feed w.hi) (s.setChan ch { moved with atLive := true }))) ∧
    (∀ e hold, (e = .upper ∧ ((w.hi : Int) + 1) * 1024 ≤ q ∧ hold = w.hi) ∨
        (e = .lower ∧ q < ((w.hi : Int) + 1) * 1024 ∧ q < (w.lo : Int) * 1024 ∧ hold = w.lo) →
      let dir := match e with | .upper => Direction.forward | .lower => .reverse
      let stopped := { x with pos := hold * 1024, speed := 0, target := 0, state := .ended, preload := false }
      (∀ id c, x.material = some (.clip id) → boundClip s x.material e = some c →
        (x.state = .live ∨ (runs ∧ c.endMode = .stop) →
          settle ch w q s = raise ch.val (.clipEnd id hold dir) (s.setChan ch stopped)) ∧
        (runs → c.endMode = .loop → settle ch w q s = s.setChan ch { x with pos := w.wrap q }) ∧
        (¬ runs → x.state ≠ .live → settle ch w q s = s.setChan ch { x with pos := hold * 1024 }) ∧
        (runs → c.endMode = .next →
          (∀ passed en rest d, GangsApart s →
            s.lists.get ch = passed ++ en :: rest →
            (∀ p ∈ passed, ∃ y, SMap.find s.clips p.clip = some y ∧
              (y.state = .expired ∨ y.markIn < (s.feed y.feed).tail)) →
            SMap.find s.clips en.clip = some d → d.state ≠ .expired → (s.feed d.feed).tail ≤ d.markIn →
            let t := settle ch w q s
            let gs := assigned (s.gangs.get ch) d.angles
            t.lists = s.lists.set ch rest ∧
            (∀ k, k ≠ ch → (∀ g ∈ gs, g.ch ≠ k) → t.chan k = s.chan k) ∧
            (d.window (s.feed d.feed) = none →
              (t.chan ch).state = .idle ∧ (t.chan ch).material = none ∧ (t.chan ch).window = none ∧
              t.gangs = s.gangs.set ch [] ∧ (∀ g ∈ gs, t.chan g.ch = lostSlave (s.chan g.ch) ∧ tellsLoss s t g) ∧
              (s.cells.length = 54 → t.cell 50 = (raiseSkipped ch passed s).cell 50 ∧
                (t.cell (24 + ch.val)).latch = true ∧ (t.cell (24 + ch.val)).detail =
                  some (.windowLost d.feed (some en.clip) (s.feed d.feed).tail (s.feed d.feed).head))) ∧
            (∀ w', d.window (s.feed d.feed) = some w' →
              let named := if x.speed < 0 ∨ (x.speed = 0 ∧ e = .lower) then (match d.markOut with
                | some o => o
                | none => ((s.feed d.feed).head).getD d.markIn) else d.markIn
              let frame := max w'.lo (min w'.hi named)
              let told := raise ch.val (.clipTaken en.clip frame .next rest.length) (raiseSkipped ch passed s)
              t.chan ch = { x with
                material := some (.clip en.clip), pos := frame * 1024, target := en.speed.getD d.nominal,
                window := some w', atLive := false, atTail := false, preload := true, cueWait := none } ∧
              t.cells = told.cells ∧ t.link = told.link ∧ t.gangs = s.gangs.set ch gs ∧
              ∀ g ∈ gs, t.chan g.ch = onAngle g (s.chan g.ch))) ∧
          ((∀ p ∈ s.lists.get ch, ∃ y, SMap.find s.clips p.clip = some y ∧
              (y.state = .expired ∨ y.markIn < (s.feed y.feed).tail)) →
            let t := settle ch w q s
            let told := raise ch.val (.clipEnd id hold dir) (raiseSkipped ch (s.lists.get ch) s)
            t.chan ch = stopped ∧ t.lists = s.lists.set ch [] ∧ t.gangs = s.gangs ∧ t.cells = told.cells ∧
            t.link = told.link ∧ ∀ k, k ≠ ch → t.chan k = s.chan k))) ∧
      (boundClip s x.material e = none →
        (e = .upper →
          let after := if x.opts.followLive = true ∧ (x.state = .playing ∨ x.state = .shuttle) then ChanState.live
            else x.state
          let held := { x with atLive := true, pos := w.hi * 1024, state := after }
          (x.atLive = true → settle ch w q s = s.setChan ch held) ∧
          (x.atLive = false → settle ch w q s = raise ch.val (.atLive feed w.hi) (s.setChan ch held))) ∧
        (e = .lower →
          let held := { x with atTail := true, pos := w.lo * 1024 }
          (x.atTail = true → settle ch w q s = s.setChan ch held) ∧
          (x.atTail = false → settle ch w q s = raise ch.val (.tailPush feed w.lo) (s.setChan ch held)))))) ∧
  (∀ (s : State) (ch : ChanId) (m : Material) (w : Window), s.engaged = .engaged → GangsApart s →
    (s.chan ch).state ≠ .idle → (s.chan ch).state ≠ .slave → (s.chan ch).material = some m →
    materialWindow s m = some w →
    let x := s.chan ch
    let shown := presentActive ch (beforeTick ch s)
    let q := tickStep s.curve x ((s.feed ((materialFeed s m).getD 0)).head.getD 0)
    let u := settle ch w q (shown.setChan ch { shown.chan ch with
      speed := tickSpeed s.curve x, target := tickTarget s.curve x, jog := 0, window := some w })
    let y := u.chan ch
    ∃ t, exec (.outputTick ch) s = .next t ∧
      (y.window = none → t = { u with panel := t.panel }) ∧
      (∀ w', y.window = some w' →
        let feed := (channelFeed u ch).getD 0
        let gs := u.gangs.get ch
        let sel := pickedAt y feed w' y.pos
        t.chan ch = { y with
          atLive := y.atLive && decide ((u.feed feed).head.getD 0 ≤ y.pos / 1024),
          atTail := y.atTail && decide (y.pos / 1024 ≤ (u.feed feed).tail),
          selection := some sel, damaged := decide (mayFetch (t.chan ch) ∧ namesDamaged u ch sel),
          cueWait := (t.chan ch).cueWait } ∧
        GangFollows u t ch gs w' (fun _ _ z => z) ∧
        t.cache = tickCache ch t w' { u with cache := lostPins u (windowless u gs) u.cache } ∧
        t.lists = u.lists ∧
        ∀ i, i = 4 + ch.val ∨ i = 8 + ch.val ∨ i = 16 + ch.val ∨ i = 20 + ch.val ∨ i = 50 →
          t.cell i = u.cell i))

/-- After every output tick of an ENGAGED part, a channel that is neither IDLE nor SLAVE has a window, its position
lies in it, and so do the selected frame and its blend partner. -/
def Obligations.SettledPositionLiesInTheWindow : Prop :=
  ∀ (s t : State) (ch : ChanId), s.engaged = .engaged → GangsApart s → exec (.outputTick ch) s = .next t →
    (t.chan ch).state ≠ .idle → (t.chan ch).state ≠ .slave →
    ∃ w sel, (t.chan ch).window = some w ∧ w.lo ≤ w.hi ∧ w.lo * 1024 ≤ (t.chan ch).pos ∧
      (t.chan ch).pos ≤ w.hi * 1024 + 1023 ∧ (t.chan ch).selection = some sel ∧ w.lo ≤ sel.frame ∧
      sel.frame ≤ w.hi ∧ (∀ p, sel.partner = some p → p = sel.frame + 1 ∧ p ≤ w.hi)

/-! ## Panel -/

/-- A line change decodes by the mode and the last levels to one count, forward or reverse, or none, which reaches
the bound channel at once: ignored in IDLE and SLAVE, added in JOG, and elsewhere added with a takeover into JOG when
the binding allows it. The new levels are the last levels, and a double change in X4 sets JOG_GLITCH. That a change
of no level counts nothing is the model's choice (log entry 27). -/
def Obligations.JogLineChangeCountsOnce : Prop :=
  ∀ (s : State) (ja jb : Level),
    let p := s.panel
    let pair := ((p.ja, p.jb), (ja, jb))
    let count : Option Int := match p.decode with
      | .x1 => if p.ja = .low ∧ ja = .high then some (if p.jb = .low then 1 else -1) else none
      | .x2 =>
        if p.ja = .low ∧ ja = .high then some (if p.jb = .low then 1 else -1)
        else if p.ja = .high ∧ ja = .low then some (if p.jb = .high then 1 else -1)
        else none
      | .x4 =>
        if pair = ((.low, .low), (.high, .low)) ∨ pair = ((.high, .low), (.high, .high)) ∨
            pair = ((.high, .high), (.low, .high)) ∨ pair = ((.low, .high), (.low, .low)) then some 1
        else if pair = ((.low, .low), (.low, .high)) ∨ pair = ((.low, .high), (.high, .high)) ∨
            pair = ((.high, .high), (.high, .low)) ∨ pair = ((.high, .low), (.low, .low)) then some (-1)
        else none
      | .dirstep => if p.ja = .low ∧ ja = .high then some (if jb = .high then 1 else -1) else none
    let x := s.chan p.bound
    let chans := match count with
      | none => s.chans
      | some n =>
        let sum := max (-2048) (min (x.jog + n) 2047)
        if x.state = .idle ∨ x.state = .slave then s.chans
        else if x.state = .jog ∨ p.takeover = false then s.chans.set p.bound { x with jog := sum }
        else s.chans.set p.bound { x with jog := sum, state := .jog, speed := 0, target := 0 }
    exec (.jogLineChange ja jb) s = .next { s with
      chans := chans
      panel := { p with
        ja := ja, jb := jb, glitch := p.glitch || decide (p.decode = .x4 ∧ p.ja ≠ ja ∧ p.jb ≠ jb) } }

/-- The push lines: a rise is accepted when the line has accepted none since the bound channel's last tick, and then
acts as its command with no reply: MARK_IN or MARK_OUT on the bound source, PLAY without a speed or TAKE_NEXT on the
bound channel; an edge not accepted only becomes the last level. A rise of a line already high changes nothing (log
entry 27). A fall changes the last level alone. The speed 1024 at the PLAY of a material that names a FREE clip,
which no run reaches, is the model's choice (log entry 29). -/
def Obligations.PushLinesActOnAcceptedEdges : Prop :=
  ∀ s : State,
    (s.panel.markin.level = .high → exec .markinEdge s = .next s) ∧
    (s.panel.markin.level = .low →
      let t : State := { s with panel := { s.panel with markin := ⟨.high, true⟩ } }
      (s.panel.markin.accepted = true → exec .markinEdge s = .next t) ∧
      (s.panel.markin.accepted = false → exec .markinEdge s = .next (cmdMarkIn s.panel.source t).state)) ∧
    (s.panel.markout.level = .high → exec .markoutEdge s = .next s) ∧
    (s.panel.markout.level = .low →
      let t : State := { s with panel := { s.panel with markout := ⟨.high, true⟩ } }
      (s.panel.markout.accepted = true → exec .markoutEdge s = .next t) ∧
      (s.panel.markout.accepted = false → exec .markoutEdge s = .next (cmdMarkOut s.panel.source t).state)) ∧
    (s.panel.take.level = .high → exec .takeEdge s = .next s) ∧
    (s.panel.take.level = .low →
      let t : State := { s with panel := { s.panel with take := ⟨.high, true⟩ } }
      let x := s.chan s.panel.bound
      (s.panel.take.accepted = true → exec .takeEdge s = .next t) ∧
      (s.panel.take.accepted = false → s.panel.takeAction = .takeNext →
        exec .takeEdge s = .next (cmdTakeNext s.panel.bound.val t).state) ∧
      (s.panel.take.accepted = false → s.panel.takeAction = .play →
        (s.engaged = .engaged → x.state ≠ .idle → x.state ≠ .slave →
          let nominal : Int := match x.material with
            | some (.clip id) => ((SMap.find s.clips id).map (·.nominal)).getD 1024
            | _ => 1024
          exec .takeEdge s = .next (t.setChan s.panel.bound { x with target := nominal, state := .playing })) ∧
        (s.engaged = .disengaged ∨ x.state = .idle ∨ x.state = .slave → exec .takeEdge s = .next t))) ∧
    exec (.pushLineFall .markin) s =
      .next { s with panel := { s.panel with markin := { s.panel.markin with level := .low } } } ∧
    exec (.pushLineFall .markout) s =
      .next { s with panel := { s.panel with markout := { s.panel.markout with level := .low } } } ∧
    exec (.pushLineFall .take) s = .next { s with panel := { s.panel with take := { s.panel.take with level := .low } } }

/-! ## Invariants -/

/-- Every step keeps the bounds of the part: speeds, targets and their sources within −32,768 to +32,768, jog
accumulators within −2048 to +2047, cue lists at 16 entries, the input buffer at 4 frames, 54 notice cells with
counts to 255, the feeds' configurations in their ranges, the checks of ENGAGE while ENGAGED, at most 2 pins a
channel, and the model's tables in their canonical form (log entry 24). -/
def Obligations.EveryStepKeepsTheBounds : Prop :=
  ∀ s t : State, step s = .next t →
    (SpeedsBounded s → SpeedsBounded t) ∧ (JogBounded s → JogBounded t) ∧ (ListsBounded s → ListsBounded t) ∧
    (InputBounded s → InputBounded t) ∧ (CellsInRange s → CellsInRange t) ∧
    (ConfigsInRange s → ConfigsInRange t) ∧ (LayoutHeld s → LayoutHeld t) ∧ (PinsBounded s → PinsBounded t) ∧
    (TablesSorted s → TablesSorted t)

/-- Every step keeps the gangs and the cache tags whole: no channel twice in one gang; a channel in SLAVE exactly
when a gang names it, in one gang alone, on the feed the gang gives it and without a cue wait, and no master a slave;
and no two cache slots with one tag. -/
def Obligations.EveryStepKeepsGangsAndTags : Prop :=
  ∀ s t : State, step s = .next t →
    (GangsApart s → GangsApart t) ∧ (GangsWhole s → GangsWhole t) ∧ (TagsDistinct s → TagsDistinct t)

/-- Every step keeps every clip's use count equal to the number of channels whose material is the clip and of list
entries that name it; no channel and no entry holds a FREE record. -/
def Obligations.EveryStepKeepsTheUseCounts : Prop :=
  ∀ s t : State, step s = .next t → UseCountsRight s → UseCountsRight t

/-- The invariants hold at reset. -/
def Obligations.InvariantsHoldAtReset : Prop :=
  SpeedsBounded State.reset ∧ JogBounded State.reset ∧ ListsBounded State.reset ∧ InputBounded State.reset ∧
    CellsInRange State.reset ∧ ConfigsInRange State.reset ∧ LayoutHeld State.reset ∧ PinsBounded State.reset ∧
    TablesSorted State.reset ∧ GangsApart State.reset ∧ GangsWhole State.reset ∧ TagsDistinct State.reset ∧
    UseCountsRight State.reset

end Claims
end

