-- ==== Sys2Proof/Laws/State.lean ====
section
/-!
SUPPORT. One lemma for each field of State under each named update, and for reading one feed or channel after an
update. The lemmas about a field are true by rfl.
-/

namespace Sys2Proof.Machine

variable (s : State)

@[simp] theorem State.engaged_setFeed (f : FeedId) (x : Feed) : (s.setFeed f x).engaged = s.engaged := rfl
@[simp] theorem State.storeSize_setFeed (f : FeedId) (x : Feed) : (s.setFeed f x).storeSize = s.storeSize := rfl
@[simp] theorem State.link_setFeed (f : FeedId) (x : Feed) : (s.setFeed f x).link = s.link := rfl
@[simp] theorem State.cells_setFeed (f : FeedId) (x : Feed) : (s.setFeed f x).cells = s.cells := rfl
@[simp] theorem State.arbiter_setFeed (f : FeedId) (x : Feed) : (s.setFeed f x).arbiter = s.arbiter := rfl
@[simp] theorem State.storePort_setFeed (f : FeedId) (x : Feed) : (s.setFeed f x).storePort = s.storePort := rfl
@[simp] theorem State.cache_setFeed (f : FeedId) (x : Feed) : (s.setFeed f x).cache = s.cache := rfl
@[simp] theorem State.chans_setFeed (f : FeedId) (x : Feed) : (s.setFeed f x).chans = s.chans := rfl
@[simp] theorem State.curve_setFeed (f : FeedId) (x : Feed) : (s.setFeed f x).curve = s.curve := rfl
@[simp] theorem State.gangs_setFeed (f : FeedId) (x : Feed) : (s.setFeed f x).gangs = s.gangs := rfl
@[simp] theorem State.clips_setFeed (f : FeedId) (x : Feed) : (s.setFeed f x).clips = s.clips := rfl
@[simp] theorem State.markRefs_setFeed (f : FeedId) (x : Feed) : (s.setFeed f x).markRefs = s.markRefs := rfl
@[simp] theorem State.defaultLen_setFeed (f : FeedId) (x : Feed) : (s.setFeed f x).defaultLen = s.defaultLen := rfl
@[simp] theorem State.lists_setFeed (f : FeedId) (x : Feed) : (s.setFeed f x).lists = s.lists := rfl
@[simp] theorem State.panel_setFeed (f : FeedId) (x : Feed) : (s.setFeed f x).panel = s.panel := rfl
@[simp] theorem State.pending_setFeed (f : FeedId) (x : Feed) : (s.setFeed f x).pending = s.pending := rfl

@[simp] theorem State.engaged_setChan (c : ChanId) (x : Channel) : (s.setChan c x).engaged = s.engaged := rfl
@[simp] theorem State.storeSize_setChan (c : ChanId) (x : Channel) : (s.setChan c x).storeSize = s.storeSize := rfl
@[simp] theorem State.link_setChan (c : ChanId) (x : Channel) : (s.setChan c x).link = s.link := rfl
@[simp] theorem State.cells_setChan (c : ChanId) (x : Channel) : (s.setChan c x).cells = s.cells := rfl
@[simp] theorem State.feeds_setChan (c : ChanId) (x : Channel) : (s.setChan c x).feeds = s.feeds := rfl
@[simp] theorem State.arbiter_setChan (c : ChanId) (x : Channel) : (s.setChan c x).arbiter = s.arbiter := rfl
@[simp] theorem State.storePort_setChan (c : ChanId) (x : Channel) : (s.setChan c x).storePort = s.storePort := rfl
@[simp] theorem State.cache_setChan (c : ChanId) (x : Channel) : (s.setChan c x).cache = s.cache := rfl
@[simp] theorem State.curve_setChan (c : ChanId) (x : Channel) : (s.setChan c x).curve = s.curve := rfl
@[simp] theorem State.gangs_setChan (c : ChanId) (x : Channel) : (s.setChan c x).gangs = s.gangs := rfl
@[simp] theorem State.clips_setChan (c : ChanId) (x : Channel) : (s.setChan c x).clips = s.clips := rfl
@[simp] theorem State.markRefs_setChan (c : ChanId) (x : Channel) : (s.setChan c x).markRefs = s.markRefs := rfl
@[simp] theorem State.defaultLen_setChan (c : ChanId) (x : Channel) : (s.setChan c x).defaultLen = s.defaultLen := rfl
@[simp] theorem State.lists_setChan (c : ChanId) (x : Channel) : (s.setChan c x).lists = s.lists := rfl
@[simp] theorem State.panel_setChan (c : ChanId) (x : Channel) : (s.setChan c x).panel = s.panel := rfl
@[simp] theorem State.pending_setChan (c : ChanId) (x : Channel) : (s.setChan c x).pending = s.pending := rfl

@[simp] theorem State.engaged_setList (c : ChanId) (l : List CueEntry) : (s.setList c l).engaged = s.engaged := rfl
@[simp] theorem State.storeSize_setList (c : ChanId) (l : List CueEntry) : (s.setList c l).storeSize = s.storeSize := rfl
@[simp] theorem State.link_setList (c : ChanId) (l : List CueEntry) : (s.setList c l).link = s.link := rfl
@[simp] theorem State.cells_setList (c : ChanId) (l : List CueEntry) : (s.setList c l).cells = s.cells := rfl
@[simp] theorem State.feeds_setList (c : ChanId) (l : List CueEntry) : (s.setList c l).feeds = s.feeds := rfl
@[simp] theorem State.arbiter_setList (c : ChanId) (l : List CueEntry) : (s.setList c l).arbiter = s.arbiter := rfl
@[simp] theorem State.storePort_setList (c : ChanId) (l : List CueEntry) : (s.setList c l).storePort = s.storePort := rfl
@[simp] theorem State.cache_setList (c : ChanId) (l : List CueEntry) : (s.setList c l).cache = s.cache := rfl
@[simp] theorem State.chans_setList (c : ChanId) (l : List CueEntry) : (s.setList c l).chans = s.chans := rfl
@[simp] theorem State.curve_setList (c : ChanId) (l : List CueEntry) : (s.setList c l).curve = s.curve := rfl
@[simp] theorem State.gangs_setList (c : ChanId) (l : List CueEntry) : (s.setList c l).gangs = s.gangs := rfl
@[simp] theorem State.clips_setList (c : ChanId) (l : List CueEntry) : (s.setList c l).clips = s.clips := rfl
@[simp] theorem State.markRefs_setList (c : ChanId) (l : List CueEntry) : (s.setList c l).markRefs = s.markRefs := rfl
@[simp] theorem State.defaultLen_setList (c : ChanId) (l : List CueEntry) : (s.setList c l).defaultLen = s.defaultLen := rfl
@[simp] theorem State.panel_setList (c : ChanId) (l : List CueEntry) : (s.setList c l).panel = s.panel := rfl
@[simp] theorem State.pending_setList (c : ChanId) (l : List CueEntry) : (s.setList c l).pending = s.pending := rfl

@[simp] theorem State.engaged_setRx (r : RxState) : (s.setRx r).engaged = s.engaged := rfl
@[simp] theorem State.storeSize_setRx (r : RxState) : (s.setRx r).storeSize = s.storeSize := rfl
@[simp] theorem State.cells_setRx (r : RxState) : (s.setRx r).cells = s.cells := rfl
@[simp] theorem State.feeds_setRx (r : RxState) : (s.setRx r).feeds = s.feeds := rfl
@[simp] theorem State.arbiter_setRx (r : RxState) : (s.setRx r).arbiter = s.arbiter := rfl
@[simp] theorem State.storePort_setRx (r : RxState) : (s.setRx r).storePort = s.storePort := rfl
@[simp] theorem State.cache_setRx (r : RxState) : (s.setRx r).cache = s.cache := rfl
@[simp] theorem State.chans_setRx (r : RxState) : (s.setRx r).chans = s.chans := rfl
@[simp] theorem State.curve_setRx (r : RxState) : (s.setRx r).curve = s.curve := rfl
@[simp] theorem State.gangs_setRx (r : RxState) : (s.setRx r).gangs = s.gangs := rfl
@[simp] theorem State.clips_setRx (r : RxState) : (s.setRx r).clips = s.clips := rfl
@[simp] theorem State.markRefs_setRx (r : RxState) : (s.setRx r).markRefs = s.markRefs := rfl
@[simp] theorem State.defaultLen_setRx (r : RxState) : (s.setRx r).defaultLen = s.defaultLen := rfl
@[simp] theorem State.lists_setRx (r : RxState) : (s.setRx r).lists = s.lists := rfl
@[simp] theorem State.panel_setRx (r : RxState) : (s.setRx r).panel = s.panel := rfl
@[simp] theorem State.pending_setRx (r : RxState) : (s.setRx r).pending = s.pending := rfl

@[simp] theorem State.engaged_setPhase (c : ChanId) (p : TickPhase) : (s.setPhase c p).engaged = s.engaged := rfl
@[simp] theorem State.storeSize_setPhase (c : ChanId) (p : TickPhase) : (s.setPhase c p).storeSize = s.storeSize := rfl
@[simp] theorem State.link_setPhase (c : ChanId) (p : TickPhase) : (s.setPhase c p).link = s.link := rfl
@[simp] theorem State.cells_setPhase (c : ChanId) (p : TickPhase) : (s.setPhase c p).cells = s.cells := rfl
@[simp] theorem State.feeds_setPhase (c : ChanId) (p : TickPhase) : (s.setPhase c p).feeds = s.feeds := rfl
@[simp] theorem State.arbiter_setPhase (c : ChanId) (p : TickPhase) : (s.setPhase c p).arbiter = s.arbiter := rfl
@[simp] theorem State.storePort_setPhase (c : ChanId) (p : TickPhase) : (s.setPhase c p).storePort = s.storePort := rfl
@[simp] theorem State.chans_setPhase (c : ChanId) (p : TickPhase) : (s.setPhase c p).chans = s.chans := rfl
@[simp] theorem State.curve_setPhase (c : ChanId) (p : TickPhase) : (s.setPhase c p).curve = s.curve := rfl
@[simp] theorem State.gangs_setPhase (c : ChanId) (p : TickPhase) : (s.setPhase c p).gangs = s.gangs := rfl
@[simp] theorem State.clips_setPhase (c : ChanId) (p : TickPhase) : (s.setPhase c p).clips = s.clips := rfl
@[simp] theorem State.markRefs_setPhase (c : ChanId) (p : TickPhase) : (s.setPhase c p).markRefs = s.markRefs := rfl
@[simp] theorem State.defaultLen_setPhase (c : ChanId) (p : TickPhase) : (s.setPhase c p).defaultLen = s.defaultLen := rfl
@[simp] theorem State.lists_setPhase (c : ChanId) (p : TickPhase) : (s.setPhase c p).lists = s.lists := rfl
@[simp] theorem State.panel_setPhase (c : ChanId) (p : TickPhase) : (s.setPhase c p).panel = s.panel := rfl
@[simp] theorem State.pending_setPhase (c : ChanId) (p : TickPhase) : (s.setPhase c p).pending = s.pending := rfl

@[simp] theorem State.feeds_setFeed (f : FeedId) (x : Feed) : (s.setFeed f x).feeds = s.feeds.set f x := rfl
@[simp] theorem State.chans_setChan (c : ChanId) (x : Channel) : (s.setChan c x).chans = s.chans.set c x := rfl
@[simp] theorem State.lists_setList (c : ChanId) (l : List CueEntry) :
    (s.setList c l).lists = s.lists.set c l := rfl

@[simp] theorem State.feed_setFeed (f g : FeedId) (x : Feed) :
    (s.setFeed f x).feed g = if g = f then x else s.feed g := Oct.get_set _ _ _ _
@[simp] theorem State.chan_setChan (c d : ChanId) (x : Channel) :
    (s.setChan c x).chan d = if d = c then x else s.chan d := Quad.get_set _ _ _ _
@[simp] theorem State.feed_setChan (f : FeedId) (c : ChanId) (x : Channel) : (s.setChan c x).feed f = s.feed f := rfl
@[simp] theorem State.chan_setFeed (f : FeedId) (c : ChanId) (x : Feed) : (s.setFeed f x).chan c = s.chan c := rfl
@[simp] theorem State.feed_setList (f : FeedId) (c : ChanId) (l : List CueEntry) :
    (s.setList c l).feed f = s.feed f := rfl
@[simp] theorem State.chan_setList (d c : ChanId) (l : List CueEntry) : (s.setList c l).chan d = s.chan d := rfl
@[simp] theorem State.feed_setRx (f : FeedId) (r : RxState) : (s.setRx r).feed f = s.feed f := rfl
@[simp] theorem State.chan_setRx (d : ChanId) (r : RxState) : (s.setRx r).chan d = s.chan d := rfl

theorem State.feed_congr {s t : State} (h : t.feeds = s.feeds) (f : FeedId) : t.feed f = s.feed f := by
  simp [State.feed, h]
theorem State.chan_congr {s t : State} (h : t.chans = s.chans) (c : ChanId) : t.chan c = s.chan c := by
  simp [State.chan, h]

@[simp] theorem State.setChan_setChan (c : ChanId) (x y : Channel) : (s.setChan c x).setChan c y = s.setChan c y := by
  unfold State.setChan
  congr 1
  exact Quad.ext_get fun d => by simp only [Quad.get_set]; split <;> rfl

@[simp] theorem State.setFeed_setFeed (f : FeedId) (x y : Feed) : (s.setFeed f x).setFeed f y = s.setFeed f y := by
  unfold State.setFeed
  congr 1
  exact Oct.ext_get fun d => by simp only [Oct.get_set]; split <;> rfl

@[simp] theorem State.setChan_chan (c : ChanId) : s.setChan c (s.chan c) = s := by
  have h : s.chans.set c (s.chan c) = s.chans :=
    Quad.ext_get fun d => by simp only [Quad.get_set, State.chan]; split <;> simp_all
  simp [State.setChan, h]

end Sys2Proof.Machine
end

