-- ==== Sys2Proof/Laws/Link.lean ====
section
/-!
SUPPORT. What the shared operations of the link and the Notice Unit do: handing a record to the transmitter (R193),
raising an event (R195), replying (R191), and a command frame reaching the decoder (R190, R191).
-/

namespace Sys2Proof.Machine

/-! ## The transmitter -/

@[simp] theorem Link.begin_inBuf (l : Link) : l.begin.inBuf = l.inBuf := by unfold Link.begin; split <;> rfl
@[simp] theorem Link.begin_rx (l : Link) : l.begin.rx = l.rx := by unfold Link.begin; split <;> rfl
@[simp] theorem Link.begin_lastSent (l : Link) : l.begin.lastSent = l.lastSent := by unfold Link.begin; split <;> rfl

@[simp] theorem Link.handNotice_inBuf (l : Link) (c : NoticeClass) (u n : Nat) (d : Detail) :
    (l.handNotice c u n d).inBuf = l.inBuf := by simp [Link.handNotice]
@[simp] theorem Link.handNotice_rx (l : Link) (c : NoticeClass) (u n : Nat) (d : Detail) :
    (l.handNotice c u n d).rx = l.rx := by simp [Link.handNotice]
@[simp] theorem Link.handReply_inBuf (l : Link) (r : TxRecord) : (l.handReply r).inBuf = l.inBuf := by
  simp [Link.handReply]
@[simp] theorem Link.handReply_rx (l : Link) (r : TxRecord) : (l.handReply r).rx = l.rx := by simp [Link.handReply]

/-- A reply handed to the transmitter is still to be sent, so the decoder waits (R191). -/
theorem Link.replySent_handReply (l : Link) (tag kind : Byte) (st : Status) (b : List Byte) :
    (l.handReply (.reply tag kind st b)).replySent = false := by
  unfold Link.handReply Link.begin Link.replySent
  cases l.sending <;> cases l.outQueue <;> simp [TxRecord.isReply]

/-! ## raise (R195) -/

variable (u : Nat) (d : Detail) (s : State)

@[simp] theorem raise_engaged : (raise u d s).engaged = s.engaged := rfl
@[simp] theorem raise_storeSize : (raise u d s).storeSize = s.storeSize := rfl
@[simp] theorem raise_feeds : (raise u d s).feeds = s.feeds := rfl
@[simp] theorem raise_arbiter : (raise u d s).arbiter = s.arbiter := rfl
@[simp] theorem raise_storePort : (raise u d s).storePort = s.storePort := rfl
@[simp] theorem raise_cache : (raise u d s).cache = s.cache := rfl
@[simp] theorem raise_chans : (raise u d s).chans = s.chans := rfl
@[simp] theorem raise_curve : (raise u d s).curve = s.curve := rfl
@[simp] theorem raise_gangs : (raise u d s).gangs = s.gangs := rfl
@[simp] theorem raise_clips : (raise u d s).clips = s.clips := rfl
@[simp] theorem raise_markRefs : (raise u d s).markRefs = s.markRefs := rfl
@[simp] theorem raise_defaultLen : (raise u d s).defaultLen = s.defaultLen := rfl
@[simp] theorem raise_lists : (raise u d s).lists = s.lists := rfl
@[simp] theorem raise_panel : (raise u d s).panel = s.panel := rfl
@[simp] theorem raise_pending : (raise u d s).pending = s.pending := rfl

@[simp] theorem raise_feed (f : FeedId) : (raise u d s).feed f = s.feed f := rfl
@[simp] theorem raise_chan (c : ChanId) : (raise u d s).chan c = s.chan c := rfl

@[simp] theorem raise_inBuf : (raise u d s).link.inBuf = s.link.inBuf := by
  simp only [raise]; split <;> simp
@[simp] theorem raise_rx : (raise u d s).link.rx = s.link.rx := by
  simp only [raise]; split <;> simp

@[simp] theorem raise_cells_length : (raise u d s).cells.length = s.cells.length := by simp [raise]

/-- What raising an event leaves in every cell: its own takes the event, the others stay (R195). -/
theorem raise_cell (i : Nat) : (raise u d s).cell i =
    if i = cellIndex d.cls u ∧ i < s.cells.length then (s.cell i).take d else s.cell i := by
  simp only [raise, State.cell, List.getD_eq_getElem?_getD, List.getElem?_set]
  by_cases h : cellIndex d.cls u = i
  · subst h
    by_cases hl : cellIndex d.cls u < s.cells.length <;> simp [hl]
  · simp [h, Ne.symm h]

/-- A notice record goes out exactly when the latch of an enabled cell sets (R195). -/
theorem raise_link : (raise u d s).link =
    if (s.cell (cellIndex d.cls u)).latch = false ∧ (s.cell (cellIndex d.cls u)).enable = true then
      s.link.handNotice d.cls u (countUp (s.cell (cellIndex d.cls u)).count) d
    else s.link := by
  simp only [raise, Bool.and_eq_true, Bool.not_eq_true']

/-! ## Replies and frames (R190, R191) -/

variable (kind tag : Byte) (r : CmdResult)

@[simp] theorem replyWith_engaged : (replyWith kind tag r).engaged = r.state.engaged := rfl
@[simp] theorem replyWith_storeSize : (replyWith kind tag r).storeSize = r.state.storeSize := rfl
@[simp] theorem replyWith_feeds : (replyWith kind tag r).feeds = r.state.feeds := rfl
@[simp] theorem replyWith_arbiter : (replyWith kind tag r).arbiter = r.state.arbiter := rfl
@[simp] theorem replyWith_storePort : (replyWith kind tag r).storePort = r.state.storePort := rfl
@[simp] theorem replyWith_cache : (replyWith kind tag r).cache = r.state.cache := rfl
@[simp] theorem replyWith_chans : (replyWith kind tag r).chans = r.state.chans := rfl
@[simp] theorem replyWith_curve : (replyWith kind tag r).curve = r.state.curve := rfl
@[simp] theorem replyWith_gangs : (replyWith kind tag r).gangs = r.state.gangs := rfl
@[simp] theorem replyWith_clips : (replyWith kind tag r).clips = r.state.clips := rfl
@[simp] theorem replyWith_markRefs : (replyWith kind tag r).markRefs = r.state.markRefs := rfl
@[simp] theorem replyWith_defaultLen : (replyWith kind tag r).defaultLen = r.state.defaultLen := rfl
@[simp] theorem replyWith_lists : (replyWith kind tag r).lists = r.state.lists := rfl
@[simp] theorem replyWith_panel : (replyWith kind tag r).panel = r.state.panel := rfl
@[simp] theorem replyWith_pending : (replyWith kind tag r).pending = r.state.pending := rfl
@[simp] theorem replyWith_cells : (replyWith kind tag r).cells = r.state.cells := rfl
@[simp] theorem replyWith_feed (f : FeedId) : (replyWith kind tag r).feed f = r.state.feed f := rfl
@[simp] theorem replyWith_chan (c : ChanId) : (replyWith kind tag r).chan c = r.state.chan c := rfl
@[simp] theorem replyWith_inBuf : (replyWith kind tag r).link.inBuf = r.state.link.inBuf := by simp [replyWith]
@[simp] theorem replyWith_rx : (replyWith kind tag r).link.rx = r.state.link.rx := by simp [replyWith]

@[simp] theorem refuse_state (st : Status) : (refuse s st).state = s := rfl
@[simp] theorem done_state (c : Bool) (b : List Byte) : (done s c b).state = s := rfl

/-- A frame that finds no frame waiting and no reply on its way is taken at once (R190, R191). -/
theorem arrive_ready (f : LinkFrame) (run : State → State) {s : State} (h : s.ready) : arrive f run s = run s := by
  simp [arrive, h.1, h.2]

/-- A frame that cannot be taken at once joins the buffer, or is lost when four wait (R190). -/
theorem arrive_waits (f : LinkFrame) (run : State → State) {s : State} (h : ¬ s.ready) :
    arrive f run s = serviceDecoder (offer f s) := if_neg h

/-- A frame that finds a reply on its way is offered to the buffer and nothing else happens (R190, R191). -/
theorem arrive_pending (f : LinkFrame) (run : State → State) {s : State} (h : s.link.replySent = false)
    (hb : s.link.inBuf.length < 4) :
    arrive f run s = { s with link := { s.link with inBuf := s.link.inBuf ++ [f] } } := by
  have hr : ¬ s.ready := fun e => by simp [e.2] at h
  rw [arrive_waits f run hr]
  have ho : offer f s = { s with link := { s.link with inBuf := s.link.inBuf ++ [f] } } := if_pos hb
  have hs : Link.replySent { s.link with inBuf := s.link.inBuf ++ [f] } = false := h
  rw [ho]
  unfold serviceDecoder
  split
  · rfl
  · simp [hs]

/-- With the effect that the decoder gives a frame, the arrival is what the offer and the decoder make of it. -/
theorem arrive_eq_service (f : LinkFrame) (s : State) :
    arrive f (runFrame f) s = serviceDecoder (offer f s) := by
  by_cases h : s.ready
  · have hb := h.1
    have hs : Link.replySent { s.link with inBuf := [f] } = true := h.2
    rw [arrive_ready f _ h]
    simp only [offer, hb, List.length_nil, Config.linkFrames, Nat.zero_lt_succ, if_true, List.nil_append, serviceDecoder,
      hs]
    congr 1
    cases s with
    | mk e ss l => cases l; simp_all
  · exact arrive_waits f _ h

end Sys2Proof.Machine
end

