-- ==== Sys2Proof/Laws/Kept.lean ====
section
/-!
SUPPORT. What every operation inside the part keeps: the engagement state, STORE_SIZE, every feed's configuration, the
curve, the input buffer, the receiver and the queue (`State.ground`); and which operations keep the cue lists. The
commands that change one of these are SET_STORE, SET_FEED, SET_CURVE, ENGAGE, DISENGAGE, the frames on the link, and
hardware reset.
-/

namespace Sys2Proof.Machine

/-- The engagement state, STORE_SIZE, the feeds' configurations, the curve, the input buffer, the receiver, the
queue. -/
def State.ground (s : State) :
    Engagement × Nat × (FeedId → FeedConfig) × List Int × List LinkFrame × RxState × List Instr :=
  (s.engaged, s.storeSize, fun f => (s.feed f).cfg, s.curve, s.link.inBuf, s.link.rx, s.pending)

theorem State.ground_eq {s t : State} (he : t.engaged = s.engaged) (hs : t.storeSize = s.storeSize)
    (hf : ∀ f, (t.feed f).cfg = (s.feed f).cfg) (hc : t.curve = s.curve) (hb : t.link.inBuf = s.link.inBuf)
    (hr : t.link.rx = s.link.rx) (hp : t.pending = s.pending) : t.ground = s.ground := by
  simp only [State.ground, he, hs, hc, hb, hr, hp]
  congr 4
  funext f
  exact hf f

/-- A fold of operations that keep a view keeps it. -/
theorem foldl_keeps {α β : Type} (view : State → β) (f : State → α → State) (h : ∀ s a, view (f s a) = view s)
    (l : List α) (s : State) : view (l.foldl f s) = view s := by
  induction l generalizing s with
  | nil => rfl
  | cons a l ih => rw [List.foldl_cons, ih, h]

variable (s : State)

@[simp] theorem ground_raise (u : Nat) (d : Detail) : (raise u d s).ground = s.ground := by
  apply State.ground_eq <;> simp
@[simp] theorem ground_setChan (c : ChanId) (x : Channel) : (s.setChan c x).ground = s.ground := rfl
@[simp] theorem ground_setList (c : ChanId) (l : List CueEntry) : (s.setList c l).ground = s.ground := rfl
@[simp] theorem ground_setPhase (c : ChanId) (p : TickPhase) : (s.setPhase c p).ground = s.ground := rfl
@[simp] theorem ground_cache (c : Cache) : ({ s with cache := c } : State).ground = s.ground := rfl
@[simp] theorem ground_clips (c : SMap Clip) : ({ s with clips := c } : State).ground = s.ground := rfl
@[simp] theorem ground_gangs (g : Quad (List GangSlave)) : ({ s with gangs := g } : State).ground = s.ground := rfl
@[simp] theorem ground_panel (p : Panel) : ({ s with panel := p } : State).ground = s.ground := rfl
theorem ground_setFeed (f : FeedId) (x : Feed) (h : x.cfg = (s.feed f).cfg) : (s.setFeed f x).ground = s.ground := by
  apply State.ground_eq <;> simp
  intro g
  split
  · rename_i e; rw [e, h]
  · rfl

/-! ## Clips, use counts -/

@[simp] theorem ground_takeClip (id : Nat) : (takeClip id s).ground = s.ground := rfl
@[simp] theorem ground_releaseClip (id : Nat) : (releaseClip id s).ground = s.ground := rfl
@[simp] theorem ground_takeMaterial (m : Option Material) : (takeMaterial m s).ground = s.ground := by
  unfold takeMaterial; split <;> simp
@[simp] theorem ground_releaseMaterial (m : Option Material) : (releaseMaterial m s).ground = s.ground := by
  unfold releaseMaterial; split <;> simp
@[simp] theorem ground_changeMaterial (c : ChanId) (m : Option Material) : (changeMaterial c m s).ground = s.ground := by
  simp [changeMaterial]
@[simp] theorem ground_clearRefs (id : Nat) : (clearRefs id s).ground = s.ground := rfl
@[simp] theorem ground_expireClip (id : Nat) (c : Clip) (t : Option Nat) : (expireClip id c t s).ground = s.ground := by
  simp only [expireClip, ground_raise]; split <;> simp
@[simp] theorem ground_expireWhere (f : FeedId) (p : Clip → Bool) (t : Option Nat) :
    (expireWhere f p t s).ground = s.ground := by
  unfold expireWhere
  apply foldl_keeps State.ground
  intro s r
  split <;> simp
@[simp] theorem ground_watchClips (f : FeedId) (t : Nat) : (watchClips f t s).ground = s.ground := by
  unfold watchClips
  apply foldl_keeps State.ground
  intro s r
  dsimp only
  split <;> simp
@[simp] theorem ground_takeTail (f : FeedId) (t : Nat) : (takeTail f t s).ground = s.ground := by simp [takeTail]
@[simp] theorem ground_clipNotice (f : FeedId) : (clipNotice f s).ground = s.ground := by
  unfold clipNotice; split
  · rfl
  · rw [ground_takeTail]; exact ground_setFeed _ _ _ rfl

/-! ## Ingest -/

@[simp] theorem ground_raiseDamage (f : FeedId) (n : Nat) (c : Option DamageCause) :
    (raiseDamage f n c s).ground = s.ground := by unfold raiseDamage; split <;> simp
@[simp] theorem ground_finishFront (f : FeedId) (p : ClosedFrame) : (finishFront f p s).ground = s.ground := by
  simp only [finishFront, ground_raiseDamage]; exact ground_setFeed _ _ _ rfl
@[simp] theorem ground_finishFrom (f : FeedId) (l : List ClosedFrame) : (finishFrom f l s).ground = s.ground := by
  induction l generalizing s with
  | nil => rfl
  | cons p l ih => unfold finishFrom; split <;> simp [ih]
@[simp] theorem ground_finishFrames (f : FeedId) : (finishFrames f s).ground = s.ground := by simp [finishFrames]
@[simp] theorem ground_closeFrame (f : FeedId) (m : Option DamageCause) : (closeFrame f m s).ground = s.ground := by
  simp only [closeFrame]; split
  · rfl
  · rw [ground_finishFrames]; exact ground_setFeed _ _ _ rfl
@[simp] theorem ground_overtake (f : FeedId) (n : Nat) : (overtake f n s).ground = s.ground := by
  simp only [overtake, ground_finishFrames, ground_raise]; exact ground_setFeed _ _ _ rfl
@[simp] theorem ground_overtakeEntry (f : FeedId) (e : Option Entry) : (overtakeEntry f e s).ground = s.ground := by
  unfold overtakeEntry; split
  · split <;> simp
  · rfl
@[simp] theorem ground_openNewFrame (f : FeedId) (n : Nat) : (openNewFrame f n s).ground = s.ground := by
  simp only [openNewFrame]; exact ground_setFeed _ _ _ rfl
@[simp] theorem ground_startFrame (f : FeedId) : (startFrame f s).ground = s.ground := by
  simp only [startFrame, ground_openNewFrame, ground_overtakeEntry]
  refine (ground_setFeed _ _ _ ?_).trans (ground_closeFrame _ _ _)
  rfl
@[simp] theorem ground_exhaust (f : FeedId) : (exhaust f s).ground = s.ground := by
  simp only [exhaust, ground_raise]
  refine (ground_setFeed _ _ _ ?_).trans (ground_closeFrame _ _ _)
  rfl
@[simp] theorem ground_frameStart (f : FeedId) : (frameStart f s).ground = s.ground := by
  simp only [frameStart]; repeat' split
  all_goals simp
@[simp] theorem ground_fragment (f : FeedId) (d : Fragment) : (fragment f d s).ground = s.ground := by
  simp only [fragment]; repeat' split
  all_goals first | rfl | exact ground_setFeed _ _ _ rfl
@[simp] theorem ground_storeWrite (f : FeedId) (r : StoreResult) : (storeWrite f r s).ground = s.ground := by
  simp only [storeWrite]; split
  · rfl
  · rw [ground_finishFrames]
    exact (ground_setFeed s f _ (by cases r <;> rfl))
@[simp] theorem ground_damageTaken (f : FeedId) (n : Nat) : (damageTaken f n s).ground = s.ground := by
  simp only [damageTaken]; repeat' split
  all_goals first | rfl | (rw [ground_raise]; exact ground_setFeed _ _ _ rfl)
@[simp] theorem ground_finishTruncated (f : FeedId) (l : List ClosedFrame) :
    (finishTruncated f l s).ground = s.ground := by
  induction l generalizing s with
  | nil => rfl
  | cons p l ih => simp [finishTruncated, ih]
@[simp] theorem ground_disengageFeed (f : FeedId) : (disengageFeed f s).ground = s.ground := by
  simp only [disengageFeed]
  refine (ground_setFeed _ _ _ ?_).trans ((ground_finishTruncated _ _ _).trans ?_)
  · rfl
  refine (ground_setFeed _ _ _ ?_).trans (ground_closeFrame _ _ _)
  rfl

/-! ## Frame Cache -/

@[simp] theorem ground_enterError (f : FeedId) (n : Nat) (i : Option Nat) (c : StoreErrorCause) :
    (enterError f n i c s).ground = s.ground := by unfold enterError; split <;> simp
@[simp] theorem ground_fillAccept (k : Nat) (f : Fill) (x : Slot) (d : Fragment) :
    (fillAccept k f x d s).ground = s.ground := by
  simp only [fillAccept]; repeat' split
  all_goals simp
@[simp] theorem ground_fillError (k : Nat) (f : Fill) (x : Slot) : (fillError k f x s).ground = s.ground := by
  simp only [fillError]; split <;> simp
@[simp] theorem ground_fillBeat (k : Nat) (r : StoreResult) (d : Fragment) : (fillBeat k r d s).ground = s.ground := by
  simp only [fillBeat]; repeat' split
  · rfl
  · rfl
  · rw [ground_fillAccept]; rfl
  · rw [ground_fillError]; rfl
@[simp] theorem ground_timeOut (c : ChanId) (k : Nat) : (timeOut c k s).ground = s.ground := by
  simp only [timeOut]; repeat' split
  all_goals simp
@[simp] theorem ground_countTick (c : ChanId) : (countTick c s).ground = s.ground := by
  simp only [countTick]
  rw [foldl_keeps State.ground _ (fun s k => ground_timeOut s c k)]
  simp
@[simp] theorem ground_cacheNotice (f : FeedId) : (cacheNotice f s).ground = s.ground := by
  simp only [cacheNotice]; split
  · rfl
  · rw [ground_cache]; exact ground_setFeed _ _ _ rfl
@[simp] theorem ground_damageArrives (f : FeedId) (n : Nat) : (damageArrives f n s).ground = s.ground := by
  unfold damageArrives; split <;> simp

/-! ## Lookups and channels -/

@[simp] theorem ground_lookup (c : ChanId) (f : FeedId) (n : Nat) : (lookup c f n s).1.ground = s.ground := by
  simp only [lookup]; repeat' split
  all_goals rfl
@[simp] theorem ground_frameReady (c : ChanId) (f : FeedId) (n : Nat) : (frameReady c f n s).ground = s.ground := by
  simp only [frameReady]; split <;> simp
@[simp] theorem ground_frameFailed (c : ChanId) (f : FeedId) (n : Nat) (r : Reason) :
    (frameFailed c f n r s).ground = s.ground := by simp only [frameFailed]; split <;> simp
@[simp] theorem ground_handleAnswer (c : ChanId) (f : FeedId) (n : Nat) (a : Answer) :
    (handleAnswer c f n a s).ground = s.ground := by unfold handleAnswer; split <;> simp
@[simp] theorem ground_sendLookup (c : ChanId) (f : FeedId) (n : Nat) : (sendLookup c f n s).ground = s.ground := by
  simp [sendLookup]
@[simp] theorem ground_sendLookups (c : ChanId) (f : FeedId) (l : List Nat) :
    (sendLookups c f l s).ground = s.ground := by
  unfold sendLookups
  apply foldl_keeps State.ground
  intro s n
  split <;> simp
@[simp] theorem ground_reportArrives (c : ChanId) (f : FeedId) (n : Nat) :
    (reportArrives c f n s).ground = s.ground := by
  simp only [reportArrives]; repeat' split
  all_goals simp
@[simp] theorem ground_releasePins (c : ChanId) : (releasePins c s).ground = s.ground := rfl
@[simp] theorem ground_dropMaterial (c : ChanId) : (dropMaterial c s).ground = s.ground := by simp [dropMaterial]
@[simp] theorem ground_enterIdle (c : ChanId) : (enterIdle c s).ground = s.ground := by
  simp only [enterIdle]; split <;> simp
@[simp] theorem ground_raiseWindowLost (c : ChanId) (f : FeedId) (i : Option Nat) :
    (raiseWindowLost c f i s).ground = s.ground := by simp [raiseWindowLost]
@[simp] theorem ground_loseWindow (c : ChanId) : (loseWindow c s).ground = s.ground := by simp [loseWindow]

/-! ## Gangs -/

@[simp] theorem ground_leaveGang (m c : ChanId) : (leaveGang m c s).ground = s.ground := by simp [leaveGang]
@[simp] theorem ground_slaveToIdle (m c : ChanId) : (slaveToIdle m c s).ground = s.ground := by simp [slaveToIdle]
@[simp] theorem ground_loseSlave (m : ChanId) (g : GangSlave) : (loseSlave m g s).ground = s.ground := by
  simp [loseSlave]
@[simp] theorem ground_ejectSlaves (m : ChanId) : (ejectSlaves m s).ground = s.ground := by
  unfold ejectSlaves
  apply foldl_keeps State.ground
  intro s g
  simp
@[simp] theorem ground_loseSlaves (m : ChanId) : (loseSlaves m s).ground = s.ground := by
  unfold loseSlaves
  apply foldl_keeps State.ground
  intro s g
  simp
@[simp] theorem ground_windowLost (c : ChanId) : (windowLost c s).ground = s.ground := by simp [windowLost]
@[simp] theorem ground_deriveSlave (m : ChanId) (g : GangSlave) : (deriveSlave m g s).ground = s.ground := by
  unfold deriveSlave; repeat' split
  all_goals simp
@[simp] theorem ground_derive (m : ChanId) : (derive m s).ground = s.ground :=
  foldl_keeps State.ground (fun acc g => deriveSlave m g acc) (fun s g => ground_deriveSlave s m g) _ _
@[simp] theorem ground_selectSlave (g : GangSlave) : (selectSlave g s).ground = s.ground := by
  simp only [selectSlave]; split <;> simp
@[simp] theorem ground_fetchSlave (h : SlaveFetch) (g : GangSlave) : (fetchSlave h g s).ground = s.ground := by
  simp only [fetchSlave]; repeat' split
  all_goals simp
@[simp] theorem ground_followMaster (m : ChanId) (h : SlaveFetch) : (followMaster m h s).ground = s.ground := by
  simp only [followMaster]
  rw [foldl_keeps State.ground _ (fun s g => by simp)]
  simp
@[simp] theorem ground_adoptAngle (g : GangSlave) : (adoptAngle g s).ground = s.ground := by
  simp only [adoptAngle]; split <;> simp
@[simp] theorem ground_assignAngles (m : ChanId) (id : Nat) : (assignAngles m id s).ground = s.ground := by
  simp only [assignAngles]; split
  · rfl
  · rw [foldl_keeps State.ground _ (fun s g => ground_adoptAngle s g)]; rfl
@[simp] theorem ground_assignOwnAngles (c : ChanId) : (assignOwnAngles c s).ground = s.ground := by
  unfold assignOwnAngles; split <;> simp
@[simp] theorem ground_joinGang (m : ChanId) (g : GangSlave) : (joinGang m g s).ground = s.ground := by
  simp only [joinGang]; split <;> simp
@[simp] theorem ground_ungangSlave (m : ChanId) (g : GangSlave) : (ungangSlave m g s).ground = s.ground := by
  simp only [ungangSlave]; split <;> simp

/-! ## Cues, cue lists, ticks -/

@[simp] theorem ground_preload (c : ChanId) (f : FeedId) (w : Window) (e : Nat) (r : Bool) :
    (preload c f w e r s).ground = s.ground := by simp [preload]
@[simp] theorem ground_cue (c : ChanId) (f : FeedId) (w : Window) (e : Nat) (r : Bool) :
    (cue c f w e r s).ground = s.ground := by simp [cue]
@[simp] theorem ground_eject (c : ChanId) : (eject c s).ground = s.ground := by
  unfold eject; repeat' split
  all_goals simp
@[simp] theorem ground_releaseEntries (l : List CueEntry) : (releaseEntries l s).ground = s.ground := by
  unfold releaseEntries
  apply foldl_keeps State.ground
  intro s e
  simp
@[simp] theorem ground_passOver (c : ChanId) (e : CueEntry) : (passOver c e s).ground = s.ground := by
  simp only [passOver]; split <;> simp
@[simp] theorem ground_passAll (c : ChanId) (l : List CueEntry) : (passAll c l s).ground = s.ground :=
  foldl_keeps State.ground (fun acc e => passOver c e acc) (fun s e => ground_passOver s c e) _ _
@[simp] theorem ground_takeEntry (c : ChanId) (p : List CueEntry) (e : CueEntry) (r : List CueEntry) :
    (takeEntry c p e r s).ground = s.ground := by simp [takeEntry]
@[simp] theorem ground_passWhole (c : ChanId) : (passWhole c s).ground = s.ground := by simp [passWhole]
@[simp] theorem ground_advanceNext (c : ChanId) (b : WindowEnd) (p : List CueEntry) (e : CueEntry) (x : Clip)
    (r : List CueEntry) : (advanceNext c b p e x r s).ground = s.ground := by
  simp only [advanceNext]; split <;> simp
@[simp] theorem ground_sendRecord (c : ChanId) (r : PresRecord) : (sendRecord c r s).ground = s.ground := rfl
@[simp] theorem ground_repeatLast (c : ChanId) (f : FeedId) (n : Option Nat) (r : RepeatCause) :
    (repeatLast c f n r s).ground = s.ground := by simp [repeatLast]
@[simp] theorem ground_presentSelection (c : ChanId) (x : Selection) (r : RepeatCause) :
    (presentSelection c x r s).ground = s.ground := by unfold presentSelection; split <;> simp
@[simp] theorem ground_presentActive (c : ChanId) : (presentActive c s).ground = s.ground := by
  simp only [presentActive]; split <;> simp
@[simp] theorem ground_presentIdle (c : ChanId) : (presentIdle c s).ground = s.ground := by
  simp only [presentIdle]; repeat' split
  all_goals simp
@[simp] theorem ground_stepIdle (c : ChanId) : (stepIdle c s).ground = s.ground := by
  simp only [stepIdle]; repeat' split
  all_goals simp
@[simp] theorem ground_stopEnd (c : ChanId) (w : Window) (e : WindowEnd) : (stopEnd c w e s).ground = s.ground := by
  simp [stopEnd]
@[simp] theorem ground_nextEnd (c : ChanId) (w : Window) (e : WindowEnd) : (nextEnd c w e s).ground = s.ground := by
  unfold nextEnd; split <;> simp
@[simp] theorem ground_clipBoundEnd (c : ChanId) (w : Window) (e : WindowEnd) (q : Int) (m : EndMode) :
    (clipBoundEnd c w e q m s).ground = s.ground := by
  simp only [clipBoundEnd]; repeat' split
  all_goals simp
@[simp] theorem ground_setAtLive (c : ChanId) (h : Nat) : (setAtLive c h s).ground = s.ground := by
  simp only [setAtLive]; split <;> simp
@[simp] theorem ground_setAtTail (c : ChanId) (t : Nat) : (setAtTail c t s).ground = s.ground := by
  simp only [setAtTail]; split <;> simp
@[simp] theorem ground_liveBoundEnd (c : ChanId) (w : Window) : (liveBoundEnd c w s).ground = s.ground := by
  simp [liveBoundEnd]
@[simp] theorem ground_tailBoundEnd (c : ChanId) (w : Window) : (tailBoundEnd c w s).ground = s.ground := by
  simp [tailBoundEnd]
@[simp] theorem ground_settleInside (c : ChanId) (w : Window) (q : Int) : (settleInside c w q s).ground = s.ground := by
  simp only [settleInside]; split <;> simp
@[simp] theorem ground_settle (c : ChanId) (w : Window) (q : Int) : (settle c w q s).ground = s.ground := by
  unfold settle; repeat' split
  all_goals simp
@[simp] theorem ground_selectAndFetch (c : ChanId) (w : Window) : (selectAndFetch c w s).ground = s.ground := by
  simp [selectAndFetch]
@[simp] theorem ground_stepActive (c : ChanId) : (stepActive c s).ground = s.ground := by
  simp only [stepActive]; repeat' split
  all_goals simp
@[simp] theorem ground_stepSlave (c : ChanId) : (stepSlave c s).ground = s.ground := by
  simp only [stepSlave]; split <;> simp
@[simp] theorem ground_presentAndStep (c : ChanId) : (presentAndStep c s).ground = s.ground := by
  unfold presentAndStep; repeat' split
  all_goals simp
@[simp] theorem ground_outputTick (c : ChanId) : (outputTick c s).ground = s.ground := by
  simp only [outputTick, tickPanel]; repeat' split
  all_goals simp
@[simp] theorem ground_tickCounted (c : ChanId) : (tickCounted c s).ground = s.ground := by
  unfold tickCounted; split <;> simp

/-! ## The beat -/

@[simp] theorem ground_moveFragment (g : Grant) (r : StoreResult) (d : Fragment) :
    (moveFragment g r d s).ground = s.ground := by
  unfold moveFragment; repeat' split
  all_goals first | rfl | simp
@[simp] theorem ground_beat (r : StoreResult) (d : Fragment) : (beat r d s).ground = s.ground := by
  simp only [beat, ground_moveFragment]; rfl

end Sys2Proof.Machine
end

