-- ==== Sys2Proof/Laws/Tables.lean ====
section
/-!
SUPPORT. The sparse tables: what a key reads as after each operation, and that every operation keeps the canonical
form.
-/

namespace Sys2Proof

variable {α : Type}

theorem SMap.find_put (m : SMap α) (k : Nat) (v : α) (j : Nat) :
    (m.put k v).find j = if j = k then some v else m.find j := by
  induction m with
  | nil => simp [SMap.put, SMap.find, eq_comm]
  | cons r t ih =>
    obtain ⟨i, w⟩ := r
    by_cases h1 : k < i
    · simp only [SMap.put, if_pos h1, SMap.find, eq_comm (a := j)]
    · by_cases h2 : k = i
      · subst h2
        by_cases hj : k = j <;> simp [SMap.put, SMap.find, hj, eq_comm (a := j)]
      · by_cases hj : i = j
        · subst hj; simp [SMap.put, h1, h2, SMap.find, Ne.symm h2]
        · simp [SMap.put, h1, h2, SMap.find, hj, ih]

theorem SMap.find_adjust (m : SMap α) (k : Nat) (f : α → α) (j : Nat) :
    (m.adjust k f).find j = if j = k then (m.find j).map f else m.find j := by
  induction m with
  | nil => simp [SMap.adjust, SMap.find]
  | cons r t ih =>
    obtain ⟨i, w⟩ := r
    by_cases h : i = k
    · subst h
      by_cases hj : i = j <;> simp [SMap.adjust, SMap.find, hj]
      intro e; exact absurd e.symm hj
    · by_cases hj : i = j
      · subst hj; simp [SMap.adjust, SMap.find, h]
      · simp [SMap.adjust, h, SMap.find, hj, ih]

/-- Every key of a table is above `b`, and the keys rise strictly. -/
def SMap.above (b : Option Nat) : SMap α → Prop
  | [] => True
  | (i, _) :: t => (∀ x, b = some x → x < i) ∧ SMap.above (some i) t

theorem SMap.wf_iff (m : SMap α) : m.wf = true ↔ m.above none := by
  have key : ∀ (t : SMap α) (i : Nat) (v : α), SMap.wf ((i, v) :: t) = true ↔ SMap.above (some i) t := by
    intro t
    induction t with
    | nil => intro i v; simp [SMap.wf, SMap.above]
    | cons r t ih =>
      intro i v
      obtain ⟨j, w⟩ := r
      have := ih j w
      simp [SMap.wf, SMap.above, this]
  cases m with
  | nil => simp [SMap.wf, SMap.above]
  | cons r t => obtain ⟨i, v⟩ := r; simp [key, SMap.above]

theorem SMap.above_mono {m : SMap α} {x : Nat} (h : m.above (some x)) : m.above none := by
  cases m with
  | nil => trivial
  | cons r t => exact ⟨fun _ e => by simp at e, h.2⟩

theorem SMap.above_put {m : SMap α} {b : Option Nat} (h : m.above b) (k : Nat) (v : α)
    (hk : ∀ x, b = some x → x < k) : (m.put k v).above b := by
  induction m generalizing b with
  | nil => exact ⟨hk, trivial⟩
  | cons r t ih =>
    obtain ⟨i, w⟩ := r
    unfold SMap.put
    split
    · exact ⟨hk, fun x hx => by simp at hx; omega, h.2⟩
    · split
      · rename_i e; subst e; exact ⟨h.1, h.2⟩
      · exact ⟨h.1, ih h.2 fun x hx => by simp at hx; omega⟩

theorem SMap.above_weaken {m : SMap α} {b c : Option Nat} (h : m.above b) (hc : ∀ x, c = some x → ∃ y, b = some y ∧ x ≤ y) :
    m.above c := by
  cases m with
  | nil => trivial
  | cons r t =>
    refine ⟨fun x hx => ?_, h.2⟩
    obtain ⟨y, hy, hxy⟩ := hc x hx
    exact Nat.lt_of_le_of_lt hxy (h.1 y hy)

theorem SMap.above_del {m : SMap α} {b : Option Nat} (h : m.above b) (k : Nat) : (m.del k).above b := by
  induction m generalizing b with
  | nil => trivial
  | cons r t ih =>
    obtain ⟨i, w⟩ := r
    unfold SMap.del
    split
    · cases b with
      | none => exact SMap.above_mono h.2
      | some x =>
        exact SMap.above_weaken h.2 fun y hy => by simp at hy; exact ⟨i, rfl, by have := h.1 x rfl; omega⟩
    · exact ⟨h.1, ih h.2⟩

theorem SMap.above_adjust {m : SMap α} {b : Option Nat} (h : m.above b) (k : Nat) (f : α → α) :
    (m.adjust k f).above b := by
  induction m generalizing b with
  | nil => trivial
  | cons r t ih =>
    obtain ⟨i, w⟩ := r
    unfold SMap.adjust
    split
    · exact ⟨h.1, h.2⟩
    · exact ⟨h.1, ih h.2⟩

/-- Giving a key a value keeps the canonical form. -/
theorem SMap.wf_put {m : SMap α} (h : m.wf = true) (k : Nat) (v : α) : (m.put k v).wf = true :=
  (SMap.wf_iff _).2 (SMap.above_put ((SMap.wf_iff _).1 h) k v fun _ e => by simp at e)

/-- Taking a key out keeps the canonical form. -/
theorem SMap.wf_del {m : SMap α} (h : m.wf = true) (k : Nat) : (m.del k).wf = true :=
  (SMap.wf_iff _).2 (SMap.above_del ((SMap.wf_iff _).1 h) k)

/-- Changing a value keeps the canonical form. -/
theorem SMap.wf_adjust {m : SMap α} (h : m.wf = true) (k : Nat) (f : α → α) : (m.adjust k f).wf = true :=
  (SMap.wf_iff _).2 (SMap.above_adjust ((SMap.wf_iff _).1 h) k f)

theorem SMap.find_of_above {m : SMap α} {x : Nat} (h : m.above (some x)) {k : Nat} (hk : k ≤ x) : m.find k = none := by
  induction m generalizing x with
  | nil => rfl
  | cons r t ih =>
    obtain ⟨i, w⟩ := r
    have hi := h.1 x rfl
    have : i ≠ k := by omega
    simp [SMap.find, this, ih h.2 (by omega)]

/-- A key taken out of a table in canonical form has no value, and the other keys keep theirs. -/
theorem SMap.find_del {m : SMap α} (h : m.wf = true) (k j : Nat) :
    (m.del k).find j = if j = k then none else m.find j := by
  have key : ∀ (m : SMap α) (b : Option Nat), m.above b → (m.del k).find j = if j = k then none else m.find j := by
    intro m
    induction m with
    | nil => intro b _; simp [SMap.del, SMap.find]
    | cons r t ih =>
      intro b h
      obtain ⟨i, w⟩ := r
      by_cases hi : i = k
      · subst hi
        by_cases hj : j = i
        · subst hj; simp [SMap.del, SMap.find_of_above h.2 le_rfl]
        · simp [SMap.del, SMap.find, hj, Ne.symm hj]
      · by_cases hj : i = j
        · subst hj; simp [SMap.del, hi, SMap.find]
        · simp [SMap.del, hi, SMap.find, hj, ih _ h.2]
  exact key m none ((SMap.wf_iff m).1 h)

end Sys2Proof
end

