-- ==== Sys2Proof/Laws/Does.lean ====
section
/-!
SUPPORT. What the shared operations of ingest, cache and channels do, said once: the finishing of closed frames (R17),
the abort of a fill (R144, R145), a channel's lookups under its fetch permit (R94, R96), the preload frames (R79), the
frames of the lookahead (R69), the Store Arbiter's choices (R138, R158, R159), a search over the feeds (R183), and the
search of a cue list (R125).
-/

namespace Sys2Proof

variable {α : Type}

/-- A map over the values of a table, seen at one key. -/
theorem SMap.find_map (m : SMap α) (g : α → α) (j : Nat) :
    SMap.find (m.map fun r => (r.1, g r.2)) j = (m.find j).map g := by
  induction m with
  | nil => rfl
  | cons r t ih =>
    obtain ⟨i, v⟩ := r
    by_cases h : i = j <;> simp [SMap.find, h, ih]

/-- An entry found is an entry of the table. -/
theorem SMap.mem_of_find {m : SMap α} {k : Nat} {v : α} (h : m.find k = some v) : (k, v) ∈ m := by
  induction m with
  | nil => simp [SMap.find] at h
  | cons r t ih =>
    obtain ⟨i, w⟩ := r
    by_cases hi : i = k
    · simp [SMap.find, hi] at h; simp [hi, h]
    · simp [SMap.find, hi] at h; exact List.mem_cons_of_mem _ (ih h)

namespace Machine

/-! ## The pending list (R17) -/

theorem setFeed_eq (s : State) (f : FeedId) : s.setFeed f (s.feed f) = s := by
  cases s; simp only [State.setFeed, State.feed]; congr 1
  fin_cases f <;> rfl

theorem raiseDamage_setFeed (f g : FeedId) (n : Nat) (c : Option DamageCause) (x : Feed) (s : State) :
    (raiseDamage f n c s).setFeed g x = raiseDamage f n c (s.setFeed g x) := by
  cases c <;> rfl

theorem raiseFinished_cons (f : FeedId) (p : ClosedFrame) (l : List ClosedFrame) (s : State) :
    raiseFinished f (p :: l) s = raiseFinished f l (raiseDamage f p.number p.finalCause s) := rfl

/-- The frames at the front of the pending list whose fragments are all written finish, and the rest waits. -/
theorem finishFrames_eq (f : FeedId) (s : State) (done left : List ClosedFrame)
    (h : FinishSplit (s.feed f).closing (s.feed f).buffer done left) :
    finishFrames f s = raiseFinished f done (s.setFeed f ((s.feed f).afterFinish done left)) := by
  have key : ∀ (done : List ClosedFrame) (s : State) (l : List ClosedFrame),
      l = done ++ left → (s.feed f).closing = l →
      (∀ p ∈ done, ∀ g ∈ (s.feed f).buffer, g.frame ≠ p.number) →
      (∀ p rest, left = p :: rest → ∃ g ∈ (s.feed f).buffer, g.frame = p.number) →
      finishFrom f l s = raiseFinished f done (s.setFeed f ((s.feed f).afterFinish done left)) := by
    intro done
    induction done with
    | nil =>
      intro s l hl hc _ hw
      have hx : (s.feed f).afterFinish [] left = s.feed f := by
        have hcl : (s.feed f).closing = left := hc.trans hl
        simp only [Feed.afterFinish, List.getLast?_nil, List.foldl_nil, ← hcl]
      rw [hx, setFeed_eq]
      cases hl' : left with
      | nil => subst hl; simp [hl', finishFrom, raiseFinished]
      | cons p rest =>
        obtain ⟨g, hg, hgp⟩ := hw p rest hl'
        have : (s.feed f).buffers p.number = true := by
          simp only [Feed.buffers, List.any_eq_true]; exact ⟨g, hg, by simp [hgp]⟩
        subst hl; simp [hl', finishFrom, this, raiseFinished]
    | cons p done ih =>
      intro s l hl hc hd hw
      subst hl
      have hp : (s.feed f).buffers p.number = false := by
        simp only [Feed.buffers, List.any_eq_false]
        intro g hg; simp [hd p (by simp) g hg]
      simp only [List.cons_append, finishFrom, hp, Bool.false_eq_true, if_false]
      have hb : ((finishFront f p s).feed f).buffer = (s.feed f).buffer := by
        simp only [finishFront]; cases p.finalCause <;> simp [raiseDamage]
      have hcl : ((finishFront f p s).feed f).closing = done ++ left := by
        simp only [finishFront]; cases p.finalCause <;> simp [raiseDamage, hc]
      rw [ih (finishFront f p s) _ rfl hcl (fun q hq => by rw [hb]; exact hd q (by simp [hq]))
        (fun q rest hq => by rw [hb]; exact hw q rest hq)]
      have hf : (finishFront f p s).feed f =
          { s.feed f with
            directory := SMap.put (s.feed f).directory (p.number % (s.feed f).cfg.depth) p.finished
            closing := (s.feed f).closing.drop 1, head := some p.number, lastCause := p.finalCause } := by
        simp only [finishFront]; cases p.finalCause <;> simp [raiseDamage]
      rw [hf, raiseFinished_cons, finishFront, raiseDamage_setFeed, State.setFeed_setFeed]
      congr 3
      cases done with
      | nil => simp [Feed.afterFinish]
      | cons q done =>
        obtain ⟨y, hy⟩ : ∃ y, (q :: done).getLast? = some y := ⟨_, List.getLast?_eq_some_getLast (by simp)⟩
        have hy' : (p :: q :: done).getLast? = some y := by rw [List.getLast?_cons_cons]; exact hy
        simp [Feed.afterFinish, hy, hy']
  exact key done s _ h.parts rfl h.written h.waits

/-! ## The abort of a fill (R144, R145) -/

/-- One report reaches every channel of a waiter set, and no other. -/
theorem Cache.report_get (c : Cache) (l : List ChanId) (r : FillReport) (h : l.Nodup) (w : ChanId) :
    (c.report l r).reports.get w = c.reports.get w ++ if w ∈ l then [r] else [] := by
  simp only [Cache.report]
  generalize c.reports = q
  induction l generalizing q with
  | nil => simp
  | cons a l ih =>
    have ha : a ∉ l := (List.nodup_cons.1 h).1
    rw [List.foldl_cons, ih (List.nodup_cons.1 h).2]
    by_cases hw : w = a
    · subst hw; simp [ha]
    · simp [hw]

theorem Cache.freeContext_find (c : Cache) (k : Nat) (z : Fill) (h : SMap.wf c.fills = true) (j : Nat) :
    SMap.find (c.freeContext k z).fills j = if j = k then none else (SMap.find c.fills j).map fun y =>
      if y.owner = z.owner ∧ z.order < y.order then { y with order := y.order - 1 } else y := by
  have hm : (c.freeContext k z).fills = (SMap.del c.fills k).map fun r => (r.1,
      if r.2.owner = z.owner ∧ z.order < r.2.order then { r.2 with order := r.2.order - 1 } else r.2) := by
    simp only [Cache.freeContext]
    apply List.map_congr_left
    intro r _
    split <;> rfl
  rw [hm, SMap.find_map (SMap.del c.fills k) (fun y =>
    if y.owner = z.owner ∧ z.order < y.order then { y with order := y.order - 1 } else y), SMap.find_del h]
  split <;> rfl

/-- What an abort does (R144, R145). -/
theorem Cache.abort_aborted (c : Cache) (k : Nat) (z : Fill) (x : Slot) (why : Reason)
    (hf : SMap.wf c.fills = true) (hs : SMap.wf c.slots = true) (hz : SMap.find c.fills k = some z)
    (hx : SMap.find c.slots z.slot = some x) : Aborted c (c.abort k why) k z x why := by
  have he : c.abort k why = ((c.abandonSlot z.slot x).freeContext k z).report z.waiters ⟨x.feed, x.frame, some why⟩ := by
    simp only [Cache.abort, hz, hx]
  have hfl : (c.abandonSlot z.slot x).fills = c.fills := by
    simp only [Cache.abandonSlot]; split <;> [rfl; split <;> rfl]
  have hctx := Cache.freeContext_find (c.abandonSlot z.slot x) k z (by rw [hfl]; exact hf)
  rw [hfl] at hctx
  rw [he]
  refine ⟨?_, ?_, ?_, ?_, ?_, ?_, ?_⟩
  · simp only [Cache.report]; rw [hctx]; simp
  · intro j hj; simp only [Cache.report]; rw [hctx]; simp [hj]
  · intro j hj
    simp only [Cache.report, Cache.freeContext, Cache.abandonSlot]
    split
    · simp [SMap.find_del hs, hj]
    · split <;> simp [SMap.find_del hs, SMap.find_put, hj]
  · intro hv
    simp only [Cache.report, Cache.freeContext, Cache.abandonSlot]
    cases hvi : x.victim with
    | none => simp [SMap.find_del hs]
    | some v =>
      obtain ⟨r, hr, h1, h2, h3⟩ := hv v hvi
      have : (c.slots.any fun r => r.1 != z.slot && r.2.carries v.feed v.frame) = true := by
        simp only [List.any_eq_true]; exact ⟨r, hr, by simp [h1, Slot.carries, h2, h3]⟩
      simp [this, SMap.find_del hs]
  · intro v hvi hno
    have : (c.slots.any fun r => r.1 != z.slot && r.2.carries v.feed v.frame) = false := by
      simp only [List.any_eq_false]
      intro r hr hc
      simp only [Slot.carries, Bool.and_eq_true, bne_iff_ne, ne_eq, beq_iff_eq] at hc
      exact hno r hr hc.1 hc.2
    simp [Cache.report, Cache.freeContext, Cache.abandonSlot, hvi, this, SMap.find_put]
  · intro hn w
    rw [Cache.report_get _ _ _ hn]
    have : ((c.abandonSlot z.slot x).freeContext k z).reports = c.reports := by
      simp only [Cache.freeContext, Cache.abandonSlot]; split <;> [rfl; split <;> rfl]
    rw [this]
  · simp only [Cache.report, Cache.freeContext, Cache.abandonSlot]
    split <;> [rfl; split <;> rfl]

/-! ## Lookups (R94, R96) -/

/-- A lookup reads the feeds and the cache alone. -/
theorem lookup_reads (ch : ChanId) (f : FeedId) (n : Nat) {s t : State} (hf : t.feeds = s.feeds)
    (hc : t.cache = s.cache) : (lookup ch f n t).2 = (lookup ch f n s).2 ∧
      (lookup ch f n t).1.cache = (lookup ch f n s).1.cache := by
  simp only [lookup, State.feed_congr hf f, hc]
  split
  · exact ⟨rfl, hc⟩
  · split
    · exact ⟨rfl, hc⟩
    · split
      · exact ⟨rfl, hc⟩
      · exact ⟨rfl, rfl⟩

theorem lookup_keeps (ch : ChanId) (f : FeedId) (n : Nat) (s : State) :
    (lookup ch f n s).1 = { s with cache := (lookup ch f n s).1.cache } := by
  simp only [lookup]
  split
  · rfl
  · split
    · rfl
    · split <;> rfl

/-- An answer leaves the cache and the feeds, and the permit of every channel. -/
theorem handleAnswer_keeps (ch : ChanId) (f : FeedId) (n : Nat) (a : Answer) (s : State) :
    (handleAnswer ch f n a s).cache = s.cache ∧ (handleAnswer ch f n a s).feeds = s.feeds ∧
      ∀ d, ((handleAnswer ch f n a s).chan d).permit = (s.chan d).permit := by
  cases a with
  | resident =>
    simp only [handleAnswer, frameReady]
    split
    · refine ⟨rfl, rfl, fun d => ?_⟩
      by_cases h : d = ch
      · subst h; simp [Channel.permit]
      · simp [h]
    · exact ⟨rfl, rfl, fun _ => rfl⟩
  | notAvailable r =>
    simp only [handleAnswer, frameFailed]
    split
    · refine ⟨rfl, rfl, fun d => ?_⟩
      by_cases h : d = ch
      · subst h; simp [Channel.permit]
      · simp [h]
    · exact ⟨rfl, rfl, fun _ => rfl⟩
  | wait => exact ⟨rfl, rfl, fun _ => rfl⟩
  | busy => exact ⟨rfl, rfl, fun _ => rfl⟩

theorem sendLookup_keeps (ch : ChanId) (f : FeedId) (n : Nat) (s : State) :
    (sendLookup ch f n s).cache = (lookup ch f n s).1.cache ∧ (sendLookup ch f n s).feeds = s.feeds ∧
      ∀ d, ((sendLookup ch f n s).chan d).permit = (s.chan d).permit := by
  have h := handleAnswer_keeps ch f n (lookup ch f n s).2 (lookup ch f n s).1
  simp only [sendLookup]
  exact ⟨h.1, h.2.1.trans (by rw [lookup_keeps]), fun d => (h.2.2 d).trans (by rw [lookup_keeps]; rfl)⟩

theorem lookedUp_reads (ch : ChanId) (f : FeedId) (l : List Nat) {s t : State} (hf : t.feeds = s.feeds)
    (hc : t.cache = s.cache) : (lookedUp ch f l t).cache = (lookedUp ch f l s).cache := by
  induction l generalizing s t with
  | nil => exact hc
  | cons n l ih =>
    simp only [lookedUp, List.foldl_cons] at *
    refine ih ?_ (lookup_reads ch f n hf hc).2
    rw [lookup_keeps ch f n t, lookup_keeps ch f n s]; exact hf

theorem permit_iff (x : Channel) : x.permit = true ↔ mayFetch x := by
  simp only [Channel.permit, mayFetch]
  cases x.state <;> cases x.opts.fetchMode <;> simp

/-- While the permit holds, a channel's lookups leave the cache as the Frame Cache answers them one by one. -/
theorem sendLookups_cache (ch : ChanId) (f : FeedId) (l : List Nat) (s : State) (h : (s.chan ch).permit = true) :
    (sendLookups ch f l s).cache = (lookedUp ch f l s).cache := by
  induction l generalizing s with
  | nil => rfl
  | cons n l ih =>
    have hk := sendLookup_keeps ch f n s
    have hs : sendLookups ch f (n :: l) s = sendLookups ch f l (sendLookup ch f n s) := by
      simp only [sendLookups, List.foldl_cons, h, if_true]
    rw [hs, ih _ ((hk.2.2 ch).trans h)]
    simp only [lookedUp, List.foldl_cons]
    refine lookedUp_reads ch f l (hk.2.1.trans ?_) hk.1
    rw [lookup_keeps]

/-- Without the permit no lookup is sent. -/
theorem sendLookups_none (ch : ChanId) (f : FeedId) (l : List Nat) (s : State) (h : (s.chan ch).permit = false) :
    sendLookups ch f l s = s := by
  induction l with
  | nil => rfl
  | cons n l ih => simpa [sendLookups, h] using ih

/-! ## Preload and lookahead frames (R69, R79) -/

theorem preloadFrames_eq (reverse : Bool) (w : Window) (e n : Nat) (hl : w.lo ≤ e) (hh : e ≤ w.hi) :
    preloadFrames reverse w e n = preloadList reverse w e n := by
  induction n generalizing e with
  | zero => cases reverse <;> simp [preloadFrames, preloadList]
  | succ n ih =>
    cases reverse with
    | false =>
      simp only [preloadFrames, preloadList, Bool.false_eq_true, if_false]
      by_cases h : e < w.hi
      · rw [if_pos h, ih (e + 1) (by omega) (by omega)]
        have hm : min (n + 1) (w.hi + 1 - e) = min n (w.hi + 1 - (e + 1)) + 1 := by omega
        simp only [preloadList, Bool.false_eq_true, if_false, hm, List.range_succ_eq_map, List.map_cons, List.map_map]
        refine List.cons_eq_cons.2 ⟨by omega, List.map_congr_left fun i _ => ?_⟩
        simp only [Function.comp]; omega
      · have hm : min (n + 1) (w.hi + 1 - e) = 1 := by omega
        simp [h, hm, List.range_succ]
    | true =>
      simp only [preloadFrames, preloadList, if_true]
      by_cases h : w.lo < e
      · rw [if_pos h, ih (e - 1) (by omega) (by omega)]
        have hm : min (n + 1) (e + 1 - w.lo) = min n (e - 1 + 1 - w.lo) + 1 := by omega
        simp only [preloadList, if_true, hm, List.range_succ_eq_map, List.map_cons, List.map_map]
        refine List.cons_eq_cons.2 ⟨by omega, List.map_congr_left fun i _ => ?_⟩
        simp only [Function.comp]; omega
      · have hm : min (n + 1) (e + 1 - w.lo) = 1 := by omega
        simp [h, hm, List.range_succ]

/-- The lookahead frames are the frames of the predicted positions, without those seen and without repeats. -/
theorem predictFrames_eq (w : Window) (loops : WindowEnd → Bool) (pos : Nat) (speed : Int) (is seen : List Nat) :
    predictFrames w loops pos speed is seen =
      ((is.map fun i : Nat => settlePrediction w loops ((pos : Int) + i * speed) / 1024).filter
        (fun n => !seen.contains n)).eraseDups := by
  induction is generalizing seen with
  | nil => rfl
  | cons i is ih =>
    simp only [predictFrames, List.map_cons, List.filter_cons]
    by_cases h : seen.contains (settlePrediction w loops ((pos : Int) + i * speed) / 1024) = true
    · have hm := List.contains_iff_mem.1 h
      simp [hm, ih]
    · simp only [h, Bool.not_false, if_true, List.eraseDups_cons, List.filter_filter]
      rw [if_neg (by simp), ih]
      congr 3
      funext n
      by_cases hn : n = settlePrediction w loops ((pos : Int) + i * speed) / 1024 <;> simp [hn]

/-! ## The Store Arbiter's choices (R138, R158, R159) -/

theorem servedBefore_iff (s : State) (a b : Fill) : servedBefore s a b = true ↔
    fillLevel s a < fillLevel s b ∨ (fillLevel s a = fillLevel s b ∧ a.order < b.order) := by
  simp [servedBefore]

/-- The fill served first among some fills of a channel (R158). -/
theorem presentedFill_spec (s : State) (ch : ChanId) :
    (presentedFill s ch = none → ∀ r ∈ s.cache.fills, r.2.owner ≠ ch) ∧
    (∀ k z, presentedFill s ch = some (k, z) → (k, z) ∈ s.cache.fills ∧ z.owner = ch ∧
      ∀ r ∈ s.cache.fills, r.2.owner = ch →
        fillLevel s z < fillLevel s r.2 ∨ (fillLevel s z = fillLevel s r.2 ∧ z.order ≤ r.2.order)) := by
  let pick := fun (best : Option (Nat × Fill)) (r : Nat × Fill) => match best with
    | none => some r
    | some b => if servedBefore s r.2 b.2 then some r else some b
  have key : ∀ (l : List (Nat × Fill)) (b : Nat × Fill), ∃ a, l.foldl pick (some b) = some a ∧ (a = b ∨ a ∈ l) ∧
      ∀ r, r = b ∨ r ∈ l → fillLevel s a.2 < fillLevel s r.2 ∨ (fillLevel s a.2 = fillLevel s r.2 ∧ a.2.order ≤ r.2.order) := by
    intro l
    induction l with
    | nil => intro b; exact ⟨b, rfl, .inl rfl, by simp⟩
    | cons c l ih =>
      intro b
      by_cases h : servedBefore s c.2 b.2 = true
      · obtain ⟨a, ha, hm, hle⟩ := ih c
        refine ⟨a, by simpa [pick, h] using ha, by rcases hm with rfl | hm <;> simp [*], ?_⟩
        rintro r (rfl | hr)
        · have := hle c (.inl rfl); rw [servedBefore_iff] at h; omega
        · rcases List.mem_cons.1 hr with rfl | hr
          · exact hle _ (.inl rfl)
          · exact hle _ (.inr hr)
      · obtain ⟨a, ha, hm, hle⟩ := ih b
        refine ⟨a, by simpa [pick, h] using ha, by rcases hm with rfl | hm <;> simp [*], ?_⟩
        rintro r (rfl | hr)
        · exact hle _ (.inl rfl)
        · rcases List.mem_cons.1 hr with rfl | hr
          · have := hle b (.inl rfl); rw [servedBefore_iff] at h; omega
          · exact hle _ (.inr hr)
  have hp : presentedFill s ch = (s.cache.fills.filter fun r => r.2.owner == ch).foldl pick none := rfl
  cases hl : s.cache.fills.filter fun r => r.2.owner == ch with
  | nil =>
    rw [hp, hl]
    refine ⟨fun _ r hr ho => ?_, by simp⟩
    have := List.filter_eq_nil_iff.1 hl r hr
    simp [ho] at this
  | cons b l =>
    obtain ⟨a, ha, hm, hle⟩ := key l b
    have hs : presentedFill s ch = some a := by rw [hp, hl]; exact ha
    have hmem : ∀ r, r ∈ b :: l ↔ r ∈ s.cache.fills ∧ r.2.owner = ch := by
      intro r; rw [← hl]; simp
    refine ⟨by simp [hs], fun k z hk => ?_⟩
    rw [hs] at hk; cases hk
    have := (hmem (k, z)).1 (List.mem_cons.2 hm)
    exact ⟨this.1, this.2, fun r hr ho => hle r (List.mem_cons.1 ((hmem r).2 ⟨hr, ho⟩))⟩

/-- The level of a fill is the least of its owner's and its waiters' levels (R138). -/
theorem fillLevel_spec (s : State) (z : Fill) :
    (∀ w, w = z.owner ∨ w ∈ z.waiters → fillLevel s z ≤ (s.chan w).opts.level) ∧
    ∃ w, (w = z.owner ∨ w ∈ z.waiters) ∧ fillLevel s z = (s.chan w).opts.level := by
  have key : ∀ (l : List ChanId) (v : ChanId),
      let m := leastLevel s (s.chan v).opts.level l
      (∀ w, w = v ∨ w ∈ l → m ≤ (s.chan w).opts.level) ∧ ∃ w, (w = v ∨ w ∈ l) ∧ m = (s.chan w).opts.level := by
    intro l
    induction l with
    | nil => intro v; exact ⟨by simp [leastLevel], v, .inl rfl, rfl⟩
    | cons c l ih =>
      intro v
      have step : ∀ x : ChanId, min (s.chan v).opts.level (s.chan c).opts.level = (s.chan x).opts.level →
          leastLevel s (s.chan v).opts.level (c :: l) = leastLevel s (s.chan x).opts.level l := by
        intro x hx; simp [leastLevel, hx]
      rcases Nat.le_total (s.chan v).opts.level (s.chan c).opts.level with h | h
      · obtain ⟨h1, w, hw, he⟩ := ih v
        simp only [step v (Nat.min_eq_left h)]
        refine ⟨?_, w, by rcases hw with rfl | hw <;> simp [*], he⟩
        rintro x (rfl | hx)
        · exact h1 _ (.inl rfl)
        · rcases List.mem_cons.1 hx with rfl | hx
          · exact Nat.le_trans (h1 v (.inl rfl)) h
          · exact h1 _ (.inr hx)
      · obtain ⟨h1, w, hw, he⟩ := ih c
        simp only [step c (Nat.min_eq_right h)]
        refine ⟨?_, w, by rcases hw with rfl | hw <;> simp [*], he⟩
        rintro x (rfl | hx)
        · exact Nat.le_trans (h1 c (.inl rfl)) h
        · rcases List.mem_cons.1 hx with rfl | hx
          · exact h1 _ (.inl rfl)
          · exact h1 _ (.inr hx)
  exact key z.waiters z.owner

/-- A search upward from a start finds the first number that a test picks, if there is one (R159). -/
theorem findUpward_spec {n : Nat} [NeZero n] (start : Fin n) (pick : Fin n → Bool) :
    (((List.finRange n).map (start + ·)).find? pick = none ↔ ∀ f, pick f = false) ∧
    (∀ f, ((List.finRange n).map (start + ·)).find? pick = some f ↔
      pick f = true ∧ ∀ k : Fin n, k < f - start → pick (start + k) = false) := by
  have hall : ∀ f, f ∈ (List.finRange n).map (start + ·) := fun f =>
    List.mem_map.2 ⟨f - start, List.mem_finRange _, add_sub_cancel start f⟩
  constructor
  · rw [List.find?_eq_none]
    exact ⟨fun h f => by simpa using h f (hall f), fun h f _ => by simp [h f]⟩
  · intro f
    rw [List.find?_eq_some_iff_getElem]
    refine and_congr_right fun _ => ⟨?_, fun h => ⟨(f - start).val, by simp, by simp, fun j hj => ?_⟩⟩
    · rintro ⟨i, hi, he, hb⟩ k hk
      have hi' : i < n := by simpa using hi
      have hf : f - start = ⟨i, hi'⟩ := by
        have : start + (⟨i, hi'⟩ : Fin n) = f := by simpa using he
        rw [← this]; exact add_sub_cancel_left start _
      have := hb k.val (by rw [hf] at hk; exact hk)
      simpa using this
    · have hj' : j < n := Nat.lt_trans hj (f - start).isLt
      simpa using h ⟨j, hj'⟩ hj

theorem searchFeeds_spec (start : FeedId) (pick : FeedId → Bool) :
    (searchFeeds start pick = none ↔ ∀ f, pick f = false) ∧
    (∀ f, searchFeeds start pick = some f ↔
      pick f = true ∧ ∀ k : Fin 8, k < f - start → pick (start + k) = false) :=
  findUpward_spec start pick

theorem searchChans_spec (start : ChanId) (pick : ChanId → Bool) :
    (searchChans start pick = none ↔ ∀ c, pick c = false) ∧
    (∀ c, searchChans start pick = some c ↔
      pick c = true ∧ ∀ k : Fin 4, k < c - start → pick (start + k) = false) :=
  findUpward_spec start pick

/-! ## A search over the feeds in order (R183) -/

theorem mem_allFeeds : ∀ f : FeedId, f ∈ allFeeds := by decide

theorem allFeeds_rises : allFeeds.Pairwise (· < ·) := by decide

/-- The first feed in order for which a check answers. -/
theorem findSome_allFeeds {α : Type} (check : FeedId → Option α) (b : α) :
    allFeeds.findSome? check = some b ↔ ∃ f, check f = some b ∧ ∀ g, g < f → check g = none := by
  constructor
  · intro h
    obtain ⟨l, f, r, hl, hf, hn⟩ := List.findSome?_eq_some_iff.1 h
    refine ⟨f, hf, fun g hg => ?_⟩
    have hs : (l ++ f :: r).Pairwise (· < ·) := hl ▸ allFeeds_rises
    have hm : g ∈ l ++ f :: r := hl ▸ mem_allFeeds g
    simp only [List.mem_append, List.mem_cons] at hm
    rcases hm with hm | hm | hm
    · exact hn g hm
    · exact absurd hm (Fin.ne_of_lt hg)
    · exact absurd (lt_trans hg ((List.pairwise_cons.1 (List.pairwise_append.1 hs).2.1).1 g hm)) (lt_irrefl _)
  · rintro ⟨f, hf, hn⟩
    obtain ⟨l, r, hl⟩ := List.append_of_mem (mem_allFeeds f)
    have hs : (l ++ f :: r).Pairwise (· < ·) := hl ▸ allFeeds_rises
    exact List.findSome?_eq_some_iff.2
      ⟨l, f, r, hl, hf, fun g hg => hn g ((List.pairwise_append.1 hs).2.2 g hg f (by simp))⟩

theorem findSome_allFeeds_none {α : Type} (check : FeedId → Option α) :
    allFeeds.findSome? check = none ↔ ∀ f, check f = none := by
  rw [List.findSome?_eq_none_iff]
  exact ⟨fun h f => h f (mem_allFeeds f), fun h f _ => h f⟩

/-! ## The search of a cue list (R125) -/

/-- The search passes over every entry that cannot be taken and stops at the first that can. -/
theorem searchList_takes (s : State) (passed rest : List CueEntry) (e : CueEntry) (c : Clip)
    (hp : ∀ p ∈ passed, takeable s p = none) (he : takeable s e = some c) :
    searchList s (passed ++ e :: rest) = (passed, some (e, c, rest)) := by
  induction passed with
  | nil => simp [searchList, he]
  | cons p l ih => simp [searchList, hp p (by simp), ih fun q hq => hp q (by simp [hq])]

end Machine

end Sys2Proof
end

