-- ==== Sys2Proof/Laws/Fields.lean ====
section
/-!
SUPPORT. Reading back what is written (R200): the readers of command bodies on the bytes the encoding gives.
-/

namespace Sys2Proof.Machine

@[simp] theorem leBytes_length (w n : Nat) : (leBytes w n).length = w := by
  induction w generalizing n with
  | zero => rfl
  | succ w ih => simp [leBytes, ih]

@[simp] theorem leInt_length (w : Nat) (x : Int) : (leInt w x).length = w := by simp [leInt]

/-- An unsigned number is read back, least significant byte first. -/
theorem takeU_leBytes (w n : Nat) (rest : List Byte) (h : n < 256 ^ w) :
    takeU w (leBytes w n ++ rest) = some (n, rest) := by
  induction w generalizing n with
  | zero => simp at h; simp [leBytes, takeU, h]
  | succ w ih =>
    have h' : n / 256 < 256 ^ w := Nat.div_lt_of_lt_mul (by rwa [pow_succ, Nat.mul_comm] at h)
    simp only [leBytes, List.cons_append, takeU, ih _ h', BitVec.toNat_ofNat]
    simp only [Option.some.injEq, Prod.mk.injEq, and_true]
    omega

/-- A signed number is read back. -/
theorem takeS_leInt (w : Nat) (x : Int) (rest : List Byte) (hl : -(256 ^ w : Nat) ≤ 2 * x)
    (hu : 2 * x < (256 ^ w : Nat)) : takeS w (leInt w x ++ rest) = some (x, rest) := by
  have hp : 0 < 256 ^ w := Nat.pow_pos (by decide)
  have hpos : (0 : Int) < (256 ^ w : Nat) := by exact_mod_cast hp
  have hm := Int.emod_nonneg x (ne_of_gt hpos)
  have hlt := Int.emod_lt_of_pos x hpos
  have hn : (x % (256 ^ w : Nat)).toNat < 256 ^ w := by omega
  simp only [takeS, leInt, takeU_leBytes w _ rest hn]
  have hv : x % (256 ^ w : Nat) = if 0 ≤ x then x else x + (256 ^ w : Nat) := by
    split
    · exact Int.emod_eq_of_lt ‹_› (by omega)
    · rw [← Int.add_emod_right]; exact Int.emod_eq_of_lt (by omega) (by omega)
  simp only [Option.some.injEq, Prod.mk.injEq, and_true, hv]
  have hc : ((256 : Int) ^ w) = ((256 ^ w : Nat) : Int) := by push_cast; rfl
  rw [hc]
  split <;> split <;> omega

/-- A byte is read as itself. -/
@[simp] theorem takeU_one (b : Byte) (rest : List Byte) : takeU 1 (b :: rest) = some (b.toNat, rest) := by
  simp [takeU]

@[simp] theorem takeOpt_absent {α : Type} (field : List Byte → Option (α × List Byte)) (rest : List Byte) :
    takeOpt field (0#8 :: rest) = some (none, rest) := rfl

theorem takeOpt_present {α : Type} (field : List Byte → Option (α × List Byte)) (bs rest : List Byte) (a : α)
    (h : field bs = some (a, rest)) : takeOpt field (1#8 :: bs) = some (some a, rest) := by
  simp [takeOpt, h]

@[simp] theorem bodyEnd_nil {α : Type} (a : α) : bodyEnd a [] = some a := rfl

@[simp] theorem byteOf_toNat (n : Nat) : (byteOf n).toNat = n % 256 := by simp [byteOf]

@[simp] theorem feedOf?_val (f : FeedId) : feedOf? f.val = some f := by simp [feedOf?]
@[simp] theorem chanOf?_val (c : ChanId) : chanOf? c.val = some c := by simp [chanOf?]

/-- A feed number above 7 names no feed. -/
theorem feedOf?_none {n : Nat} (h : 8 ≤ n) : feedOf? n = none := by simp [feedOf?]; omega
/-- A channel number above 3 names no channel. -/
theorem chanOf?_none {n : Nat} (h : 4 ≤ n) : chanOf? n = none := by simp [chanOf?]; omega

theorem clampNat_of_mem {lo hi x : Nat} (h1 : lo ≤ x) (h2 : x ≤ hi) : clampNat lo hi x = x := by
  simp [clampNat, h1, h2]
theorem clampNat_mem {lo hi : Nat} (h : lo ≤ hi) (x : Nat) : lo ≤ clampNat lo hi x ∧ clampNat lo hi x ≤ hi := by
  unfold clampNat; omega
theorem clampInt_of_mem {lo hi x : Int} (h1 : lo ≤ x) (h2 : x ≤ hi) : clampInt lo hi x = x := by
  simp [clampInt, h1, h2]
theorem clampInt_mem {lo hi : Int} (h : lo ≤ hi) (x : Int) : lo ≤ clampInt lo hi x ∧ clampInt lo hi x ≤ hi := by
  unfold clampInt; omega

end Sys2Proof.Machine
end

