-- ==== Sys2Proof/Laws/Gang.lean ====
section
/-!
SUPPORT. What the shared operations of Gang Control do, said once: a slave that loses its window (R113), the derivation
of a master's slaves (R108, R109) and the angle assignment (R111).
-/

namespace Sys2Proof.Machine

variable (s : State)

/-! ## A change of material -/

theorem changeMaterial_chan (c d : ChanId) (m : Option Material) : (changeMaterial c m s).chan d =
    if d = c then { s.chan c with material := m } else s.chan d := by
  have h : ∀ d, (releaseMaterial (s.chan c).material (takeMaterial m s)).chan d = s.chan d := by
    intro d; unfold releaseMaterial takeMaterial; repeat' split
    all_goals rfl
  simp only [changeMaterial, State.chan_setChan, h]

/-- Every other field but the clips stays. -/
theorem changeMaterial_keeps (c : ChanId) (m : Option Material) :
    (changeMaterial c m s).gangs = s.gangs ∧ (changeMaterial c m s).feeds = s.feeds ∧
      (changeMaterial c m s).cache = s.cache ∧ (changeMaterial c m s).cells = s.cells := by
  simp only [changeMaterial, State.gangs_setChan, State.feeds_setChan, State.cache_setChan, State.cells_setChan]
  unfold releaseMaterial takeMaterial; repeat' split
  all_goals exact ⟨rfl, rfl, rfl, rfl⟩

/-! ## A slave that loses its window (R87, R113) -/

/-- The entry into IDLE: the channel's fields, and its pins under BLACK (R87). -/
theorem enterIdle_chan (c d : ChanId) : (enterIdle c s).chan d =
    if d = c then { (s.chan c).toIdle with
      material := none
      lastRec := if (s.chan c).opts.idlePicture = .black then ⟨none, none, false⟩ else (s.chan c).lastRec }
    else s.chan d := by
  have hd : ∀ d, (dropMaterial c s).chan d =
      if d = c then { (s.chan c).toIdle with material := none } else s.chan d := by
    intro d
    simp only [dropMaterial, State.chan_setChan, changeMaterial_chan, if_true]
    split <;> rfl
  have ho : ((dropMaterial c s).chan c).opts = (s.chan c).opts := by rw [hd, if_pos rfl]; rfl
  simp only [enterIdle, ho]
  cases hp : (s.chan c).opts.idlePicture <;> simp only [hd, reduceCtorEq, if_false, if_true]
  · rfl
  · simp only [State.chan_setChan, releasePins]
    by_cases h : d = c
    · simp only [h, if_true]; rfl
    · simp only [h, if_false]; exact (hd d).trans (if_neg h)
  · rfl

theorem enterIdle_keeps (c : ChanId) : (enterIdle c s).gangs = s.gangs ∧ (enterIdle c s).feeds = s.feeds ∧
    (enterIdle c s).cells = s.cells ∧
    (enterIdle c s).cache =
      if (s.chan c).opts.idlePicture = .black then s.cache.setPins c [] else s.cache := by
  obtain ⟨h1, h2, h3, h4⟩ := changeMaterial_keeps s c none
  have ho : ((dropMaterial c s).chan c).opts = (s.chan c).opts := by
    simp only [dropMaterial, State.chan_setChan, changeMaterial_chan, if_true, Channel.toIdle]
  simp only [enterIdle, ho]
  cases hp : (s.chan c).opts.idlePicture <;>
    simp only [State.gangs_setChan, State.feeds_setChan, State.cells_setChan, State.cache_setChan, releasePins,
      dropMaterial, h1, h2, h3, h4, reduceCtorEq, if_false, if_true, and_self]

/-- A slave that loses its window leaves its gang, enters IDLE and raises WINDOW_LOST; nothing else changes in the
channels, the gangs, the feeds, the cache and the cells (R113). -/
theorem loseSlave_does (m : ChanId) (g : GangSlave) :
    (∀ d, (loseSlave m g s).chan d = if d = g.ch then lostSlave (s.chan g.ch) else s.chan d) ∧
      (loseSlave m g s).gangs = s.gangs.set m ((s.gangs.get m).filter fun h => h.ch != g.ch) ∧
      (loseSlave m g s).feeds = s.feeds ∧
      (loseSlave m g s).cache = lostPins s [g] s.cache ∧
      (loseSlave m g s).cells.length = s.cells.length ∧
      ∀ i, (loseSlave m g s).cell i = if i = 24 + g.ch.val ∧ i < s.cells.length then
        (s.cell i).take (.windowLost g.feed none (s.feed g.feed).tail (s.feed g.feed).head) else s.cell i := by
  obtain ⟨h1, h2, h3, h4⟩ := enterIdle_keeps (leaveGang m g.ch s) g.ch
  have hf : ∀ f, (enterIdle g.ch (leaveGang m g.ch s)).feed f = s.feed f := fun f => State.feed_congr h2 f
  have hl : ∀ d, (leaveGang m g.ch s).chan d =
      if d = g.ch then { s.chan g.ch with slaveClamped := false } else s.chan d := fun d => State.chan_setChan _ _ _ _
  refine ⟨fun d => ?_, h1, h2, ?_, ?_, fun i => ?_⟩
  · simp only [loseSlave, raiseWindowLost, raise_chan, slaveToIdle, enterIdle_chan, hl, if_true]
    split <;> rfl
  · refine h4.trans ?_
    rw [hl, if_pos rfl]; rfl
  · simp only [loseSlave, raiseWindowLost, raise_cells_length, slaveToIdle, h3]; rfl
  · have hc : (enterIdle g.ch (leaveGang m g.ch s)).cell i = s.cell i := by simp only [State.cell, h3]; rfl
    simp only [loseSlave, raiseWindowLost, raise_cell, slaveToIdle, hf, h3, hc]; rfl

/-! ## The derivation (R108, R109, R113) -/

theorem lostPins_append (l k : List GangSlave) (c : Cache) : lostPins s (l ++ k) c = lostPins s k (lostPins s l c) :=
  List.foldl_append

/-- The derivation of a master with a window: its slaves follow it, the lost ones release their pins, and the master,
every other channel and the feeds stay. -/
theorem derive_does (m : ChanId) (w : Window) (hw : (s.chan m).window = some w)
    (hn : (m :: (s.gangs.get m).map (·.ch)).Nodup) :
    GangFollows s (derive m s) m (s.gangs.get m) w (fun _ _ x => x) ∧
      (∀ d, (∀ g ∈ s.gangs.get m, g.ch ≠ d) → (derive m s).chan d = s.chan d) ∧
      (derive m s).feeds = s.feeds ∧
      (derive m s).cache = lostPins s (windowless s (s.gangs.get m)) s.cache := by
  have key : ∀ (l : List GangSlave) (a : State), a.feeds = s.feeds → a.chan m = s.chan m →
      (∀ g ∈ l, a.chan g.ch = s.chan g.ch) → (m :: l.map (·.ch)).Nodup →
      let t := l.foldl (fun acc g => deriveSlave m g acc) a
      t.gangs.get m = (a.gangs.get m).filter (fun h => (windowless s l).all fun g => h.ch != g.ch) ∧
      (∀ k, k ≠ m → t.gangs.get k = a.gangs.get k) ∧
      (∀ g ∈ l, ∀ r, (s.feed g.feed).range = some r →
        t.chan g.ch = derivedSlave (s.chan g.ch) (s.chan m) (slaveSpan w r g.offset) g.offset) ∧
      (∀ g ∈ l, (s.feed g.feed).range = none → t.chan g.ch = lostSlave (s.chan g.ch) ∧
        (a.cells.length = 54 → (t.cell (24 + g.ch.val)).latch = true ∧ (t.cell (24 + g.ch.val)).detail =
          some (.windowLost g.feed none (s.feed g.feed).tail (s.feed g.feed).head))) ∧
      (∀ d, (∀ g ∈ l, g.ch ≠ d) → t.chan d = a.chan d ∧ t.cell (24 + d.val) = a.cell (24 + d.val)) ∧
      t.feeds = s.feeds ∧ t.cells.length = a.cells.length ∧ t.cache = lostPins s (windowless s l) a.cache := by
    intro l
    induction l with
    | nil =>
      intro a hf _ _ _
      exact ⟨by simp [windowless], fun _ _ => rfl, by simp, by simp, fun _ _ => ⟨rfl, rfl⟩, hf, rfl, rfl⟩
    | cons g l ih =>
      intro a hf hm hl hn t
      simp only [List.map_cons, List.nodup_cons, List.mem_cons, List.mem_map, not_or, not_exists, not_and] at hn
      obtain ⟨⟨hmg, hml⟩, hgl, hnl⟩ := hn
      have hrest : (m :: l.map (·.ch)).Nodup := List.nodup_cons.2 ⟨by simpa using hml, hnl⟩
      have hne : ∀ g' ∈ l, g'.ch ≠ g.ch := fun g' hg' h => hgl g' hg' h
      have ha : a.chan g.ch = s.chan g.ch := hl g (List.mem_cons_self ..)
      have hfeed : ∀ f, a.feed f = s.feed f := fun f => State.feed_congr hf f
      cases hr : (s.feed g.feed).range with
      | none =>
        have hd : deriveSlave m g a = loseSlave m g a := by simp [deriveSlave, hfeed, hr]
        obtain ⟨l1, l2, l3, l4, l5, l6⟩ := loseSlave_does a m g
        have hb := ih (deriveSlave m g a) (by rw [hd, l3, hf]) (by rw [hd, l1, if_neg hmg, hm])
          (fun g' hg' => by rw [hd, l1, if_neg (hne g' hg')]; exact hl g' (List.mem_cons_of_mem _ hg')) hrest
        obtain ⟨b1, b2, b3, b4, b5, b6, b7, b8⟩ := hb
        rw [hd] at b1 b2 b4 b5 b7 b8
        have ht : t = l.foldl (fun acc g => deriveSlave m g acc) (deriveSlave m g a) := rfl
        rw [hd] at ht
        have hwl : windowless s (g :: l) = g :: windowless s l := by simp [windowless, hr]
        have own := b5 g.ch hne
        refine ⟨?_, ?_, ?_, ?_, ?_, b6, ?_, ?_⟩
        · rw [ht, b1, l2, hwl, Quad.get_set, if_pos rfl, List.filter_filter]
          congr 1; funext h; simp only [List.all_cons, Bool.and_comm]
        · intro k hk; rw [ht, b2 k hk, l2, Quad.get_set, if_neg hk]
        · intro g' hg' r hr'
          rcases List.mem_cons.1 hg' with rfl | hg'
          · rw [hr] at hr'; cases hr'
          · exact b3 g' hg' r hr'
        · intro g' hg' hr'
          rcases List.mem_cons.1 hg' with rfl | hg'
          · rw [ht]
            refine ⟨by rw [own.1, l1, if_pos rfl, ha], fun hc => ?_⟩
            rw [own.2, l6, if_pos ⟨rfl, by have := g'.ch.isLt; omega⟩]
            exact ⟨rfl, by simp [Cell.take, hfeed]⟩
          · rw [ht]
            refine ⟨(b4 g' hg' hr').1, fun hc => (b4 g' hg' hr').2 (by rw [l5, hc])⟩
        · intro d hd'
          have hdg : g.ch ≠ d := hd' g (List.mem_cons_self ..)
          have h5 := b5 d fun g' hg' => hd' g' (List.mem_cons_of_mem _ hg')
          rw [ht]
          refine ⟨by rw [h5.1, l1, if_neg (Ne.symm hdg)], ?_⟩
          rw [h5.2, l6, if_neg fun h => hdg (Fin.ext (by omega))]
        · rw [ht, b7, l5]
        · rw [ht, b8, l4, hwl]
          show _ = lostPins s (windowless s l) _
          simp only [lostPins, List.foldl_cons, List.foldl_nil, ha]
      | some r =>
        have hd : deriveSlave m g a =
            a.setChan g.ch (derivedSlave (s.chan g.ch) (s.chan m) (slaveSpan w r g.offset) g.offset) := by
          simp only [deriveSlave, hfeed, hr, hm, hw, ha]; rfl
        have l1 : ∀ d, (deriveSlave m g a).chan d = if d = g.ch then
            derivedSlave (s.chan g.ch) (s.chan m) (slaveSpan w r g.offset) g.offset else a.chan d := by
          intro d; rw [hd, State.chan_setChan]
        have hb := ih (deriveSlave m g a) (by rw [hd]; exact hf) (by rw [l1, if_neg hmg, hm])
          (fun g' hg' => by rw [l1, if_neg (hne g' hg')]; exact hl g' (List.mem_cons_of_mem _ hg')) hrest
        obtain ⟨b1, b2, b3, b4, b5, b6, b7, b8⟩ := hb
        have hwl : windowless s (g :: l) = windowless s l := by simp [windowless, hr]
        refine ⟨?_, ?_, ?_, ?_, ?_, b6, ?_, ?_⟩
        · rw [hwl]; refine b1.trans ?_; rw [hd]; rfl
        · intro k hk; refine (b2 k hk).trans ?_; rw [hd]; rfl
        · intro g' hg' r' hr'
          rcases List.mem_cons.1 hg' with rfl | hg'
          · rw [hr] at hr'; cases hr'
            exact (b5 g'.ch hne).1.trans (by rw [l1, if_pos rfl])
          · exact b3 g' hg' r' hr'
        · intro g' hg' hr'
          rcases List.mem_cons.1 hg' with rfl | hg'
          · rw [hr] at hr'; cases hr'
          · refine ⟨(b4 g' hg' hr').1, fun hc => (b4 g' hg' hr').2 (by rw [hd]; exact hc)⟩
        · intro d hd'
          have hdg : g.ch ≠ d := hd' g (List.mem_cons_self ..)
          have h5 := b5 d fun g' hg' => hd' g' (List.mem_cons_of_mem _ hg')
          refine ⟨h5.1.trans (by rw [l1, if_neg (Ne.symm hdg)]), h5.2.trans (by rw [hd]; rfl)⟩
        · refine b7.trans ?_; rw [hd]; rfl
        · rw [hwl]; refine b8.trans ?_; rw [hd]; rfl
  obtain ⟨k1, k2, k3, k4, k5, k6, _, k8⟩ := key (s.gangs.get m) s rfl rfl (fun _ _ => rfl) hn
  have hm : (derive m s).chan m = s.chan m :=
    (k5 m fun g hg h => (List.nodup_cons.1 hn).1 (List.mem_map.2 ⟨g, hg, h⟩)).1
  refine ⟨⟨?_, k2, ?_, k4⟩, fun d hd => (k5 d hd).1, k6, k8⟩
  · refine k1.trans (List.filter_congr fun h hh => ?_)
    cases hr : (s.feed h.feed).range with
    | none =>
      simp only [Option.isSome_none, List.all_eq_false]
      exact ⟨h, List.mem_filter.2 ⟨hh, by simp [hr]⟩, by simp⟩
    | some r =>
      simp only [Option.isSome_some, List.all_eq_true]
      intro g hg
      obtain ⟨hg1, hg2⟩ := List.mem_filter.1 hg
      have : h.ch ≠ g.ch := fun e => by
        have := List.inj_on_of_nodup_map (List.nodup_cons.1 hn).2 hh hg1 e
        subst this; simp [hr] at hg2
      simpa using this
  · intro g hg r hr
    rw [hm]; exact k3 g hg r hr

/-! ## The angle assignment (R111) -/

theorem withAngles_eq (gs : List GangSlave) (as : List Angle) : withAngles gs as = assigned gs as := by
  have key : ∀ (gs : List GangSlave) (k : Nat), withAngles gs (as.drop k) = (gs.zipIdx k).map fun p =>
      match as[p.2]? with
      | some a => ⟨p.1.ch, a.feed, a.offset⟩
      | none => p.1 := by
    intro gs
    induction gs with
    | nil => intro k; cases as.drop k <;> rfl
    | cons g gs ih =>
      intro k
      rw [List.zipIdx_cons, List.map_cons, ← ih (k + 1)]
      by_cases hk : k < as.length
      · simp only [List.drop_eq_getElem_cons hk, List.getElem?_eq_getElem hk, withAngles]
      · have h1 : as.drop k = [] := List.drop_eq_nil_of_le (by omega)
        have h2 : as.drop (k + 1) = [] := List.drop_eq_nil_of_le (by omega)
        have h3 : as[k]? = none := List.getElem?_eq_none (by omega)
        simp only [h1, h2, h3, withAngles]
        cases gs <;> rfl
  exact key gs 0

theorem assigned_ch (gs : List GangSlave) (as : List Angle) : (assigned gs as).map (·.ch) = gs.map (·.ch) := by
  rw [← withAngles_eq]
  induction gs generalizing as with
  | nil => cases as <;> rfl
  | cons g gs ih =>
    cases as with
    | nil => rfl
    | cons a as => simp [withAngles, ih]

/-- A slave takes the feed of its entry; no other channel, and nothing else but the clips, changes (R111). -/
theorem adoptAngle_does (g : GangSlave) :
    (∀ d, (adoptAngle g s).chan d = if d = g.ch then onAngle g (s.chan g.ch) else s.chan d) ∧
      (adoptAngle g s).gangs = s.gangs ∧ (adoptAngle g s).feeds = s.feeds ∧ (adoptAngle g s).cache = s.cache ∧
      (adoptAngle g s).cells = s.cells := by
  by_cases h : (s.chan g.ch).material = some (.feed g.feed)
  · have he : adoptAngle g s = s := by simp [adoptAngle, h]
    rw [he]
    refine ⟨fun d => ?_, rfl, rfl, rfl, rfl⟩
    split
    · rename_i hd; subst hd; simp [onAngle, h]; rw [← h]
    · rfl
  · obtain ⟨h1, h2, h3, h4⟩ := changeMaterial_keeps s g.ch (some (.feed g.feed))
    simp only [adoptAngle, h, if_false]
    refine ⟨fun d => ?_, h1, h2, h3, h4⟩
    simp only [State.chan_setChan, changeMaterial_chan, if_true]
    split
    · simp [onAngle, h]
    · rfl

/-- The angles of a clip that became the material of a master: the record takes them, each slave takes the feed of its
entry, and nothing else but the clips changes (R111). -/
theorem assignAngles_does (m : ChanId) (id : Nat) (c : Clip) (hc : SMap.find s.clips id = some c)
    (hn : ((s.gangs.get m).map (·.ch)).Nodup) :
    (assignAngles m id s).gangs = s.gangs.set m (assigned (s.gangs.get m) c.angles) ∧
      (∀ g ∈ assigned (s.gangs.get m) c.angles, (assignAngles m id s).chan g.ch = onAngle g (s.chan g.ch)) ∧
      (∀ d, (∀ g ∈ s.gangs.get m, g.ch ≠ d) → (assignAngles m id s).chan d = s.chan d) ∧
      (assignAngles m id s).feeds = s.feeds ∧ (assignAngles m id s).cache = s.cache ∧
      (assignAngles m id s).cells = s.cells := by
  have key : ∀ (l : List GangSlave) (a : State), (l.map (·.ch)).Nodup →
      let t := l.foldl (fun acc g => adoptAngle g acc) a
      t.gangs = a.gangs ∧ (∀ g ∈ l, t.chan g.ch = onAngle g (a.chan g.ch)) ∧
      (∀ d, d ∉ l.map (·.ch) → t.chan d = a.chan d) ∧ t.feeds = a.feeds ∧ t.cache = a.cache ∧ t.cells = a.cells := by
    intro l
    induction l with
    | nil => intro a _; exact ⟨rfl, by simp, fun _ _ => rfl, rfl, rfl, rfl⟩
    | cons g l ih =>
      intro a hn t
      obtain ⟨hg, hl⟩ := List.nodup_cons.1 hn
      obtain ⟨a1, a2, a3, a4, a5⟩ := adoptAngle_does a g
      obtain ⟨b1, b2, b3, b4, b5, b6⟩ := ih (adoptAngle g a) hl
      refine ⟨b1.trans a2, fun h hh => ?_, fun d hd => ?_, b4.trans a3, b5.trans a4, b6.trans a5⟩
      · rcases List.mem_cons.1 hh with rfl | hh
        · exact (b3 _ hg).trans ((a1 _).trans (if_pos rfl))
        · have hne : h.ch ≠ g.ch := fun e => hg (List.mem_map.2 ⟨h, hh, e⟩)
          exact (b2 h hh).trans (by rw [a1, if_neg hne])
      · simp only [List.map_cons, List.mem_cons, not_or] at hd
        exact (b3 d hd.2).trans ((a1 d).trans (if_neg hd.1))
  have hk := key (assigned (s.gangs.get m) c.angles) { s with gangs := s.gangs.set m (assigned (s.gangs.get m) c.angles) }
    (by rw [assigned_ch]; exact hn)
  simp only [assigned_ch] at hk
  have he : assignAngles m id s = (assigned (s.gangs.get m) c.angles).foldl (fun acc g => adoptAngle g acc)
      { s with gangs := s.gangs.set m (assigned (s.gangs.get m) c.angles) } := by
    simp only [assignAngles, hc, withAngles_eq]
  rw [he]
  obtain ⟨k1, k2, k3, k4, k5, k6⟩ := hk
  refine ⟨k1, k2, fun d hd => k3 d fun h => ?_, k4, k5, k6⟩
  obtain ⟨g, hg, rfl⟩ := List.mem_map.1 h
  exact hd g hg rfl

end Sys2Proof.Machine
end

