-- ==== Sys2Proof/Tests/Slice0.lean ====
section
/-!
SUPPORT. The model's own tests: the well-formedness checks, the two CRCs, the table-word decoder, and, for each statement
of Certificates/Slice0/Obligations.lean with hypotheses, a concrete state and operands that meet them, clause by clause.
-/

section Tests

open Sys2Proof Sys2Proof.Machine

/-! ## Well-formedness: each check refuses a term -/

theorem test_wf_body_of_250 : (Instr.setStore 1#8 (List.replicate 250 0#8)).wf = true := by decide +kernel
theorem test_wf_refuses_body_of_251 : (Instr.setStore 1#8 (List.replicate 251 0#8)).wf = false := by decide +kernel
theorem test_wf_refuses_unknownKind_with_known_kind :
    (Instr.unknownKind 1#8 0#8 []).wf = false ∧ (Instr.unknownKind 39#8 0#8 []).wf = false ∧
      (Instr.unknownKind 40#8 0#8 []).wf = true ∧ (Instr.unknownKind 0#8 0#8 []).wf = true := by decide
theorem test_wf_refuses_unknownKind_body_of_251 :
    (Instr.unknownKind 40#8 0#8 (List.replicate 251 0#8)).wf = false := by decide +kernel
theorem test_wf_refuses_damageReport_frame :
    (Instr.damageReport 0 4294967296).wf = false ∧ (Instr.damageReport 0 4294967295).wf = true := by decide
theorem test_wf_refuses_fillReport_frame :
    (Instr.fillReport 0 0 4294967296).wf = false ∧ (Instr.fillReport 0 0 4294967295).wf = true := by decide

/-! ## Check values: the nine digits' bytes -/

def nineDigits : List Byte := [0x31#8, 0x32#8, 0x33#8, 0x34#8, 0x35#8, 0x36#8, 0x37#8, 0x38#8, 0x39#8]

theorem test_crc32_of_nine_digits : crc32Final (crc32Feed crc32Start nineDigits) = 0xCBF43926#32 := by decide +kernel
theorem test_crc16_of_nine_digits : crc16 nineDigits = 0x29B1#16 := by decide +kernel

/-- The worked frame of an ENGAGE with tag 1: sync, length, kind, tag, CRC low byte first. -/
theorem test_wire_of_engage : (wireBytes 7#8 1#8 []).take 4 = [0xB7#8, 0#8, 7#8, 1#8] := by decide
theorem test_wire_escapes : escapeOut 0xB7#8 = [0xB8#8, 0xF7#8] ∧ escapeOut 0xB8#8 = [0xB8#8, 0xF8#8] := by decide

/-! ## Worked values of the position arithmetic (R56, R57, R62) -/

theorem test_ramp_of_256_toward_640 :
    rampSpeed 256 0 640 = 256 ∧ rampSpeed 256 256 640 = 512 ∧ rampSpeed 256 512 640 = 640 := by decide
theorem test_ramp_of_1000_toward_minus_2048 :
    rampSpeed 1000 1024 (-2048) = 24 ∧ rampSpeed 1000 24 (-2048) = -976 ∧ rampSpeed 1000 (-976) (-2048) = -1976 ∧
      rampSpeed 1000 (-1976) (-2048) = -2048 := by decide
theorem test_curve_ties_round_away_from_zero :
    curveTarget ([0, 8] ++ List.replicate 15 8) (-127) = 1 ∧ curveTarget ([0, -24] ++ List.replicate 15 0) (-127) = -2 := by
  decide
theorem test_wrap_runs_through_several_spans :
    (⟨10, 11⟩ : Window).wrap (12 * 1024) = 10 * 1024 ∧ (⟨10, 11⟩ : Window).wrap (10 * 1024 - 1) = 12 * 1024 - 1 ∧
      (⟨10, 11⟩ : Window).wrap (17 * 1024 + 5) = 11 * 1024 + 5 := by decide

/-! ## The notice cells -/

theorem test_cells_are_54_in_order : allCells.map (fun k => cellIndex k.1 k.2) = List.range 54 := by decide
theorem test_no_row_has_bits : decodeTableWord 8 1 = none ∧ decodeTableWord 0 0 = none := by decide

/-! ## Small states -/

/-- A feed that has recorded 100 frames into a ring of 64 with guard 16: its playable range is 52 to 99. -/
def fed : Feed :=
  { Feed.reset with
    cfg := { beginAddr := 0, endAddr := 127, depth := 64, stride := 2, guard := 16, warn := 10 }
    state := .recording, nextFrame := 100, head := some 99
    directory := [(60, ⟨60, .complete, 1, some 0#32⟩), (61, ⟨61, .damaged .check, 1, some 0#32⟩)] }

def closedClip : Clip := { Clip.create .closed 0 60 (some 80) with useCount := 1 }
def openClip : Clip := Clip.create .opened 0 70 none
def goneClip : Clip := Clip.create .expired 0 5 (some 9)

/-- An ENGAGED part with one recording feed, three clips, a pending clip of source 4 and a list. -/
def eng : State :=
  { State.reset with
    engaged := .engaged, feeds := State.reset.feeds.set 0 fed
    clips := [(3, closedClip), (4, openClip), (5, goneClip)], markRefs := [(4, 4)]
    lists := (Quad.all []).set 0 [⟨5, none⟩, ⟨3, some 512⟩] }

def dis : State := { eng with engaged := .disengaged }

def placed (st : ChanState) : Channel :=
  { Channel.reset with
    state := st, material := some (.clip 3), pos := 60 * 1024, window := some ⟨60, 80⟩
    selection := some ⟨0, 60, none, 0, some 3⟩ }

/-- CH0 stands on frame 60 of clip 3. -/
def on (st : ChanState) : State := eng.setChan 0 (placed st)

/-- CH0 is the master of CH1 and CH2. -/
def ganged : State :=
  { (((on .playing).setChan 1 { Channel.reset with state := .slave, material := some (.feed 0) }).setChan 2
      { Channel.reset with state := .slave, material := some (.feed 0) }) with
    gangs := (Quad.all []).set 0 [⟨1, 0, 0⟩, ⟨2, 0, -1⟩] }

/-- CH0, as given, is the master of CH1 on feed 0 with a window, and of CH2 on feed 1, which has no playable range. -/
def masterAs (x : Channel) : State :=
  { ((eng.setChan 0 x).setChan 1 { Channel.reset with
        state := .slave, material := some (.feed 0), pos := 61 * 1024, window := some ⟨60, 80⟩ }).setChan 2
      { Channel.reset with state := .slave, material := some (.feed 1) } with
    gangs := (Quad.all []).set 0 [⟨1, 0, 1⟩, ⟨2, 1, -1⟩] }

def aReply : TxRecord := .reply 0#8 1#8 .ok []
def aNotice : TxRecord := .notice .atLive 0 1 (.atLive 0 99)
def withLink (l : Link) : State := { State.reset with link := l }
def withCell (i : Nat) (c : Cell) : State := { State.reset with cells := State.reset.cells.set i c }
def withClip (id : Nat) (c : Clip) : State := { eng with clips := SMap.put eng.clips id c }
def full : State := { eng with clips := (List.range 1024).map fun i => (i, closedClip) }

/-! ## The hypotheses of the statements are met: step, link, notices -/

theorem test_hyp_StepRunsTheFrontCommand : State.reset.pending = [] := by decide

theorem test_hyp_HostCommandIsItsCheckedFrame :
    (Instr.engage 1#8 []).wf = true ∧ (Instr.engage 1#8 []).frame? = some ⟨7#8, 1#8, []⟩ ∧ State.reset.ready ∧
    (let l := { Link.reset with sending := some aReply }
     (withLink l).link.replySent = false ∧ (withLink l).link.inBuf.length < 4 ∧
       (withLink { l with inBuf := List.replicate 3 ⟨7#8, 1#8, []⟩ }).link.inBuf.length < 4 ∧
       4 ≤ (withLink { l with inBuf := List.replicate 4 ⟨7#8, 1#8, []⟩ }).link.inBuf.length) := by decide

theorem test_hyp_BadFramesAreRefused :
    (Instr.setCurve 1#8 [0#8]).wf = true ∧ (Instr.setCurve 1#8 [0#8]).frame? = some ⟨4#8, 1#8, [0#8]⟩ ∧
    kindIsKnown 4#8 = true ∧ bodyFits ⟨4#8, 1#8, [0#8]⟩ = false ∧ State.reset.ready ∧
    bodyFits ⟨39#8, 1#8, [0#8]⟩ = false ∧ kindIsKnown 39#8 = true ∧ kindIsKnown 0#8 = false ∧
    kindIsKnown 40#8 = false ∧ kindIsKnown 255#8 = false := by decide

theorem test_hyp_WireFrameIsReceivedWhole : (List.replicate 250 0#8).length ≤ 250 ∧ State.reset.link.rx = .hunt := by
  decide +kernel

/-- Length 251 is an error, 250 is not; a frame of ENGAGE with tag 1 completes at its fifth byte. -/
theorem test_hyp_ReceiverTakesEachByte :
    (State.reset.setRx (.inFrame [] false)).link.rx = .inFrame [] false ∧
    (State.reset.setRx (.inFrame [0#8] false)).link.rx = .inFrame [0#8] false ∧
    (State.reset.setRx (.inFrame [] true)).link.rx = .inFrame [] true ∧
    addedByte false 0xFB#8 = some 0xFB#8 ∧ 250 < (([] ++ [0xFB#8]).headD 0#8).toNat ∧
    addedByte false 0xFA#8 = some 0xFA#8 ∧ (([] ++ [0xFA#8]).headD 0#8).toNat ≤ 250 ∧
    addedByte true 0xF7#8 = some 0xB7#8 ∧ addedByte true 0xF8#8 = some 0xB8#8 ∧
    (let crc := leBytes 2 (crc16 (framePayload 7#8 1#8 [])).toNat
     let held := framePayload 7#8 1#8 [] ++ crc
     held.length = 5 ∧ held.dropLast ++ [crc.getLastD 0#8] = held ∧ addedByte false (crc.getLastD 0#8) = crc.getLast? ∧
     ([0#8, 7#8, 1#8, 0#8, 0#8].drop 3 ≠ crc)) := by decide +kernel

theorem test_hyp_RecordSentBeginsTheNext :
    State.reset.link.sending = none ∧
    (let s := withLink { Link.reset with sending := some aNotice, inBuf := [⟨7#8, 1#8, []⟩] }
     s.link.sending = some aNotice ∧ s.link.inBuf = [⟨7#8, 1#8, []⟩] ∧
       ({ s.link with sending := s.link.outQueue.head?, outQueue := s.link.outQueue.tail } : Link).replySent = true) ∧
    (let s := withLink { Link.reset with sending := some aNotice, outQueue := [aReply] }
     ({ s.link with sending := s.link.outQueue.head?, outQueue := s.link.outQueue.tail } : Link).replySent = false) := by
  decide

theorem test_hyp_RaisedEventReachesItsCell :
    cellIndex (Detail.atLive 0 9).cls 3 < State.reset.cells.length ∧
    ((withCell 19 ⟨true, true, 255, none⟩).cell 19).count ≤ 255 ∧
    ((withCell 19 ⟨true, false, 254, none⟩).cell 19).latch = false ∧
    ((withCell 19 ⟨true, false, 254, none⟩).cell 19).enable = true ∧
    ((withCell 19 ⟨false, true, 0, none⟩).cell 19).latch = true ∧
    (let l := { Link.reset with sending := some aReply, outQueue := [aReply, aNotice] }
     l.sending ≠ none ∧ (∀ r ∈ l.outQueue, r.isNotice .cueReady 0 = false) ∧
       (∀ r ∈ [aReply], r.isNotice .atLive 0 = false) ∧
       l.outQueue = [aReply] ++ .notice .atLive 0 1 (.atLive 0 99) :: []) := by decide

theorem test_hyp_NoticeCommandsWriteTheirCells :
    State.reset.ready ∧ State.reset.cells.length = 54 ∧ namedCells? 255 0 = none ∧ namedCells? 16 255 = none ∧
    namedCells? 4 4 = none ∧ 1 < (2#8 : Byte).toNat ∧ namedCells? 255 255 = some allCells ∧
    namedCells? 4 3 = some [(.atLive, 3)] ∧
    (let s := withCell 19 ⟨false, true, 2, some (.atLive 0 9)⟩
     (s.cell 19).enable = false ∧ (s.cell 19).latch = true ∧ (s.cell 19).detail = some (.atLive 0 9)) := by decide

/-- Of the four AT_LIVE cells, CH0's is off and latched, CH1's on and latched, CH2's off and not latched. -/
theorem test_hyp_NoticeRecordsOfSeveralCells :
    let cells := ((State.reset.cells.set 16 ⟨false, true, 2, some (.atLive 0 9)⟩).set 17
      ⟨true, true, 1, some (.atLive 0 8)⟩).set 18 ⟨false, false, 0, none⟩
    let s : State := { State.reset with cells := cells }
    s.ready ∧ s.cells.length = 54 ∧ namedCells? 4 255 = some [(.atLive, 0), (.atLive, 1), (.atLive, 2), (.atLive, 3)] ∧
    (s.cell 16).enable = false ∧ (s.cell 16).latch = true ∧ (s.cell 17).enable = true ∧ (s.cell 18).latch = false := by
  decide

/-! ## Engagement and configuration -/

theorem test_hyp_SetStoreWritesSizeAndMode :
    State.reset.ready ∧ eng.ready ∧ (2 ^ 64 - 1 < 2 ^ 64 ∧ 255 < 256) ∧ (∃ v, some 2 = some v ∧ 1 < v) ∧
    (∀ v, some 1 = some v → v ≤ 1) ∧ eng.engaged = .engaged ∧ State.reset.engaged = .disengaged := by
  refine ⟨by decide, by decide, by decide, ⟨2, rfl, by decide⟩, ?_, by decide, by decide⟩
  intro v h; cases h; decide

/-- n = 8; a depth that moves the geometry of a feed with material; one that is present already; a clamped guard. -/
theorem test_hyp_SetFeedWritesTheConfiguration :
    dis.ready ∧ 8 ≤ (8#8 : Byte).toNat ∧ (7#8 : Byte).toNat = (7 : FeedId).val ∧ (0#8 : Byte).toNat = (0 : FeedId).val ∧
    eng.engaged = .engaged ∧ dis.engaged = .disengaged ∧ (65 : Nat) ≠ (dis.feed 0).cfg.depth ∧
    (dis.feed 0).directory ≠ [] ∧ (dis.feed 7).directory = [] ∧ (64 : Nat) = (dis.feed 0).cfg.depth ∧ (1 : Nat) < 2 := by
  decide

/-- Tail 61 expires clip 3 (mark-in 60); tail 60 warns it at distance 10; tail 49 does neither; clip 5 is no hit. -/
theorem test_hyp_NewTailExpiresAndWarnsClips :
    SMap.wf eng.clips = true ∧ SMap.find eng.clips 3 = some closedClip ∧ SMap.find eng.clips 5 = some goneClip ∧
    (closedClip.state = .opened ∨ closedClip.state = .closed) ∧ closedClip.feed = 0 ∧ closedClip.markIn < 61 ∧
    ¬ closedClip.markIn < 60 ∧ closedClip.watch = true ∧ 0 < (eng.feed 0).cfg.warn ∧
    closedClip.markIn ≤ 50 + (eng.feed 0).cfg.warn ∧ 49 + (eng.feed 0).cfg.warn < closedClip.markIn ∧
    ¬ (goneClip.state = .opened ∨ goneClip.state = .closed) ∧ openClip.state = .opened ∧ openClip.markIn < 71 ∧
    (eng.feed 0).clipNotices = [] ∧
    ((eng.setFeed 0 { fed with clipNotices := [⟨36, 53⟩] }).feed 0).clipNotices = [⟨36, 53⟩] := by decide

theorem test_hyp_EngageChecksAndStartsTheFeeds :
    dis.ready ∧ eng.engaged = .engaged ∧ dis.engaged = .disengaged ∧ layoutFault dis = none ∧
    layoutFault { dis with storeSize := 127 } = some (0, .window, none) ∧
    layoutFault (dis.setFeed 1 fed) = some (1, .overlap, some 0) := by decide

/-- The feed with another ring, guard and window. -/
def laid (beginAddr endAddr depth guard : Nat) : Feed :=
  { fed with cfg := { beginAddr := beginAddr, endAddr := endAddr, depth := depth, stride := 2, guard := guard, warn := 10 } }

/-- The first pass of R183: SIZE and GUARD each alone and both; FEED0's SIZE before FEED1's WINDOW. -/
theorem test_hyp_EngageChecksFeedsInOrder :
    layoutFault (dis.setFeed 0 (laid 0 127 65 16)) = some (0, .size, none) ∧
    layoutFault (dis.setFeed 0 (laid 0 127 64 17)) = some (0, .guard, none) ∧
    layoutFault (dis.setFeed 0 (laid 0 127 65 17)) = some (0, .size, none) ∧
    layoutFault (({ dis with storeSize := 128 }.setFeed 0 (laid 0 127 65 16)).setFeed 1 (laid 128 255 64 16)) =
      some (0, .size, none) := by decide

/-- The second pass of R183: a GUARD of FEED7 before an overlap of lower feeds; of several pairs the first. -/
theorem test_hyp_EngageChecksPairsInOrder :
    layoutFault ((dis.setFeed 1 fed).setFeed 7 (laid 0 127 64 17)) = some (7, .guard, none) ∧
    layoutFault ((dis.setFeed 2 fed).setFeed 3 fed) = some (2, .overlap, some 0) ∧
    layoutFault ((dis.setFeed 1 (laid 128 255 64 16)).setFeed 2 (laid 128 255 64 16)) =
      some (2, .overlap, some 1) := by decide

theorem test_hyp_DisengageAndRestart :
    eng.ready ∧ dis.ready ∧ eng.engaged = .engaged ∧ dis.engaged = .disengaged ∧ SMap.find eng.clips 3 = some closedClip ∧
    8 ≤ (8#8 : Byte).toNat ∧ (7#8 : Byte).toNat = (7 : FeedId).val ∧ SMap.wf dis.clips = true := by decide

/-- Frames 96 and 97 are pending and a fragment of 97 is buffered: 96 finishes, 97 and the open frame wait. -/
def pendingFeed : Feed :=
  { fed with
    openFrame := some ⟨99, 2, 0#32, none⟩, closing := [⟨96, 1, 0#32, none⟩, ⟨97, 1, 0#32, some .dropped⟩]
    buffer := [⟨97, 0, []⟩] }

theorem test_hyp_DisengageFinishesTheFrames (last : ClosedFrame) :
    FinishSplit (pendingFeed.closing ++ [last]) pendingFeed.buffer [⟨96, 1, 0#32, none⟩]
      [⟨97, 1, 0#32, some .dropped⟩, last] ∧
    ({ pendingFeed with openFrame := none } : Feed).openFrame = none ∧
    pendingFeed.openFrame = some ⟨99, 2, 0#32, none⟩ := by
  refine ⟨⟨rfl, by decide, ?_⟩, rfl, rfl⟩
  intro p rest hp
  cases hp
  exact ⟨_, List.mem_cons_self, rfl⟩

theorem test_hyp_SetChannelWritesTheOptions :
    eng.ready ∧ 4 ≤ (4#8 : Byte).toNat ∧ (3#8 : Byte).toNat = (3 : ChanId).val ∧ (ganged.chan 1).state = .slave ∧
    ganged.ready ∧ (eng.chan 3).state ≠ .slave ∧ (∃ b : Byte, some 2#8 = some b ∧ 1 < b.toNat) ∧
    (∃ b : Byte, some 16#8 = some b ∧ 15 < b.toNat) ∧ ¬ (∃ b : Byte, some 15#8 = some b ∧ 15 < b.toNat) := by
  refine ⟨by decide, by decide, by decide, by decide, by decide, by decide, ⟨_, rfl, by decide⟩, ⟨_, rfl, by decide⟩, ?_⟩
  rintro ⟨b, h, g⟩; cases h; revert g; decide

theorem test_hyp_SetCurveWritesAllPoints :
    State.reset.ready ∧ (∀ x ∈ resetCurve, fitsS 4 x) ∧ resetCurve.length = 17 ∧ (resetCurve.drop 1).length ≠ 17 ∧
    fitsS 4 2147483647 ∧ fitsS 4 (-2147483648) := by decide

theorem test_hyp_SetPanelWritesTheBinding :
    State.reset.ready ∧ (∀ v, some 65536 = some v → v < 2 ^ 32) ∧ (∃ b : Byte, some 4#8 = some b ∧ 3 < b.toNat) ∧
    ¬ (∃ b : Byte, some 3#8 = some b ∧ 3 < b.toNat) := by
  refine ⟨by decide, ?_, ⟨_, rfl, by decide⟩, ?_⟩
  · intro v h; cases h; decide
  · rintro ⟨b, h, g⟩; cases h; revert g; decide

/-! ## Channel commands -/

theorem test_hyp_TransportCommandsSetTheState :
    eng.ready ∧ (on .cued).ready ∧ fitsS 4 2147483647 ∧ fitsS 2 (-32768) ∧ fitsS 2 32767 ∧ 4 ≤ (4#8 : Byte).toNat ∧
    (3#8 : Byte).toNat < 4 ∧ dis.engaged = .disengaged ∧ ganged.engaged = .engaged ∧ (ganged.chan 1).state = .slave ∧
    (eng.chan 0).state = .idle ∧ (on .cued).engaged = .engaged ∧ ((on .cued).chan 0).state ≠ .idle ∧
    ((on .cued).chan 0).state ≠ .slave := by decide

theorem test_hyp_CueClipEntersCued :
    eng.ready ∧ eng.engaged = .engaged ∧ (eng.chan 0).state ≠ .slave ∧ SMap.find eng.clips 3 = some closedClip ∧
    closedClip.state ≠ .expired ∧ closedClip.window (eng.feed closedClip.feed) = some ⟨60, 80⟩ ∧ GangsApart eng ∧
    GangsApart ganged ∧ 1023 < 1024 ∧ SMap.find eng.clips 1023 = none ∧ SMap.find eng.clips 5 = some goneClip ∧
    goneClip.state = .expired ∧ (withClip 6 (Clip.create .closed 1 0 (some 1))).ready ∧
    (Clip.create .closed 1 0 (some 1)).window (eng.feed 1) = none := by decide

theorem test_hyp_CueFeedAndGoLive :
    eng.ready ∧ eng.engaged = .engaged ∧ (eng.chan 0).state ≠ .slave ∧ GangsApart eng ∧ (eng.feed 1).range = none ∧
    (eng.feed 0).range = some ⟨52, 99⟩ ∧ (eng.chan 0).state = .idle ∧ channelFeed (on .playing) 0 = some 0 ∧
    4294967295 < 2 ^ 32 := by decide

/-- The refusals at their boundaries: channel 4; DISENGAGED; a slave; feed 8 and reference 2. -/
theorem test_hyp_CueFeedGoLiveEjectUngangRefusals :
    4 ≤ (4#8 : Byte).toNat ∧ (3#8 : Byte).toNat < 4 ∧ dis.ready ∧ dis.engaged = .disengaged ∧ ganged.ready ∧
    ganged.engaged = .engaged ∧ (1#8 : Byte).toNat = (1 : ChanId).val ∧ (ganged.chan 1).state = .slave ∧
    (eng.chan 3).state ≠ .slave ∧ 7 < (8#8 : Byte).toNat ∧ 1 < (2#8 : Byte).toNat := by decide

theorem test_hyp_EjectEntersIdle :
    ganged.ready ∧ ganged.engaged = .engaged ∧ GangsApart ganged ∧ (eng.chan 0).state = .idle ∧
    (ganged.chan 0).state ≠ .idle ∧ (ganged.chan 0).opts.idlePicture = .black ∧ (ganged.chan 0).state ≠ .slave ∧
    (ganged.chan 1).state = .slave ∧ masterOf ganged 1 = some (0, ⟨1, 0, 0⟩) ∧
    ((ganged.setChan 0 { placed .playing with opts := { ChanOptions.reset with idlePicture := .hold } }).chan
      0).opts.idlePicture ≠ .black := by decide

/-! ## Gangs -/

/-- CH1 joins on the recording feed and CH2 on a feed with no playable range. -/
theorem test_hyp_GangPlacesItsSlaves :
    let s := on .playing
    let gs : List GangSlave := [⟨1, 0, 65535⟩, ⟨2, 1, -65536⟩]
    s.ready ∧ s.engaged = .engaged ∧ gs ≠ [] ∧ gs.length ≤ 3 ∧ ((0 : ChanId) :: gs.map (·.ch)).Nodup ∧
    isGanged s 0 = false ∧ (∀ g ∈ gs, isGanged s g.ch = false) ∧ (s.chan 0).state ≠ .idle ∧
    (s.chan 0).window = some ⟨60, 80⟩ ∧ (∀ g ∈ gs, -65536 ≤ g.offset ∧ g.offset ≤ 65535) ∧
    (s.feed 0).range = some ⟨52, 99⟩ ∧ (s.feed 1).range = none := by decide

/-- Each refusal of GANG: master 4, feed 8, no slave, a channel twice; DISENGAGED; a slave of another gang; a master in
IDLE. An offset of 65,536 is clamped, and 65,535 is not. -/
theorem test_hyp_GangRefusals :
    3 < (4#8 : Byte).toNat ∧ 7 < (8#8 : Byte).toNat ∧ ¬ ((0 : Nat) :: [1, 1]).Nodup ∧ ((0 : Nat) :: [1, 2, 3]).Nodup ∧
    dis.ready ∧ dis.engaged = .disengaged ∧ ganged.ready ∧ ganged.engaged = .engaged ∧
    (masterOf ganged 1).isSome = true ∧ ganged.gangs.get 0 ≠ [] ∧ eng.ready ∧ eng.engaged = .engaged ∧
    (∀ c, (masterOf eng c).isSome = false ∧ eng.gangs.get c = []) ∧ (eng.chan 0).state = .idle ∧ fitsS 4 65536 ∧
    max (-65536 : Int) (min 65536 65535) ≠ 65536 ∧ max (-65536 : Int) (min 65535 65535) = 65535 := by decide

theorem test_hyp_UngangFreesTheSlaves :
    ganged.ready ∧ ganged.engaged = .engaged ∧ GangsApart ganged ∧ masterOf eng 0 = none ∧ eng.gangs.get 0 = [] ∧
    ungangNames ganged 0 = some (0, [⟨1, 0, 0⟩, ⟨2, 0, -1⟩]) ∧ ungangNames ganged 2 = some (0, [⟨2, 0, -1⟩]) ∧
    (ganged.feed 0).range = some ⟨52, 99⟩ ∧ ((ganged.setFeed 0 Feed.reset).feed 0).range = none := by decide

theorem test_hyp_PositionArithmetic :
    resetCurve.length = 17 ∧ (-128 : Int) ≤ -128 ∧ (127 : Int) ≤ 127 ∧ curveTarget resetCurve 127 = 31744 ∧
    curveTarget resetCurve (-128) = -32768 ∧ (0 + 256 : Int) < 640 ∧ (-640 : Int) < 0 - 256 ∧
    (⟨3, 3⟩ : Window).lo ≤ (⟨3, 3⟩ : Window).hi ∧ (31 % 1024 + 32) / 64 = 0 ∧ (992 % 1024 + 32) / 64 = 16 ∧
    (32 % 1024 + 32) / 64 = 1 ∧ (-5 : Int) ≤ -1 := by decide

/-- A channel that plays clip 3 at nominal speed looks ahead to frames 61 and 62; one that stands looks ahead to none. -/
theorem test_hyp_LookaheadFrames :
    let x := { placed .playing with speed := 1024 }
    x.speed ≠ 0 ∧ x.opts.lookahead = 2 ∧ [61, 62].length = x.opts.lookahead ∧
    (∀ i, i < 2 → [61, 62][i]? = some (((x.pos : Int) + (i + 1 : Nat) * x.speed).toNat / 1024)) ∧
    lookahead (on .playing) x ⟨60, 80⟩ ⟨0, 60, none, 0, some 3⟩ = [61, 62] ∧ (placed .playing).speed = 0 ∧
    (let s := { on .playing with clips := SMap.put eng.clips 3 { closedClip with endMode := .loop } }
     boundClip s (some (.clip 3)) .upper = some { closedClip with endMode := .loop } ∧
       lookahead s { x with pos := 80 * 1024 } ⟨60, 80⟩ ⟨0, 80, none, 0, some 3⟩ = [60, 61]) := by decide

/-! ## Marks and clips -/

theorem test_hyp_MarkInOpensOrReMarks :
    eng.ready ∧ (on .playing).ready ∧ markSource? (0#8 : Byte).toNat = some (.chan 0) ∧
    markSource? (11#8 : Byte).toNat = some (.feed 7) ∧ pendingClip (on .playing) 0 (.chan 0) = none ∧
    capture (on .playing) (.chan 0) = .ok ⟨0, 52, 60, false⟩ ∧ freeClip (on .playing) = some 0 ∧
    markSource? (4#8 : Byte).toNat = some (.feed 0) ∧ pendingClip eng 4 (.feed 0) = some (4, openClip) ∧
    capture eng (.feed 0) = .ok ⟨0, 52, 99, false⟩ := by
  refine ⟨by decide, by decide, by decide, by decide, by decide, rfl, by decide, by decide, by decide, rfl⟩

theorem test_hyp_MarksCaptureOrAreRefused :
    eng.ready ∧ 11 < (12#8 : Byte).toNat ∧ (eng.chan 0).state = .idle ∧ capture eng (.chan 0) = .error .noMaterial ∧
    ((on .cued).chan 0).state ≠ .idle ∧ channelFeed (on .cued) 0 = some 0 ∧ ((on .cued).feed 0).range = some ⟨52, 99⟩ ∧
    (((on .cued).setFeed 0 Feed.reset).feed 0).range = none ∧ capture eng (.feed 1) = .error .noHead := by
  refine ⟨by decide, by decide, by decide, rfl, by decide, by decide, by decide, by decide, rfl⟩

/-- A full table with no pending clip refuses a mark with TABLE_FULL. -/
theorem test_hyp_MarkOnAFullTable :
    full.ready ∧ capture full (.feed 0) = .ok ⟨0, 52, 99, false⟩ ∧ pendingClip { full with markRefs := [] } 4 (.feed 0) = none :=
  ⟨by decide, rfl, rfl⟩

theorem freeFrom_full (c : Clip) (n k m : Nat) (h : k + n ≤ m) :
    SMap.freeFrom ((List.range m).map fun i => (i, c)) n k = none := by
  induction n generalizing k with
  | zero => rfl
  | succ n ih =>
    have hf : SMap.find ((List.range m).map fun i => (i, c)) k = some c := by
      have key : ∀ (l : List Nat), k ∈ l → SMap.find (l.map fun i => (i, c)) k = some c := by
        intro l hl
        induction l with
        | nil => cases hl
        | cons a l ih =>
          simp only [List.map_cons, SMap.find]
          split
          · rfl
          · rename_i hne
            rcases List.mem_cons.mp hl with rfl | h
            · exact absurd rfl hne
            · exact ih h
      exact key _ (List.mem_range.mpr (by omega))
    simp only [SMap.freeFrom, hf, Option.isNone_some, Bool.false_eq_true, if_false]
    exact ih (k + 1) (by omega)

theorem full_clips : full.clips = (List.range 1024).map fun i => (i, closedClip) := by simp only [full]

theorem test_hyp_TableFull : freeClip full = none := by
  unfold freeClip SMap.firstFree
  rw [full_clips]
  exact freeFrom_full closedClip Config.clipRecords 0 1024 (Nat.le_of_eq (Nat.zero_add _))

theorem test_hyp_MakeClipMakesAClosedClip :
    eng.ready ∧ 4294967295 < 2 ^ 32 ∧ 8 ≤ (8#8 : Byte).toNat ∧ (7#8 : Byte).toNat = (7 : FeedId).val ∧
    (eng.feed 7).range = none ∧ (eng.feed 0).range = some ⟨52, 99⟩ ∧ freeClip eng = some 0 := by decide

theorem test_hyp_TrimClipWritesThePair :
    eng.ready ∧ (some 60 ≠ (none : Option Nat)) ∧ SMap.find eng.clips 3 = some closedClip ∧ closedClip.state = .closed ∧
    closedClip.markOut = some 80 ∧ (eng.feed closedClip.feed).range = some ⟨52, 99⟩ ∧
    SMap.find eng.clips 4 = some openClip ∧ openClip.state = .opened ∧ openClip.markOut = none ∧
    (eng.feed openClip.feed).range = some ⟨52, 99⟩ := by decide

theorem test_hyp_TrimClipRefusals :
    eng.ready ∧ 1023 < 1024 ∧ SMap.find eng.clips 1023 = none ∧ SMap.find eng.clips 5 = some goneClip ∧
    goneClip.state = .expired ∧ (withClip 6 (Clip.create .closed 1 0 (some 1))).ready ∧
    SMap.find (withClip 6 (Clip.create .closed 1 0 (some 1))).clips 6 = some (Clip.create .closed 1 0 (some 1)) ∧
    (eng.feed 1).range = none := by decide

theorem test_hyp_SetClipWritesTheFields :
    eng.ready ∧ 1023 < 1024 ∧ 1024 < 65536 ∧ fitsS 4 (-2147483648) ∧ ([(7#8, (65536 : Int))] : List (Byte × Int)).length < 256 ∧
    (∃ b : Byte, some 3#8 = some b ∧ 2 < b.toNat) ∧ SMap.find eng.clips 1023 = none ∧
    SMap.find eng.clips 3 = some closedClip ∧ (∃ v : Int, some 32769 = some v ∧ (v < -32768 ∨ 32768 < v)) := by
  refine ⟨by decide, by decide, by decide, by decide, by decide, ⟨_, rfl, by decide⟩, by decide, by decide, ⟨_, rfl, by decide⟩⟩

theorem test_hyp_DeleteClipFreesTheRecord :
    eng.ready ∧ 1024 < 65536 ∧ 1023 < 1024 ∧ SMap.find eng.clips 1023 = none ∧ SMap.find eng.clips 3 = some closedClip ∧
    0 < closedClip.useCount ∧ SMap.find eng.clips 4 = some openClip ∧ openClip.useCount = 0 ∧
    SMap.wf eng.clips = true := by decide

theorem test_hyp_ReadsReportAndChangeNothing :
    eng.ready ∧ SMap.find eng.clips 3 = some closedClip ∧ SMap.find eng.clips 1023 = none ∧ 1023 < 1024 ∧
    (53#8 : Byte).toNat < 54 ∧ 54 ≤ (54#8 : Byte).toNat ∧ 4 ≤ (4#8 : Byte).toNat ∧ 8 ≤ (8#8 : Byte).toNat ∧
    1023 < 1024 ∧ 1024 < 65536 ∧ (3#8 : Byte).toNat = (3 : ChanId).val ∧ closedClip.angles.length ≤ 3 ∧
    (masterOf eng 3 = none ∧ eng.gangs.get 3 = []) ∧ (masterOf ganged 1).isSome = true ∧
    (masterOf ganged 0 = none ∧ ganged.gangs.get 0 ≠ [] ∧ (ganged.gangs.get 0).length ≤ 3) := by decide

/-! ## Cue lists -/

def sixteen : List CueEntry := List.replicate 16 ⟨3, none⟩

theorem test_hyp_ListInsertPlacesTheEntry :
    eng.ready ∧ 4 ≤ (4#8 : Byte).toNat ∧ 255 < 256 ∧ 65535 < 65536 ∧ (∀ v : Int, some 40000 = some v → fitsS 4 v) ∧ 1023 < 1024 ∧ (eng.lists.get 0).length < 3 ∧
    2 ≤ (eng.lists.get 0).length ∧ 16 ≤ ({ eng with lists := (Quad.all []).set 0 sixteen }.lists.get 0).length ∧
    SMap.find eng.clips 0 = none ∧ SMap.find eng.clips 5 = some goneClip ∧ goneClip.state = .expired ∧
    SMap.find eng.clips 3 = some closedClip ∧ closedClip.state ≠ .expired := by
  refine ⟨by decide, by decide, by decide, by decide, ?_, by decide, by decide, by decide, by decide, by decide, by decide,
    by decide, by decide, by decide⟩
  intro v h; cases h; decide

theorem test_hyp_ListRemoveAndClearTakeEntriesOut :
    eng.ready ∧ 4 ≤ (4#8 : Byte).toNat ∧ (0#8 : Byte).toNat = (0 : ChanId).val ∧
    (eng.lists.get 0).length ≤ (2#8 : Byte).toNat ∧ eng.lists.get 0 = [⟨5, none⟩] ++ ⟨3, some 512⟩ :: [] ∧
    [(⟨5, none⟩ : CueEntry)].length = (1#8 : Byte).toNat ∧ SMap.wf eng.clips = true := by decide

/-- The list passes an EXPIRED clip and takes clip 3, whose mark-in 60 is not below the tail 52. -/
theorem test_hyp_TakeNextTakesTheChosenEntry :
    let s := on .playing
    s.ready ∧ s.engaged = .engaged ∧ (s.chan 0).state ≠ .idle ∧ (s.chan 0).state ≠ .slave ∧ GangsApart s ∧
    s.lists.get 0 = [⟨5, none⟩] ++ ⟨3, some 512⟩ :: [] ∧ SMap.find s.clips 5 = some goneClip ∧ goneClip.state = .expired ∧
    SMap.find s.clips 3 = some closedClip ∧ closedClip.state ≠ .expired ∧
    (s.feed closedClip.feed).tail ≤ closedClip.markIn ∧ closedClip.window (s.feed closedClip.feed) = some ⟨60, 80⟩ ∧
    ((on .cued).chan 0).state ≠ .playing ∧ { s with lists := Quad.all [] }.lists.get 0 = [] := by decide

/-- The chosen clip's window is empty: its mark-in 120 lies above the head 99. -/
theorem test_hyp_TakeNextOnAnEmptyWindow :
    let c := Clip.create .closed 0 120 (some 130)
    let s := { (withClip 6 c).setChan 0 (placed .cued) with lists := (Quad.all []).set 0 [⟨5, none⟩, ⟨6, none⟩] }
    s.ready ∧ s.engaged = .engaged ∧ (s.chan 0).state ≠ .idle ∧ (s.chan 0).state ≠ .slave ∧
    s.lists.get 0 = [⟨5, none⟩] ++ ⟨6, none⟩ :: [] ∧ SMap.find s.clips 5 = some goneClip ∧ goneClip.state = .expired ∧
    SMap.find s.clips 6 = some c ∧ c.state ≠ .expired ∧ (s.feed c.feed).tail ≤ c.markIn ∧
    c.window (s.feed c.feed) = none := by decide

/-- A cue, a GO_LIVE and a take on a master: CH1 takes the first angle of the clip, CH2 keeps its own. -/
theorem test_hyp_CueOnAMaster :
    let s := masterAs (placed .cued)
    s.ready ∧ s.engaged = .engaged ∧ (s.chan 0).state ≠ .slave ∧ GangsApart s ∧ SMap.find s.clips 3 = some closedClip ∧
    closedClip.window (s.feed 0) = some ⟨60, 80⟩ ∧ (s.feed 0).range = some ⟨52, 99⟩ ∧
    assigned (s.gangs.get 0) [⟨0, -2⟩] = [⟨1, 0, -2⟩, ⟨2, 1, -1⟩] ∧ assigned (s.gangs.get 0) [] = s.gangs.get 0 ∧
    s.lists.get 0 = [⟨5, none⟩] ++ ⟨3, some 512⟩ :: [] := by decide

/-! ## Ingest -/

def opened : OpenFrame := ⟨99, 2, 0#32, none⟩
def inFrame : Feed := { fed with openFrame := some opened }
def buffered (n : Nat) : List BufFragment := List.replicate n ⟨98, 0, []⟩

theorem test_hyp_FrameStartOpensTheNextFrame :
    (State.reset.feed 0).state = .off ∧ (eng.feed 0).state = .recording ∧ (eng.feed 0).nextFrame < 4294967296 ∧
    SMap.wf (eng.feed 0).directory = true ∧ (eng.feed 0).cfg.depth ≤ (eng.feed 0).nextFrame ∧
    (let s := eng.setFeed 0 { fed with nextFrame := 4294967296 }
     (s.feed 0).state = .recording ∧ (s.feed 0).nextFrame = 4294967296 ∧ s.cells.length = 54) := by decide

/-- Frame 100 takes the entry of frame 36, which is still WRITING with a fragment buffered; frame 37 behind it is
written and finishes. -/
def overtaken : Feed :=
  { fed with
    directory := [(36, ⟨36, .writing, 0, none⟩), (37, ⟨37, .writing, 0, none⟩)]
    closing := [⟨36, 1, 0#32, none⟩, ⟨37, 1, 0#32, none⟩], buffer := [⟨36, 0, []⟩] }

theorem test_hyp_FrameStartOvertakes :
    overtaken.state = .recording ∧ overtaken.openFrame = none ∧ overtaken.nextFrame < 4294967296 ∧
    SMap.find overtaken.directory (100 % 64) = some ⟨36, .writing, 0, none⟩ ∧
    SMap.find fed.directory (100 % 64) = none ∧
    FinishSplit (overtaken.closing.filter fun p => p.number != 36) (overtaken.buffer.filter fun g => g.frame != 36)
      [⟨37, 1, 0#32, none⟩] [] ∧
    inFrame.state = .recording ∧ inFrame.openFrame = some opened := by
  refine ⟨by decide, by decide, by decide, by decide, by decide, ⟨by decide, by decide, ?_⟩, by decide, by decide⟩
  intro p rest hp
  cases hp

/-- Index 2 at stride 2; index 1 at a buffer of 96, and of 95. -/
theorem test_hyp_FragmentTakesTheNextIndex :
    fed.openFrame = none ∧ ((eng.setFeed 0 inFrame).feed 0).openFrame = some opened ∧ inFrame.cfg.stride ≤ opened.arrivals ∧
    ({ opened with arrivals := 1 } : OpenFrame).arrivals < inFrame.cfg.stride ∧ 96 ≤ (buffered 96).length ∧
    (buffered 95).length < 96 := by decide

theorem test_hyp_FrameEndClosesTheFrame :
    ((eng.setFeed 0 inFrame).feed 0).openFrame = some opened ∧ inFrame.closing = [] ∧
    (∀ g ∈ inFrame.buffer, g.frame ≠ opened.number) ∧
    (∃ g ∈ (buffered 1), g.frame = (⟨98, 1, 0#32, none⟩ : ClosedFrame).number) := by decide

theorem test_hyp_FrameEndFinishesInTurn (p : ClosedFrame) :
    FinishSplit (pendingFeed.closing ++ [p]) pendingFeed.buffer [⟨96, 1, 0#32, none⟩]
      [⟨97, 1, 0#32, some .dropped⟩, p] :=
  (test_hyp_DisengageFinishesTheFrames p).1

theorem test_hyp_DamageReportMarksCheck :
    let s := { eng with cache := { eng.cache with damageReports := [(0, 60), (0, 61), (0, 70)] } }
    ((0 : FeedId), 60) ∈ s.cache.damageReports ∧
    SMap.find (s.feed 0).directory (60 % 64) = some ⟨60, .complete, 1, some 0#32⟩ ∧
    SMap.find (s.feed 0).directory (61 % 64) = some ⟨61, .damaged .check, 1, some 0#32⟩ ∧
    SMap.find (s.feed 0).directory (70 % 64) = none := by decide

/-! ## Frame Cache and Store Arbiter -/

def valid60 : Slot := ⟨.valid, 0, 60, 1, [[]], none, none⟩
def filling60 : Slot := ⟨.filling, 0, 60, 1, [], some 0, none⟩
def fill60 : Fill := ⟨0, 0, [0], 0, 3, 120, 1, 0#32, 0, false, 0xFFFFFFFF#32⟩
def withCache (c : Cache) : State := { eng with cache := c }
def cached : State := withCache { Cache.reset with slots := [(0, valid60)], lru := [0] }
def filling : State := withCache { Cache.reset with slots := [(0, filling60)], fills := [(0, fill60)] }

theorem test_hyp_CacheTakesTheOverwriteNotice :
    (eng.feed 0).cacheNotices = [] ∧
    (let s := cached.setFeed 0 { fed with cacheNotices := [⟨60, 77⟩] }
     (s.feed 0).cacheNotices = [⟨60, 77⟩] ∧ SMap.wf s.cache.slots = true ∧ TagsDistinct s ∧
       SMap.find s.cache.slots 0 = some valid60 ∧ s.cache.pinCount 0 = 0 ∧
       0 < ({ s.cache with pins := (Quad.all []).set 1 [0] } : Cache).pinCount 0) ∧
    (∀ r ∈ eng.cache.slots, r.2.frame ≠ 60) := by decide

/-- The lost frame 60 is FILLING, with another frame's victim; VALID beside a FILLING slot whose victim it is; ORPHAN. -/
theorem test_hyp_OverwriteOfAFillingSlot :
    let fillingOver : Slot := { filling60 with victim := some ⟨0, 70, 1, [[]]⟩ }
    let lose := fun (slots : SMap Slot) (fills : SMap Fill) =>
      (withCache { Cache.reset with slots := slots, fills := fills }).setFeed 0 { fed with cacheNotices := [⟨60, 77⟩] }
    let s := lose [(0, fillingOver)] [(0, fill60)]
    let v := lose [(0, valid60), (1, { fillingOver with frame := 71, victim := some ⟨0, 60, 1, [[]]⟩ })]
      [(0, { fill60 with slot := 1 })]
    let o := lose [(0, { valid60 with state := .orphan })] []
    (s.feed 0).cacheNotices = [⟨60, 77⟩] ∧ TagsDistinct s ∧ SMap.wf s.cache.slots = true ∧
    SMap.wf s.cache.fills = true ∧ SMap.find s.cache.slots 0 = some fillingOver ∧ fillingOver.state = .filling ∧
    fillingOver.context = some 0 ∧ SMap.find s.cache.fills 0 = some fill60 ∧ fill60.slot = 0 ∧ TagsDistinct v ∧
    SMap.find v.cache.slots 0 = some valid60 ∧ SMap.wf v.cache.slots = true ∧ TagsDistinct o ∧
    SMap.find o.cache.slots 0 = some { valid60 with state := .orphan } := by decide

theorem test_hyp_LookupAnswersByTheFirstCase :
    (eng.feed 0).range = some ⟨52, 99⟩ ∧ (eng.feed 0).entry 61 = some ⟨61, .damaged .check, 1, some 0#32⟩ ∧
    (eng.feed 0).entry 60 = some ⟨60, .complete, 1, some 0#32⟩ ∧ cached.cache.tagged 0 60 = some (0, valid60) ∧
    filling.cache.tagged 0 60 = some (0, filling60) ∧ eng.cache.tagged 0 60 = none ∧
    (eng.feed 0).read 60 = .entry 120 1 0#32 ∧ (eng.cache.allocate 0 0 60 (.entry 120 1 0#32)).isSome = true ∧
    (eng.cache.allocate 0 0 60 .gone) = none ∧ eng.cache.activeFills 0 < 4 ∧
    SMap.firstFree eng.cache.fills 8 = some 0 ∧ SMap.firstFree eng.cache.slots 128 = some 0 ∧
    4 ≤ ({ Cache.reset with fills := (List.range 4).map fun i => (i, fill60) } : Cache).activeFills 0 ∧
    SMap.firstFree ((List.range 8).map fun i => (i, fill60)) 8 = none := by decide

/-- The directory read in its three answers, and a tag on an ORPHAN slot and on a FILLING slot without a fill. -/
theorem test_hyp_LookupOnStrangeSlots :
    let tagged := fun y : Slot => (withCache { Cache.reset with slots := [(0, y)] }).cache.tagged 0 60
    fed.read 60 = .entry 120 1 0#32 ∧ 120 = fed.cfg.beginAddr + (60 % fed.cfg.depth) * fed.cfg.stride ∧
    fed.read 61 = .damaged .check ∧ fed.read 62 = .gone ∧ fed.read 124 = .gone ∧
    tagged { valid60 with state := .orphan } = some (0, { valid60 with state := .orphan }) ∧
    tagged { filling60 with context := none } = some (0, { filling60 with context := none }) ∧
    filling60.state = .filling := by decide

theorem test_hyp_LookupOnAFullCache :
    let c : Cache := { Cache.reset with slots := (List.range 128).map fun i => (i, valid60), lru := [7, 9],
                                        pins := (Quad.all []).set 0 [7] }
    SMap.firstFree c.slots 128 = none ∧ c.lru.find? (fun j => c.pinCount j == 0) = some 9 ∧
    (∀ i ∈ ({ c with lru := [7] } : Cache).lru, 0 < ({ c with lru := [7] } : Cache).pinCount i) := by decide +kernel

/-- The cue wait and the damaged mark: frame 60 is RESIDENT in one state and a miss in another, frame 61 DAMAGED; a
named frame below the range, and one above it, are clamped. -/
theorem test_hyp_CueAnswers :
    (lookup 0 0 60 cached).2 = .resident ∧ (lookup 0 0 60 eng).2 = .wait ∧
    (lookup 0 0 61 eng).2 = .notAvailable .damaged ∧ 0 < (eng.chan 0).opts.preloadDepth ∧
    preloadList false ⟨60, 62⟩ 60 4 = [60, 61, 62] ∧ preloadList true ⟨60, 80⟩ 80 4 = [80, 79, 78, 77] ∧
    (max (52 : Int) (min 99 51)).toNat = 52 ∧ (max (52 : Int) (min 99 (99 - 0))).toNat = 99 := by decide

/-- The permit in its four cases; RESIDENT at the cue wait's frame; DAMAGED at the selected frame. -/
theorem test_hyp_LookupsUnderThePermit :
    let andMode := { ChanOptions.reset with fetchMode := .and }
    mayFetch (placed .cued) ∧ mayFetch { placed .slave with opts := andMode } ∧
    mayFetch { placed .cued with opts := andMode, preload := true } ∧ ¬ mayFetch { placed .cued with opts := andMode } ∧
    ¬ mayFetch (placed .idle) ∧ (lookup 0 0 60 cached).2 = .resident ∧
    ((cached.setChan 0 { placed .cued with cueWait := some ⟨0, 60⟩ }).chan 0).cueWait = some ⟨0, 60⟩ ∧
    (lookup 0 0 61 cached).2 = .notAvailable .damaged ∧
    ((cached.setChan 0 { placed .cued with selection := some ⟨0, 61, none, 0, some 3⟩ }).chan 0).selection =
      some ⟨0, 61, none, 0, some 3⟩ := by decide

/-- The fill of frame 60 owns the beat; one fragment completes it, and its CRC matches 00000000 or not. -/
theorem test_hyp_FillBeatTransfersOrFails :
    (decideBeat filling).2 = .chan 0 ∧ presentedFill filling 0 = some (0, fill60) ∧
    SMap.find filling.cache.fills 0 = some fill60 ∧ SMap.find filling.cache.slots fill60.slot = some filling60 ∧
    fill60.next + 1 = fill60.count ∧ ({ fill60 with count := 2 } : Fill).next + 1 ≠ 2 ∧
    crc32Final (crc32Feed fill60.running []) = fill60.crc ∧ crc32Final (crc32Feed fill60.running [1#8]) ≠ fill60.crc ∧
    fill60.waiters.Nodup ∧ filling.cache.errorLatch = none ∧ SMap.wf filling.cache.fills = true ∧
    SMap.wf filling.cache.slots = true ∧ fill60.retried = false ∧
    (let held : State := { filling with
       cache := { filling.cache with errorLatch := some ⟨0, 59, none, .check, false⟩ } }
     (decideBeat held).2 = .chan 0 ∧ presentedFill held 0 = some (0, fill60) ∧
       held.cache.errorLatch = some ⟨0, 59, none, .check, false⟩) := by decide

/-- The first error is recorded and raises STORE_ERROR; the second sets MORE and raises nothing. -/
theorem test_store_error_is_raised_once :
    let once := beat .store [] filling
    (once.cell 52).detail = some (.storeError 0 60 (some 0) .store) ∧ (once.cell 52).count = 1 ∧
    ((beat .store [] once).cell 52).count = 1 ∧ (beat .store [] once).cache.errorLatch =
      some ⟨0, 60, some 0, .store, true⟩ := by decide

theorem test_hyp_FetchTimeoutAgesAndAborts :
    filling.cache.ticks.get 0 ≠ .counted ∧ (∀ r ∈ cached.cache.fills, r.2.owner = 0 → r.2.age < 3) ∧
    filling.cache.fills = [(0, fill60)] ∧ fill60.owner = 0 ∧ fill60.age = 3 ∧
    SMap.find filling.cache.slots fill60.slot = some filling60 ∧ filling.cells.length = 54 := by decide

/-- CH0's fill in context 0 reaches the timeout beside a younger one of CH0 and one of CH1; then two of CH0 reach it. -/
theorem test_hyp_FetchTimeoutBesideOtherFills :
    let slots : SMap Slot := [(0, { filling60 with victim := some ⟨0, 70, 1, [[]]⟩ }),
      (1, { filling60 with frame := 71, context := some 1 }), (2, { filling60 with frame := 72, context := some 2 })]
    let with2 := fun age : Nat => withCache { Cache.reset with
      slots := slots
      fills := [(0, fill60), (1, { fill60 with slot := 1, owner := 1 }), (2, { fill60 with slot := 2, age := age, order := 1 })] }
    let s := with2 2
    s.cache.ticks.get 0 ≠ .counted ∧ SMap.wf s.cache.fills = true ∧ SMap.wf s.cache.slots = true ∧
    SMap.find s.cache.fills 0 = some fill60 ∧ fill60.owner = 0 ∧ 3 ≤ fill60.age ∧
    (∀ r ∈ s.cache.fills, r.1 ≠ 0 → r.2.owner = 0 → r.2.age < 3) ∧ (SMap.find s.cache.slots fill60.slot).isSome = true ∧
    (with2 3).cache.ticks.get 0 ≠ .counted ∧ SMap.wf (with2 3).cache.fills = true := by decide

theorem test_hyp_FillReportActsAsTheAnswer :
    let told := fun r : Option Reason =>
      withCache { Cache.reset with reports := (Quad.all []).set 0 ([⟨0, 59, none⟩] ++ ⟨0, 60, r⟩ :: []) }
    (told none).cache.reports.get 0 = [⟨0, 59, none⟩] ++ ⟨0, 60, none⟩ :: [] ∧
    (∀ q ∈ [(⟨0, 59, none⟩ : FillReport)], q.feed ≠ 0 ∨ q.frame ≠ 60) ∧
    (({ placed .cued with cueWait := some ⟨0, 60⟩ } : Channel).cueWait = some ⟨0, 60⟩) ∧
    (placed .cued).cueWait ≠ some ⟨0, 60⟩ ∧ (placed .cued).selection = some ⟨0, 60, none, 0, some 3⟩ ∧
    (told (some .damaged)).cache.reports.get 0 ≠ [] ∧ Reason.store ≠ .damaged := by decide

/-- An urgent feed; two channels that present, with levels 8 and 3. -/
def urgentFeed : State :=
  eng.setFeed 0 { inFrame with buffer := buffered 64, urgent := true }
def twoFills : State :=
  (withCache { Cache.reset with slots := [(0, filling60), (1, { filling60 with frame := 70, context := some 1 })],
                                fills := [(0, fill60), (1, { fill60 with slot := 1, owner := 1 })] }).setChan 1
    { Channel.reset with opts := { ChanOptions.reset with level := 3 } }

theorem test_hyp_BeatServesUrgentIngestThenTheLeastLevel :
    feedUrgent urgentFeed 0 = true ∧ urgentFeed.arbiter.holder = none ∧ twoFills.arbiter.holder = none ∧
    (decideBeat twoFills).2 = .chan 1 ∧ (twoFills.chan 1).opts.burst = false := by decide

/-- The holder's beat: CH0 beaten by CH1's lower level; not beaten with burst off; its own beat; idle with a feed that
waits, at seven beats and at six; idle alone. -/
theorem test_hyp_BeatOfABurstHolder :
    let hold := fun (s : State) (h : ChanId) (burst : Bool) (idle : Nat) =>
      ({ s with arbiter := { s.arbiter with holder := some h, idle := idle } } : State).setChan h
        { s.chan h with opts := { (s.chan h).opts with burst := burst, fairness := true } }
    let waits := eng.setFeed 0 { inFrame with buffer := buffered 1 }
    (let s := hold twoFills 0 true 0
     s.arbiter.holder = some 0 ∧ (s.arbiter.update s).eligible s 1 = true ∧ chanLevel s 1 < chanLevel s 0 ∧
       (s.chan 0).opts.fairness = true ∧ (decideBeat s).2 = .chan 1) ∧
    (let s := hold twoFills 1 false 0
     (∀ f, feedUrgent s f = false) ∧ (∀ d, ¬ chanLevel s d < chanLevel s 1) ∧ (s.chan 1).opts.burst = false) ∧
    (let s := hold twoFills 1 true 0
     (s.chan 1).opts.burst = true ∧ chanRequests s 1 = true ∧ (decideBeat s).2 = .chan 1) ∧
    (let s := hold waits 0 true 7
     chanRequests s 0 = false ∧ feedRequests s 0 = true ∧ (∀ f, feedUrgent s f = false) ∧ 7 ≤ s.arbiter.idle ∧
       (decideBeat s).2 = .feed 0 ∧ (decideBeat (hold waits 0 true 6)).2 = .idle) ∧
    (let s := hold eng 0 true 7
     (∀ f, feedRequests s f = false) ∧ (∀ d, (s.arbiter.update s).eligible s d = false)) := by decide

/-- Without a holder: a gap beat owed and a feed that requests; nothing requests; a gap owed that lapses. -/
theorem test_hyp_BeatWithoutAHolder :
    let waits := eng.setFeed 0 { inFrame with buffer := buffered 1 }
    let owed := fun s : State => ({ s with arbiter := { s.arbiter with gapOwed := true } } : State)
    (owed waits).arbiter.holder = none ∧ (∀ f, feedUrgent (owed waits) f = false) ∧
    (owed waits).arbiter.gapOwed = true ∧ feedRequests (owed waits) 0 = true ∧
    (∀ f, feedRequests eng f = false) ∧ (∀ d, (eng.arbiter.update eng).eligible eng d = false) ∧
    (∀ f, feedRequests (owed twoFills) f = false) ∧
    ((owed twoFills).arbiter.update (owed twoFills)).eligible (owed twoFills) 1 = true ∧
    presentedFill eng 0 = none ∧ presentedFill twoFills 0 = some (0, fill60) := by decide

theorem test_hyp_IngestBeatWritesTheFront :
    (decideBeat urgentFeed).2 = .feed 0 ∧ (urgentFeed.feed 0).presented = some ⟨98, 0, []⟩ ∧
    (urgentFeed.feed 0).buffer = ⟨98, 0, []⟩ :: buffered 63 ∧ (urgentFeed.feed 0).openFrame = some opened ∧
    (decideBeat eng).2 = .idle := by decide

/-- Frame 97's last fragment is written: 96 and 97 finish, or 97 with DROPPED marked. -/
theorem test_hyp_IngestBeatFinishesFrames :
    let s := eng.setFeed 0 pendingFeed
    (decideBeat s).2 = .feed 0 ∧ (s.feed 0).presented = some ⟨97, 0, []⟩ ∧ (s.feed 0).buffer = ⟨97, 0, []⟩ :: [] ∧
    FinishSplit pendingFeed.closing [] pendingFeed.closing [] := by
  refine ⟨by decide, by decide, by decide, ⟨rfl, by decide, ?_⟩⟩
  intro p rest hp
  cases hp

/-! ## Output ticks and panel -/

theorem test_hyp_TickFrameAndIdleTick :
    eng.cache.ticks.get 0 ≠ .presented ∧ dis.engaged = .disengaged ∧ eng.engaged = .engaged ∧ (eng.chan 0).state = .idle ∧
    (eng.chan 0).opts.idlePicture = .black ∧ (eng.chan 0).idleSel = none := by decide

/-- CH0 stands in IDLE under LIVE with idle feed `f` and idle selection 60. -/
def idleLive (f : FeedId) (sel : Option Nat) : State :=
  cached.setChan 0 { Channel.reset with
    opts := { ChanOptions.reset with idlePicture := .live, idleFeed := f }, idleSel := sel }

theorem test_hyp_IdleTickUnderLive :
    (idleLive 0 (some 60)).engaged = .engaged ∧ ((idleLive 0 (some 60)).chan 0).state = .idle ∧
    ((idleLive 0 (some 60)).chan 0).opts.idlePicture = .live ∧ (idleLive 0 (some 60)).cache.ticks.get 0 ≠ .presented ∧
    (some 60).bind (cached.cache.validSlot 0) = some 0 ∧ (some 60).bind (cached.cache.validSlot 1) = none ∧
    ((idleLive 0 none).chan 0).idleSel = none ∧ SMap.find cached.cache.slots 0 = some valid60 ∧
    (cached.feed 0).range = some ⟨52, 99⟩ ∧ (cached.feed 1).range = none := by decide

/-- The idle feed is read at the presentation: frame 60 is shown under feed 0, and is late under feed 1. -/
theorem test_idle_feed_is_read_at_the_presentation :
    ((presentIdle 0 (idleLive 0 (some 60))).chan 0).lastRec = ⟨some ⟨0, 60, none, 0, none⟩, none, false⟩ ∧
    ((presentIdle 0 (idleLive 1 (some 60))).cell 12).detail = some (.lateFrame 1 (some 60) .late) := by decide

theorem test_hyp_TickPresentsOrRepeats :
    let s := { on .playing with cache := cached.cache }
    let sel : Selection := ⟨0, 60, none, 0, some 3⟩
    s.engaged = .engaged ∧ (s.chan 0).state ≠ .idle ∧ GangsApart s ∧ (s.chan 0).selection = some sel ∧
    s.cache.validSlot 0 60 = some 0 ∧ sel.partner.bind (s.cache.validSlot 0) = none ∧
    (some 60).bind (s.cache.validSlot 0) = some 0 ∧ (on .playing).cache.validSlot 0 60 = none ∧ s.cells.length = 54 := by
  decide

/-- A selection made with blend on, presented with blend on and with blend off: off names no partner (R100). -/
theorem test_blend_off_names_no_partner :
    let shows := fun blend : Bool => ((presentActive 0 (({ on .playing with cache := cached.cache }).setChan 0
      { placed .playing with
        selection := some ⟨0, 60, some 61, 8, some 3⟩, opts := { ChanOptions.reset with blend := blend } })).chan 0).lastRec
    shows true = ⟨some ⟨0, 60, none, 0, some 3⟩, none, true⟩ ∧
    shows false = ⟨some ⟨0, 60, none, 0, some 3⟩, none, false⟩ := by decide

/-- P at the first position of frame 60 and speed 0; Q at the last allowed position, frame 80. -/
theorem test_hyp_TickMovesThePosition :
    let s := on .playing
    s.engaged = .engaged ∧ GangsApart s ∧ (s.chan 0).state ≠ .idle ∧ (s.chan 0).state ≠ .slave ∧
    (s.chan 0).material = some (.clip 3) ∧ materialWindow s (.clip 3) = some ⟨60, 80⟩ ∧
    rampSpeed 0 (s.chan 0).speed (s.chan 0).target = 0 ∧ ((60 : Nat) : Int) * 1024 ≤ (s.chan 0).pos ∧
    (((s.chan 0).pos : Nat) : Int) < ((80 : Nat) + 1) * 1024 ∧ (80 : Int) * 1024 + 1023 < (80 + 1) * 1024 := by decide

/-- A channel with no slaves, with the permit and without it. -/
theorem test_hyp_TickSendsItsLookups :
    (on .playing).gangs.get 0 = [] ∧ mayFetch ((on .playing).chan 0) ∧
    (let s := (on .playing).setChan 0 { placed .playing with opts := { ChanOptions.reset with fetchMode := .and } }
     ¬ mayFetch (s.chan 0) ∧ (s.chan 0).material = some (.clip 3) ∧ materialWindow s (.clip 3) = some ⟨60, 80⟩) := by
  decide

/-- In LIVE: on a live bound, feed material at head 99, and on a clip bound, clip 3. -/
theorem test_hyp_TickInLive :
    let s := (on .live).setChan 0 { placed .live with material := some (.feed 0) }
    (s.chan 0).state = .live ∧ materialWindow s (.feed 0) = some ⟨52, 99⟩ ∧ boundClip s (some (.feed 0)) .upper = none ∧
    tickStep s.curve (s.chan 0) 99 = 99 * 1024 ∧ (52 : Int) * 1024 ≤ 99 * 1024 ∧ (99 : Int) * 1024 < (99 + 1) * 1024 ∧
    (s.chan 0).atLive = false ∧ ({ s.chan 0 with atLive := true } : Channel).atLive = true ∧ s.cells.length = 54 ∧
    boundClip (on .live) (some (.clip 3)) .upper ≠ none := by decide

/-- A master's tick: CH1 is placed, CH2 has no playable range. -/
theorem test_hyp_TickOfAMaster :
    let s := masterAs (placed .playing)
    s.engaged = .engaged ∧ GangsApart s ∧ (s.chan 0).material = some (.clip 3) ∧
    materialWindow s (.clip 3) = some ⟨60, 80⟩ ∧ tickStep s.curve (s.chan 0) 99 = 60 * 1024 ∧
    (s.feed 0).range = some ⟨52, 99⟩ ∧ (s.feed 1).range = none ∧ windowless s (s.gangs.get 0) = [⟨2, 1, -1⟩] := by
  decide

/-- Offset 1 puts CH1 one frame on, in the window 61 to 81; CH2 is lost. -/
theorem test_tick_of_a_master_places_and_loses :
    let t := outputTick 0 (masterAs (placed .playing))
    (t.chan 1).pos = 61 * 1024 ∧ (t.chan 1).window = some ⟨61, 81⟩ ∧ (t.chan 1).slaveClamped = false ∧
    (t.chan 2).state = .idle ∧ t.gangs.get 0 = [⟨1, 0, 1⟩] ∧
    (t.cell 26).detail = some (.windowLost 1 none 16 none) := by decide

/-- An empty window: a feed without a head, an EXPIRED clip under the tail, the latter with a gang and with none. -/
theorem test_hyp_TickOfAnEmptyWindow :
    let onFeed1 := (on .playing).setChan 0 { placed .playing with material := some (.feed 1) }
    let lostClip := masterAs { placed .playing with material := some (.clip 5) }
    onFeed1.engaged = .engaged ∧ GangsApart onFeed1 ∧ (onFeed1.chan 0).state ≠ .idle ∧ (onFeed1.chan 0).state ≠ .slave ∧
    (onFeed1.chan 0).material = some (.feed 1) ∧ materialWindow onFeed1 (.feed 1) = none ∧
    onFeed1.gangs.get 0 = [] ∧ GangsApart lostClip ∧ (lostClip.chan 0).material = some (.clip 5) ∧
    materialWindow lostClip (.clip 5) = none ∧ lostClip.gangs.get 0 = [⟨1, 0, 1⟩, ⟨2, 1, -1⟩] ∧
    lostClip.cells.length = 54 := by decide

theorem test_masterAs_whole : GangsWhole (masterAs (placed .playing)) ∧ GangsWhole (masterAs (placed .cued)) :=
  ⟨⟨by decide, by decide, by decide, by decide⟩, ⟨by decide, by decide, by decide, by decide⟩⟩

theorem test_hyp_TickOfASlave :
    let s := masterAs (placed .playing)
    s.engaged = .engaged ∧ masterOf s 1 = some (0, ⟨1, 0, 1⟩) ∧ (s.chan 1).window = some ⟨60, 80⟩ := by decide

theorem test_tick_of_a_slave_selects_and_stays :
    let t := outputTick 1 (masterAs (placed .playing))
    (t.chan 1).selection = some ⟨0, 61, none, 0, none⟩ ∧ (t.chan 1).pos = 61 * 1024 ∧ (t.chan 1).state = .slave := by
  decide

def nextClip : Clip := { closedClip with endMode := .next }

/-- Clip bounds at both ends of clip 3, for STOP, LOOP and NEXT; a live bound and a tail bound of feed material. -/
theorem test_hyp_BoundStageEndsWrapsOrHolds :
    let s := on .playing
    boundClip s (some (.clip 3)) .upper = some closedClip ∧ boundClip s (some (.clip 3)) .lower = some closedClip ∧
    closedClip.endMode = .stop ∧ (s.chan 0).state = .playing ∧ (s.chan 0).material = some (.clip 3) ∧
    boundClip s (some (.feed 0)) .upper = none ∧ boundClip s (some (.clip 4)) .upper = none ∧
    ((80 : Int) + 1) * 1024 ≤ 82944 ∧ (61439 : Int) < 60 * 1024 ∧ (61439 : Int) < (80 + 1) * 1024 ∧ GangsApart s ∧
    s.cells.length = 54 ∧ s.lists.get 0 = [⟨5, none⟩] ++ ⟨3, some 512⟩ :: [] ∧
    (let s := { s with clips := SMap.put s.clips 3 nextClip }
     boundClip s (s.chan 0).material .upper = some nextClip ∧ nextClip.endMode = .next ∧
       SMap.find s.clips 3 = some nextClip ∧ nextClip.window (s.feed 0) = some ⟨60, 80⟩) ∧
    (let s := { s with clips := SMap.put s.clips 3 { closedClip with endMode := .loop } }
     boundClip s (s.chan 0).material .lower = some { closedClip with endMode := .loop }) ∧
    ((on .jog).chan 0).state ≠ .live ∧ ((on .live).chan 0).state = .live ∧ (s.chan 0).atLive = false ∧
    (s.chan 0).atTail = false := by decide

/-- Q in the window at a live bound with AT_LIVE clear and set, and at a clip bound; a list of passed entries alone; and
a chosen clip whose window is empty, since its mark-in 120 lies above the head 99. -/
theorem test_hyp_BoundStageInsideAndNextEnds :
    let live := (on .live).setChan 0 { placed .live with material := some (.feed 0) }
    (52 : Int) * 1024 ≤ 99 * 1024 ∧ (99 : Int) * 1024 < (99 + 1) * 1024 ∧ (live.chan 0).state = .live ∧
    boundClip live (live.chan 0).material .upper = none ∧ (live.chan 0).atLive = false ∧
    (∀ p ∈ [(⟨5, none⟩ : CueEntry)], ∃ y, SMap.find eng.clips p.clip = some y ∧ y.state = .expired) ∧
    (let c := Clip.create .closed 0 120 (some 130)
     SMap.find (withClip 6 c).clips 6 = some c ∧ c.state ≠ .expired ∧ (fed.tail ≤ c.markIn) ∧ c.window fed = none) ∧
    GangsApart (masterAs (placed .playing)) := by
  refine ⟨by decide, by decide, by decide, by decide, by decide, ?_, by decide, by decide⟩
  intro p hp
  simp only [List.mem_singleton] at hp
  subst hp
  exact ⟨goneClip, by decide, by decide⟩

/-- A tick that overruns the upper end: STOP keeps a window; NEXT into a clip with an empty window leaves none. -/
theorem test_hyp_TickHandsItsRawStepToTheBoundStage :
    let fast := (on .playing).setChan 0 { placed .playing with pos := 80 * 1024, target := 2048 }
    let away := { fast with
      clips := SMap.put (SMap.put fast.clips 3 nextClip) 6 (Clip.create .closed 0 120 (some 130))
      lists := (Quad.all []).set 0 [⟨6, none⟩] }
    fast.engaged = .engaged ∧ GangsApart fast ∧ materialWindow fast (.clip 3) = some ⟨60, 80⟩ ∧
    tickStep fast.curve (fast.chan 0) 99 = 82 * 1024 ∧ (80 + 1) * 1024 ≤ (82 : Int) * 1024 ∧
    ((settle 0 ⟨60, 80⟩ (82 * 1024) fast).chan 0).window = some ⟨60, 80⟩ ∧
    ((settle 0 ⟨60, 80⟩ (82 * 1024) away).chan 0).window = none := by decide

theorem test_hyp_SettledPositionLiesInTheWindow :
    let s := on .playing
    s.engaged = .engaged ∧ GangsApart s ∧ exec (.outputTick 0) s = .next (outputTick 0 s) ∧
    ((outputTick 0 s).chan 0).state ≠ .idle ∧ ((outputTick 0 s).chan 0).state ≠ .slave := by
  refine ⟨by decide, by decide, rfl, by decide, by decide⟩

theorem test_hyp_PushLinesActOnAcceptedEdges :
    State.reset.panel.markin.level = .low ∧ State.reset.panel.markin.accepted = false ∧
    (Panel.reset ⟨.low, .low, .high, .high, .high⟩).markin.level = .high ∧
    (Panel.reset ⟨.low, .low, .high, .high, .high⟩).take.level = .high ∧ State.reset.panel.takeAction = .play ∧
    (on .cued).panel.take.level = .low ∧ (on .cued).engaged = .engaged ∧
    ((on .cued).chan (on .cued).panel.bound).state ≠ .idle ∧
    ((on .cued).chan (on .cued).panel.bound).state ≠ .slave ∧ State.reset.engaged = .disengaged := by decide

/-! ## Invariants -/

/-- A step that answers, from states that meet the invariants with gangs, slots and holdings in place. -/
theorem test_hyp_EveryStepKeepsGangsAndTags :
    GangsApart ganged ∧ (allChans.flatMap fun m => (ganged.gangs.get m).map (·.ch)).Nodup ∧
    (∀ m, ganged.gangs.get m ≠ [] → masterOf ganged m = none) ∧
    (∀ ch, (ganged.chan ch).state = .slave ↔ (masterOf ganged ch).isSome = true) ∧
    (∀ m, ∀ g ∈ ganged.gangs.get m,
      (ganged.chan g.ch).material = some (.feed g.feed) ∧ (ganged.chan g.ch).cueWait = none) ∧ TagsDistinct cached ∧
    step ganged = .next ganged := by
  refine ⟨by decide, by decide, by decide, by decide, by decide, by decide, rfl⟩

theorem test_hyp_EveryStepKeepsTheBounds :
    JogBounded ganged ∧ ListsBounded ganged ∧ InputBounded ganged ∧ CellsInRange ganged ∧ PinsBounded ganged ∧
    layoutFault ganged = none ∧ SMap.wf ganged.clips = true ∧ SMap.wf (ganged.feed 0).directory = true ∧
    ConfigsInRange ganged := by
  refine ⟨by decide, by decide, by decide, by decide, by decide, by decide, by decide, by decide, ?_⟩
  intro f
  fin_cases f <;> exact ⟨by decide, by decide, by decide, by decide, by decide, by decide⟩

theorem test_hyp_EveryStepKeepsTheUseCounts :
    SMap.wf (on .playing).clips = true ∧ (on .playing).holdings 3 = 2 ∧ (on .playing).holdings 4 = 0 ∧
    UseCountsRight State.reset := by
  refine ⟨by decide, by decide, by decide, by decide, fun id => ?_⟩
  rfl

end Tests
end

section
/-!
PROOFS. The bounds of Safety.lean block by block: what each block's share of a bound is, and what the updates of one
block leave of it.
-/

-- Proofs checked in turn: side by side they need more threads than the memory limit of check.sh has room for.
set_option Elab.async false

namespace Sys2Proof

variable {α : Type}

/-! ## Tables in canonical form and what all their values keep -/

/-- A table stands in its canonical form exactly when its keys rise strictly. -/
theorem SMap.wf_iff_keys (m : SMap α) : m.wf = true ↔ (m.map Prod.fst).Pairwise (· < ·) := by
  rw [← List.isChain_iff_pairwise]
  induction m with
  | nil => simp [SMap.wf]
  | cons r t ih =>
    cases t with
    | nil => simp [SMap.wf]
    | cons q t => simpa [SMap.wf] using fun _ => ih

/-- A part of a table keeps the canonical form. -/
theorem SMap.wf_filter {m : SMap α} (h : m.wf = true) (p : Nat × α → Bool) : SMap.wf (m.filter p) = true :=
  (SMap.wf_iff_keys _).2 (((SMap.wf_iff_keys m).1 h).sublist (List.filter_sublist.map _))

/-- A change of values that keeps every key keeps the canonical form. -/
theorem SMap.wf_map {m : SMap α} (h : m.wf = true) (g : Nat × α → Nat × α) (hg : ∀ r, (g r).1 = r.1) :
    SMap.wf (m.map g) = true := by
  have hk : (m.map g).map Prod.fst = m.map Prod.fst := by simp [hg]
  exact (SMap.wf_iff_keys _).2 (hk ▸ (SMap.wf_iff_keys m).1 h)

/-- What holds of every value and of a new one holds of every value after the new one is put. -/
theorem SMap.forall_put {m : SMap α} {P : α → Prop} (h : ∀ r ∈ m, P r.2) (j : Nat) {v : α} (hv : P v) :
    ∀ r ∈ m.put j v, P r.2 := by
  induction m with
  | nil => simpa [SMap.put] using hv
  | cons q t ih =>
    obtain ⟨hq, ht⟩ := List.forall_mem_cons.1 h
    unfold SMap.put
    split
    · exact List.forall_mem_cons.2 ⟨hv, h⟩
    · split
      · exact List.forall_mem_cons.2 ⟨hv, ht⟩
      · exact List.forall_mem_cons.2 ⟨hq, ih ht⟩

theorem SMap.forall_del {m : SMap α} {P : α → Prop} (h : ∀ r ∈ m, P r.2) (j : Nat) : ∀ r ∈ m.del j, P r.2 := by
  induction m with
  | nil => exact h
  | cons q t ih =>
    obtain ⟨hq, ht⟩ := List.forall_mem_cons.1 h
    unfold SMap.del
    split
    · exact ht
    · exact List.forall_mem_cons.2 ⟨hq, ih ht⟩

theorem SMap.forall_adjust {m : SMap α} {P : α → Prop} (h : ∀ r ∈ m, P r.2) (j : Nat) {g : α → α}
    (hg : ∀ v, P v → P (g v)) : ∀ r ∈ m.adjust j g, P r.2 := by
  induction m with
  | nil => exact h
  | cons q t ih =>
    obtain ⟨hq, ht⟩ := List.forall_mem_cons.1 h
    unfold SMap.adjust
    split
    · exact List.forall_mem_cons.2 ⟨hg _ hq, ht⟩
    · exact List.forall_mem_cons.2 ⟨hq, ih ht⟩

namespace Machine

/-! ## The bounds, followed one at a time -/

/-- The bounds that every step keeps, each by itself. -/
inductive Bound where
  | speeds
  | jog
  | lists
  | input
  | cells
  | configs
  | layout
  | pins
  | tables

/-- The share of a channel in the bound `k`. -/
structure Channel.Bounded (k : Bound) (x : Channel) : Prop where
  speed : k = .speeds → inSpeedRange x.speed
  target : k = .speeds → inSpeedRange x.target
  jog : k = .jog → -2048 ≤ x.jog ∧ x.jog ≤ 2047

/-- The share of the Clip Table in the bound `k`. -/
structure ClipsBounded (k : Bound) (m : SMap Clip) : Prop where
  nominal : k = .speeds → ∀ r ∈ m, inSpeedRange r.2.nominal
  sorted : k = .tables → SMap.wf m = true

/-- The share of a cue list in the bound `k`. -/
structure ListBounded (k : Bound) (l : List CueEntry) : Prop where
  override : k = .speeds → ∀ e ∈ l, ∀ v, e.speed = some v → inSpeedRange v
  length : k = .lists → l.length ≤ 16

/-- The share of the Frame Cache in the bound `k`. -/
structure Cache.Bounded (k : Bound) (c : Cache) : Prop where
  pins : k = .pins → ∀ ch, (c.pins.get ch).length ≤ 2
  slots : k = .tables → SMap.wf c.slots = true
  fills : k = .tables → SMap.wf c.fills = true

/-- The share of what `State.ground` shows in the bound `k`. -/
structure GroundBounded (k : Bound) (s : State) : Prop where
  input : k = .input → InputBounded s
  configs : k = .configs → ConfigsInRange s
  layout : k = .layout → LayoutHeld s

/-- The bound `k` holds of a state, block by block. -/
structure Bounded (k : Bound) (s : State) : Prop where
  chan : ∀ ch, (s.chan ch).Bounded k
  clips : ClipsBounded k s.clips
  list : ∀ ch, ListBounded k (s.lists.get ch)
  cache : s.cache.Bounded k
  ground : GroundBounded k s
  curve : k = .speeds → ∀ x ∈ s.curve, inSpeedRange x
  cells : k = .cells → CellsInRange s
  directory : k = .tables → ∀ f, SMap.wf (s.feed f).directory = true
  markRefs : k = .tables → SMap.wf s.markRefs = true

/-- A bound as the claims name it. -/
def Bound.holds : Bound → State → Prop
  | .speeds => SpeedsBounded
  | .jog => JogBounded
  | .lists => ListsBounded
  | .input => InputBounded
  | .cells => CellsInRange
  | .configs => ConfigsInRange
  | .layout => LayoutHeld
  | .pins => PinsBounded
  | .tables => TablesSorted

/-- A bound holds of a state exactly when each block keeps its share. -/
theorem bounded_iff (k : Bound) (s : State) : Bounded k s ↔ k.holds s := by
  constructor
  · intro h
    cases k with
    | speeds =>
      exact ⟨fun ch => (h.chan ch).speed rfl, fun ch => (h.chan ch).target rfl, h.curve rfl, h.clips.nominal rfl,
        fun ch => (h.list ch).override rfl⟩
    | jog => exact fun ch => (h.chan ch).jog rfl
    | lists => exact fun ch => (h.list ch).length rfl
    | input => exact h.ground.input rfl
    | cells => exact h.cells rfl
    | configs => exact h.ground.configs rfl
    | layout => exact h.ground.layout rfl
    | pins => exact h.cache.pins rfl
    | tables => exact ⟨h.directory rfl, h.cache.slots rfl, h.cache.fills rfl, h.clips.sorted rfl, h.markRefs rfl⟩
  · intro h
    refine ⟨fun ch => ⟨?_, ?_, ?_⟩, ⟨?_, ?_⟩, fun ch => ⟨?_, ?_⟩, ⟨?_, ?_, ?_⟩, ⟨?_, ?_, ?_⟩, ?_, ?_, ?_, ?_⟩ <;>
      rintro rfl
    · exact h.speed ch
    · exact h.target ch
    · exact h ch
    · exact h.nominal
    · exact h.clips
    · exact h.override ch
    · exact h ch
    · exact h
    · exact h.slots
    · exact h.fills
    · exact h
    · exact h
    · exact h
    · exact h.curve
    · exact h
    · exact h.directory
    · exact h.markRefs

variable {k : Bound} {s : State}

/-! ## The shares under the updates of one block -/

theorem ClipsBounded.find {m : SMap Clip} (h : ClipsBounded k m) {id : Nat} {c : Clip} (hc : m.find id = some c)
    (hk : k = .speeds) : inSpeedRange c.nominal := h.nominal hk _ (SMap.mem_of_find hc)

theorem ClipsBounded.put {m : SMap Clip} (h : ClipsBounded k m) (id : Nat) {c : Clip}
    (hc : k = .speeds → inSpeedRange c.nominal) : ClipsBounded k (m.put id c) :=
  ⟨fun hk => SMap.forall_put (P := fun c : Clip => inSpeedRange c.nominal) (h.nominal hk) id (hc hk),
    fun hk => SMap.wf_put (h.sorted hk) id c⟩

theorem ClipsBounded.del {m : SMap Clip} (h : ClipsBounded k m) (id : Nat) : ClipsBounded k (m.del id) :=
  ⟨fun hk => SMap.forall_del (P := fun c : Clip => inSpeedRange c.nominal) (h.nominal hk) id,
    fun hk => SMap.wf_del (h.sorted hk) id⟩

theorem ClipsBounded.adjust {m : SMap Clip} (h : ClipsBounded k m) (id : Nat) {g : Clip → Clip}
    (hg : ∀ c, (g c).nominal = c.nominal) : ClipsBounded k (m.adjust id g) :=
  ⟨fun hk => SMap.forall_adjust (P := fun c : Clip => inSpeedRange c.nominal) (h.nominal hk) id
      fun c hc => by rw [hg]; exact hc,
    fun hk => SMap.wf_adjust (h.sorted hk) id g⟩

/-- A list made of entries of a bounded one, and no longer, is bounded. -/
theorem ListBounded.sublist {l l' : List CueEntry} (h : ListBounded k l) (hl : l'.Sublist l) : ListBounded k l' :=
  ⟨fun hk e he => h.override hk e (hl.subset he), fun hk => hl.length_le.trans (h.length hk)⟩

theorem ListBounded.nil : ListBounded k [] := ⟨fun _ => by simp, fun _ => by simp⟩

/-- The layout checks read STORE_SIZE and the configurations alone (R183). -/
theorem layoutFault_congr {s t : State} (hs : t.storeSize = s.storeSize)
    (hf : ∀ f, (t.feed f).cfg = (s.feed f).cfg) : layoutFault t = layoutFault s := by
  simp [layoutFault, firstPass, secondPass, hs, hf]

theorem GroundBounded.congr {t : State} (h : GroundBounded k s) (e : t.ground = s.ground) : GroundBounded k t := by
  simp only [State.ground, Prod.mk.injEq, funext_iff] at e
  obtain ⟨he, hs, hf, -, hb, -⟩ := e
  refine ⟨fun hk => ?_, fun hk f => ?_, fun hk => ?_⟩
  · simpa only [InputBounded, hb] using h.input hk
  · rw [hf f]; exact h.configs hk f
  · simpa only [LayoutHeld, he, layoutFault_congr hs hf] using h.layout hk

/-! ## The updates of one block of the state -/

namespace Bounded

theorem setChan (h : Bounded k s) (c : ChanId) {x : Channel} (hx : x.Bounded k) : Bounded k (s.setChan c x) where
  chan d := by rw [State.chan_setChan]; split <;> [exact hx; exact h.chan d]
  clips := h.clips
  list := h.list
  cache := h.cache
  ground := h.ground.congr rfl
  curve := h.curve
  cells := h.cells
  directory := h.directory
  markRefs := h.markRefs

theorem withClips (h : Bounded k s) {m : SMap Clip} (hm : ClipsBounded k m) : Bounded k { s with clips := m } where
  chan := h.chan
  clips := hm
  list := h.list
  cache := h.cache
  ground := h.ground.congr rfl
  curve := h.curve
  cells := h.cells
  directory := h.directory
  markRefs := h.markRefs

theorem withMarkRefs (h : Bounded k s) {m : SMap Nat} (hm : k = .tables → SMap.wf m = true) :
    Bounded k { s with markRefs := m } where
  chan := h.chan
  clips := h.clips
  list := h.list
  cache := h.cache
  ground := h.ground.congr rfl
  curve := h.curve
  cells := h.cells
  directory := h.directory
  markRefs := hm

theorem setList (h : Bounded k s) (c : ChanId) {l : List CueEntry} (hl : ListBounded k l) :
    Bounded k (s.setList c l) where
  chan := h.chan
  clips := h.clips
  list d := by rw [State.lists_setList, Quad.get_set]; split <;> [exact hl; exact h.list d]
  cache := h.cache
  ground := h.ground.congr rfl
  curve := h.curve
  cells := h.cells
  directory := h.directory
  markRefs := h.markRefs

theorem withCache (h : Bounded k s) {c : Cache} (hc : c.Bounded k) : Bounded k { s with cache := c } where
  chan := h.chan
  clips := h.clips
  list := h.list
  cache := hc
  ground := h.ground.congr rfl
  curve := h.curve
  cells := h.cells
  directory := h.directory
  markRefs := h.markRefs

/-- A feed that keeps its configuration, with a directory in canonical form. -/
theorem setFeed (h : Bounded k s) (f : FeedId) {x : Feed} (hc : x.cfg = (s.feed f).cfg)
    (hd : k = .tables → SMap.wf x.directory = true) : Bounded k (s.setFeed f x) where
  chan := h.chan
  clips := h.clips
  list := h.list
  cache := h.cache
  ground := h.ground.congr (ground_setFeed s f x hc)
  curve := h.curve
  cells := h.cells
  directory hk g := by rw [State.feed_setFeed]; split <;> [exact hd hk; exact h.directory hk g]
  markRefs := h.markRefs

/-- A feed that keeps its configuration and its directory. -/
theorem setFeed_sameDirectory (h : Bounded k s) (f : FeedId) {x : Feed} (hc : x.cfg = (s.feed f).cfg := by rfl)
    (hd : x.directory = (s.feed f).directory := by rfl) : Bounded k (s.setFeed f x) :=
  h.setFeed f hc fun hk => by rw [hd]; exact h.directory hk f

/-- Cells as many as before with counts in range, and a link with the input buffer as it was. -/
theorem withCells (h : Bounded k s) {cs : List Cell} {l : Link}
    (hc : k = .cells → cs.length = 54 ∧ ∀ c ∈ cs, c.count ≤ 255)
    (hl : l.inBuf = s.link.inBuf) : Bounded k { s with cells := cs, link := l } where
  chan := h.chan
  clips := h.clips
  list := h.list
  cache := h.cache
  ground := ⟨fun hk => by simpa only [InputBounded, hl] using h.ground.input hk, h.ground.configs, h.ground.layout⟩
  curve := h.curve
  cells := hc
  directory := h.directory
  markRefs := h.markRefs

/-- A link whose input buffer holds no more than 4 frames. -/
theorem withLink (h : Bounded k s) {l : Link} (hl : k = .input → l.inBuf.length ≤ 4) :
    Bounded k { s with link := l } where
  chan := h.chan
  clips := h.clips
  list := h.list
  cache := h.cache
  ground := ⟨hl, h.ground.configs, h.ground.layout⟩
  curve := h.curve
  cells := h.cells
  directory := h.directory
  markRefs := h.markRefs

/-- The blocks that take no part in the bounds. -/
theorem withFree (h : Bounded k s) (a : Arbiter) (o : StoreAccess) (g : Quad (List GangSlave)) (n : Nat) (p : Panel)
    (q : List Instr) :
    Bounded k { s with arbiter := a, storePort := o, gangs := g, defaultLen := n, panel := p, pending := q } where
  chan := h.chan
  clips := h.clips
  list := h.list
  cache := h.cache
  ground := ⟨h.ground.input, h.ground.configs, h.ground.layout⟩
  curve := h.curve
  cells := h.cells
  directory := h.directory
  markRefs := h.markRefs

theorem withGangs (h : Bounded k s) (g : Quad (List GangSlave)) : Bounded k { s with gangs := g } :=
  h.withFree s.arbiter s.storePort g s.defaultLen s.panel s.pending

theorem withPanel (h : Bounded k s) (p : Panel) : Bounded k { s with panel := p } :=
  h.withFree s.arbiter s.storePort s.gangs s.defaultLen p s.pending

/-- A feed that keeps its configuration, with one entry of its directory written. -/
theorem putEntry (h : Bounded k s) (f : FeedId) {x : Feed} {n : Nat} {e : Entry}
    (hd : x.directory = SMap.put (s.feed f).directory n e) (hc : x.cfg = (s.feed f).cfg := by rfl) :
    Bounded k (s.setFeed f x) :=
  h.setFeed f hc fun hk => by rw [hd]; exact SMap.wf_put (h.directory hk f) _ _

/-- A channel that keeps its speeds and its accumulator. -/
theorem setChan_sameSpeeds (h : Bounded k s) (c : ChanId) {x : Channel} (hs : x.speed = (s.chan c).speed := by rfl)
    (ht : x.target = (s.chan c).target := by rfl) (hj : x.jog = (s.chan c).jog := by rfl) :
    Bounded k (s.setChan c x) :=
  h.setChan c ⟨by rw [hs]; exact (h.chan c).speed, by rw [ht]; exact (h.chan c).target, by rw [hj]; exact (h.chan c).jog⟩

/-- A fold of operations that keep a bound keeps it. -/
theorem foldl {α : Type} (h : Bounded k s) (l : List α) (op : State → α → State)
    (hop : ∀ t, Bounded k t → ∀ a ∈ l, Bounded k (op t a)) : Bounded k (l.foldl op s) :=
  List.foldlRecOn l op h hop

end Bounded
end Machine
end Sys2Proof
end

section
/-!
PROOFS. The bounds through the cells, the Clip Table, ingest and the Frame Cache.
-/

-- Proofs checked in turn: side by side they need more threads than the memory limit of check.sh has room for.
set_option Elab.async false

namespace Sys2Proof.Machine

variable {k : Bound} {s : State}

namespace Bounded

/-! ## Cells, use counts and material -/

/-- A cell's count stays at 255 once there (R195). -/
theorem countUp_le (n : Nat) : countUp n ≤ 255 := by unfold countUp; split <;> omega

theorem cell_count (h : Bounded k s) (hk : k = .cells) (i : Nat) : (s.cell i).count ≤ 255 := by
  unfold State.cell
  rw [List.getD_eq_getElem?_getD]
  cases hi : s.cells[i]? with
  | none => exact Nat.zero_le _
  | some c => exact (h.cells hk).2 c (List.mem_of_getElem? hi)

/-- One cell written with a count in range, and a link with the input buffer as it was. -/
theorem setCell (h : Bounded k s) (i : Nat) {c : Cell} {l : Link} (hc : k = .cells → c.count ≤ 255)
    (hl : l.inBuf = s.link.inBuf) : Bounded k { s with cells := s.cells.set i c, link := l } :=
  h.withCells (fun hk => ⟨by simpa using (h.cells hk).1, fun d hd =>
    (List.mem_or_eq_of_mem_set hd).elim ((h.cells hk).2 d) fun e => e ▸ hc hk⟩) hl

theorem raise (h : Bounded k s) (u : Nat) (d : Detail) : Bounded k (raise u d s) :=
  h.setCell _ (fun _ => countUp_le _) (by split <;> simp)

theorem takeClip (h : Bounded k s) (id : Nat) : Bounded k (takeClip id s) :=
  h.withClips (h.clips.adjust id fun _ => rfl)

theorem releaseClip (h : Bounded k s) (id : Nat) : Bounded k (releaseClip id s) :=
  h.withClips (h.clips.adjust id fun _ => rfl)

theorem changeMaterial (h : Bounded k s) (ch : ChanId) (m : Option Material) : Bounded k (changeMaterial ch m s) := by
  have ht : Bounded k (takeMaterial m s) := by
    unfold takeMaterial; split
    · exact h.takeClip _
    · exact h
  have hr : Bounded k (releaseMaterial (s.chan ch).material (takeMaterial m s)) := by
    unfold releaseMaterial; split
    · exact ht.releaseClip _
    · exact ht
  exact hr.setChan_sameSpeeds ch

/-! ## Clips (R43 to R46) -/

theorem clearRefs (h : Bounded k s) (id : Nat) : Bounded k (clearRefs id s) :=
  h.withMarkRefs fun hk => SMap.wf_filter (h.markRefs hk) _

/-- A record written with the nominal speed of a bounded one. -/
theorem putClip (h : Bounded k s) (id : Nat) {c c' : Clip} (hc : k = .speeds → inSpeedRange c.nominal)
    (hn : c'.nominal = c.nominal := by rfl) : Bounded k { s with clips := s.clips.put id c' } :=
  h.withClips (h.clips.put id (hn ▸ hc))

theorem expireClip (h : Bounded k s) (id : Nat) {c : Clip} (hc : k = .speeds → inSpeedRange c.nominal)
    (t : Option Nat) : Bounded k (expireClip id c t s) := by
  have hp : Bounded k { s with clips := s.clips.put id { c with state := .expired } } := h.putClip id hc
  unfold Machine.expireClip
  split
  · exact (hp.clearRefs id).raise _ _
  · exact hp.raise _ _

theorem expireWhere (h : Bounded k s) (f : FeedId) (hit : Clip → Bool) (t : Option Nat) :
    Bounded k (expireWhere f hit t s) :=
  h.foldl _ _ fun u hu r hr => by
    split
    · exact hu.expireClip _ (fun hk => h.clips.nominal hk r hr) _
    · exact hu

theorem watchClips (h : Bounded k s) (f : FeedId) (t : Nat) : Bounded k (watchClips f t s) :=
  h.foldl _ _ fun u hu r hr => by
    split
    · exact (hu.putClip r.1 fun hk => h.clips.nominal hk r hr).raise _ _
    · exact hu

theorem takeTail (h : Bounded k s) (f : FeedId) (t : Nat) : Bounded k (takeTail f t s) :=
  (h.expireWhere f _ _).watchClips f t

theorem clipNotice (h : Bounded k s) (f : FeedId) : Bounded k (clipNotice f s) := by
  unfold Machine.clipNotice
  split
  · exact h
  · exact (h.setFeed_sameDirectory f).takeTail f _

/-! ## Ingest (R9 to R22) -/

theorem raiseDamage (h : Bounded k s) (f : FeedId) (n : Nat) (c : Option DamageCause) :
    Bounded k (raiseDamage f n c s) := by
  unfold Machine.raiseDamage
  split
  · exact h.raise _ _
  · exact h

theorem finishFront (h : Bounded k s) (f : FeedId) (p : ClosedFrame) : Bounded k (finishFront f p s) :=
  (h.putEntry f rfl).raiseDamage f _ _

theorem finishFrames (h : Bounded k s) (f : FeedId) : Bounded k (finishFrames f s) := by
  unfold Machine.finishFrames
  generalize (s.feed f).closing = l
  induction l generalizing s with
  | nil => exact h
  | cons p l ih =>
    unfold finishFrom
    split
    · exact h
    · exact ih (h.finishFront f p)

theorem closeFrame (h : Bounded k s) (f : FeedId) (m : Option DamageCause) : Bounded k (closeFrame f m s) := by
  unfold Machine.closeFrame
  dsimp only
  split
  · exact h
  · exact (h.setFeed_sameDirectory f).finishFrames f

theorem overtakeEntry (h : Bounded k s) (f : FeedId) (e : Option Entry) : Bounded k (overtakeEntry f e s) := by
  unfold Machine.overtakeEntry
  split
  · split
    · exact ((h.setFeed_sameDirectory f).raise _ _).finishFrames f
    · exact h
  · exact h

theorem frameStart (h : Bounded k s) (f : FeedId) : Bounded k (frameStart f s) := by
  have hc := h.closeFrame f (some .truncated)
  have hs : Bounded k (startFrame f s) :=
    ((hc.setFeed_sameDirectory f).overtakeEntry f _).putEntry f rfl
  have he : Bounded k (exhaust f s) := (hc.setFeed_sameDirectory f).raise _ _
  unfold Machine.frameStart
  dsimp only
  split
  · exact h
  · exact h
  · split <;> [exact hs; exact h]
  · split <;> [exact hs; exact he]

theorem fragment (h : Bounded k s) (f : FeedId) (d : Fragment) : Bounded k (fragment f d s) := by
  unfold Machine.fragment
  dsimp only
  split
  · exact h
  · split
    · exact h.setFeed_sameDirectory f
    · split <;> exact h.setFeed_sameDirectory f

theorem withStorePort (h : Bounded k s) (o : StoreAccess) : Bounded k { s with storePort := o } :=
  h.withFree s.arbiter o s.gangs s.defaultLen s.panel s.pending

theorem storeWrite (h : Bounded k s) (f : FeedId) (r : StoreResult) : Bounded k (storeWrite f r s) := by
  unfold Machine.storeWrite
  dsimp only
  split
  · exact h
  · exact ((h.setFeed_sameDirectory f (by cases r <;> rfl) (by cases r <;> rfl)).withStorePort _).finishFrames f

theorem damageTaken (h : Bounded k s) (f : FeedId) (n : Nat) : Bounded k (damageTaken f n s) := by
  unfold Machine.damageTaken
  dsimp only
  split
  · exact h
  · split
    · exact (h.putEntry f rfl).raise _ _
    · exact h

theorem finishTruncated (h : Bounded k s) (f : FeedId) (l : List ClosedFrame) :
    Bounded k (finishTruncated f l s) := by
  induction l generalizing s with
  | nil => exact h
  | cons p l ih => exact ih (h.finishFront f _)

theorem disengageFeed (h : Bounded k s) (f : FeedId) : Bounded k (disengageFeed f s) :=
  (((h.closeFrame f (some .truncated)).setFeed_sameDirectory f).finishTruncated f _).setFeed_sameDirectory f

end Bounded

/-! ## Frame Cache (R133 to R155) -/

namespace Cache.Bounded

variable {c : Cache}

/-- A cache that keeps the pins, the slots and the fills. -/
theorem same (h : c.Bounded k) {d : Cache} (hp : d.pins = c.pins := by rfl) (hs : d.slots = c.slots := by rfl)
    (hf : d.fills = c.fills := by rfl) : d.Bounded k :=
  ⟨by rw [hp]; exact h.pins, by rw [hs]; exact h.slots, by rw [hf]; exact h.fills⟩

/-- A cache that keeps the pins and the table of fills, with a table of slots in canonical form. -/
theorem withSlots (h : c.Bounded k) {m : SMap Slot} (hm : k = .tables → SMap.wf m = true) (l : List Nat) :
    Cache.Bounded k { c with slots := m, lru := l } := ⟨h.pins, hm, h.fills⟩

theorem putSlot (h : c.Bounded k) (i : Nat) (x : Slot) (l : List Nat) :
    Cache.Bounded k { c with slots := c.slots.put i x, lru := l } :=
  h.withSlots (fun hk => SMap.wf_put (h.slots hk) i x) l

theorem delSlot (h : c.Bounded k) (i : Nat) (l : List Nat) :
    Cache.Bounded k { c with slots := c.slots.del i, lru := l } := h.withSlots (fun hk => SMap.wf_del (h.slots hk) i) l

theorem withFills (h : c.Bounded k) {m : SMap Fill} (hm : k = .tables → SMap.wf m = true) :
    Cache.Bounded k { c with fills := m } := ⟨h.pins, h.slots, hm⟩

theorem putFill (h : c.Bounded k) (j : Nat) (z : Fill) : Cache.Bounded k { c with fills := c.fills.put j z } :=
  h.withFills fun hk => SMap.wf_put (h.fills hk) j z

theorem touch (h : c.Bounded k) (i : Nat) : (c.touch i).Bounded k := h.same

/-- A channel pins at most the selected frame and its partner (R89, R149). -/
theorem setPins (h : c.Bounded k) (ch : ChanId) {new : List Nat} (hn : new.length ≤ 2) : (c.setPins ch new).Bounded k :=
  ⟨fun hk d => by
      show ((c.pins.set ch new).get d).length ≤ 2
      rw [Quad.get_set]
      split <;> [exact hn; exact h.pins hk d],
    fun hk => SMap.wf_filter (h.slots hk) _, h.fills⟩

theorem present (h : c.Bounded k) {ch : ChanId} {f : FeedId} {n : Nat} {p : Option Nat} {r : Cache × Bool}
    (hr : c.present ch f n p = some r) : r.1.Bounded k := by
  unfold Cache.present at hr
  split at hr
  · simp at hr
  · split at hr <;> obtain rfl := Option.some.inj hr
    · exact ((h.touch _).touch _).setPins ch le_rfl
    · exact (h.touch _).setPins ch (by simp)

theorem allocate (h : c.Bounded k) {ch : ChanId} {f : FeedId} {n : Nat} {e : DirAnswer} {d : Cache}
    (hd : c.allocate ch f n e = some d) : d.Bounded k := by
  unfold Cache.allocate at hd
  split at hd
  · simp at hd
  · split at hd
    · obtain rfl := Option.some.inj hd
      exact ⟨h.pins, fun hk => SMap.wf_put (h.slots hk) _ _, fun hk => SMap.wf_put (h.fills hk) _ _⟩
    · simp at hd

theorem answer (h : c.Bounded k) (ch : ChanId) (f : FeedId) (n : Nat) (e : DirAnswer) :
    (c.answer ch f n e).1.Bounded k := by
  unfold Cache.answer
  split
  · split
    · exact h.allocate ‹_›
    · exact h
  · split
    · exact h.touch _
    · exact h.withFills fun hk => SMap.wf_adjust (h.fills hk) _ _
    · exact h

/-- A free context and the moved start orders keep the keys of the other fills (R137). -/
theorem freeContext (h : c.Bounded k) (j : Nat) (z : Fill) : (c.freeContext j z).Bounded k :=
  h.withFills fun hk => SMap.wf_map (SMap.wf_del (h.fills hk) j) _ fun r => by split <;> rfl

theorem report (h : c.Bounded k) (l : List ChanId) (r : FillReport) : (c.report l r).Bounded k := h.same

theorem abandonSlot (h : c.Bounded k) (i : Nat) (x : Slot) : (c.abandonSlot i x).Bounded k := by
  unfold Cache.abandonSlot
  split
  · exact h.delSlot i _
  · split
    · exact h.delSlot i _
    · exact h.putSlot i _ _

theorem abort (h : c.Bounded k) (j : Nat) (why : Reason) : (c.abort j why).Bounded k := by
  unfold Cache.abort
  split
  · exact h
  · split
    · exact h.freeContext j _
    · exact ((h.abandonSlot _ _).freeContext j _).report _ _

theorem complete (h : c.Bounded k) (j : Nat) (z : Fill) (x : Slot) : (c.complete j z x).Bounded k :=
  (((h.putSlot z.slot _ c.lru).touch _).freeContext j z).report _ _

theorem mismatch (h : c.Bounded k) (j : Nat) (z : Fill) (x : Slot) : (c.mismatch j z x).Bounded k := by
  have hm : Cache.Bounded k
      { c with slots := c.slots.del z.slot, damageReports := c.damageReports ++ [(x.feed, x.frame)] } :=
    (h.delSlot z.slot c.lru).same
  exact (hm.freeContext j z).report _ _

theorem ageFills (h : c.Bounded k) (ch : ChanId) : (c.ageFills ch).Bounded k :=
  h.withFills fun hk => SMap.wf_map (h.fills hk) _ fun r => by split <;> rfl

theorem dropVictims (h : c.Bounded k) (f : FeedId) (n : Nat) : (c.dropVictims f n).Bounded k :=
  h.withSlots (fun hk => SMap.wf_map (h.slots hk) _ fun r => by split <;> rfl) c.lru

theorem loseFrame (h : c.Bounded k) (f : FeedId) (n : Nat) : (c.loseFrame f n).Bounded k := by
  unfold Cache.loseFrame
  split
  · exact h
  · split
    · split
      · exact h.delSlot _ _
      · exact h.putSlot _ _ _
    · split
      · exact h.abort _ _
      · exact h
    · exact h

theorem disengage (c : Cache) : c.disengage.Bounded k :=
  ⟨fun _ ch => by simp [Cache.disengage], fun _ => rfl, fun _ => rfl⟩

end Cache.Bounded

namespace Bounded

theorem lookup (h : Bounded k s) (ch : ChanId) (f : FeedId) (n : Nat) : Bounded k (lookup ch f n s).1 := by
  unfold Machine.lookup
  dsimp only
  split
  · exact h
  · split
    · exact h
    · split
      · exact h
      · exact h.withCache (h.cache.answer ch f n _)

theorem enterError (h : Bounded k s) (f : FeedId) (n : Nat) (i : Option Nat) (why : StoreErrorCause) :
    Bounded k (enterError f n i why s) := by
  have hl : ∀ e, Bounded k { s with cache := { s.cache with errorLatch := e } } := fun e =>
    h.withCache h.cache.same
  unfold Machine.enterError
  split
  · exact hl _
  · exact (hl _).raise _ _

theorem fillAccept (h : Bounded k s) (j : Nat) (z : Fill) (x : Slot) (d : Fragment) :
    Bounded k (fillAccept j z x d s) := by
  have hc : ∀ x' z', Cache.Bounded k
      { s.cache with slots := s.cache.slots.put z.slot x', fills := s.cache.fills.put j z' } := fun x' z' =>
    ⟨h.cache.pins, (h.cache.putSlot z.slot x' s.cache.lru).slots, (h.cache.putFill j z').fills⟩
  unfold Machine.fillAccept
  dsimp only
  split
  · split
    · exact h.withCache ((hc _ _).complete j _ _)
    · exact (h.withCache ((hc _ _).mismatch j _ _)).enterError _ _ _ _
  · exact h.withCache (hc _ _)

theorem fillError (h : Bounded k s) (j : Nat) (z : Fill) (x : Slot) : Bounded k (fillError j z x s) := by
  have he := h.enterError x.feed x.frame (some z.next) .store
  unfold Machine.fillError
  dsimp only
  split
  · exact he.withCache (he.cache.putFill j _)
  · exact he.withCache (he.cache.abort j _)

theorem fillBeat (h : Bounded k s) (j : Nat) (r : StoreResult) (d : Fragment) : Bounded k (fillBeat j r d s) := by
  unfold Machine.fillBeat
  split
  · exact h
  · split
    · exact h
    · cases r with
      | ok => exact (h.withStorePort _).fillAccept j _ _ d
      | store => exact (h.withStorePort _).fillError j _ _

theorem timeOut (h : Bounded k s) (ch : ChanId) (j : Nat) : Bounded k (timeOut ch j s) := by
  have ha : Bounded k { s with cache := s.cache.abort j .timeout } := h.withCache (h.cache.abort j _)
  have hc := ha.setChan_sameSpeeds ch (x := { s.chan ch with preload := false })
  unfold Machine.timeOut
  split
  · exact h
  · dsimp only
    split
    · exact hc
    · exact hc.raise _ _

theorem countTick (h : Bounded k s) (ch : ChanId) : Bounded k (countTick ch s) :=
  (h.withCache (h.cache.ageFills ch)).foldl _ _ fun _ hu j _ => hu.timeOut ch j

theorem cacheNotice (h : Bounded k s) (f : FeedId) : Bounded k (cacheNotice f s) := by
  unfold Machine.cacheNotice
  split
  · exact h
  · exact (h.setFeed_sameDirectory f).withCache ((h.cache.dropVictims f _).loseFrame f _)

theorem damageArrives (h : Bounded k s) (f : FeedId) (n : Nat) : Bounded k (damageArrives f n s) := by
  unfold Machine.damageArrives
  split
  · exact (h.withCache h.cache.same).damageTaken f n
  · exact h

theorem beat (h : Bounded k s) (r : StoreResult) (d : Fragment) : Bounded k (beat r d s) := by
  have ha : Bounded k { s with arbiter := (decideBeat s).1 } :=
    h.withFree _ s.storePort s.gangs s.defaultLen s.panel s.pending
  unfold Machine.beat moveFragment
  dsimp only
  split
  · exact ha.withStorePort _
  · exact ha.storeWrite _ r
  · split
    · exact ha
    · exact ha.fillBeat _ r d

end Bounded
end Sys2Proof.Machine
end

section
/-!
PROOFS. The bounds through the channels, the gangs, the cue lists and the output tick.
-/

-- Proofs checked in turn: side by side they need more threads than the memory limit of check.sh has room for.
set_option Elab.async false

namespace Sys2Proof.Machine

variable {k : Bound} {s : State}

namespace Bounded

/-! ## Lookups and their answers (R80, R94, R96) -/

theorem frameReady (h : Bounded k s) (ch : ChanId) (f : FeedId) (n : Nat) : Bounded k (frameReady ch f n s) := by
  unfold Machine.frameReady
  dsimp only
  split
  · exact (h.setChan_sameSpeeds ch).raise _ _
  · exact h

theorem frameFailed (h : Bounded k s) (ch : ChanId) (f : FeedId) (n : Nat) (why : Reason) :
    Bounded k (frameFailed ch f n why s) := by
  unfold Machine.frameFailed
  dsimp only
  split
  · exact h.setChan_sameSpeeds ch
  · exact h

theorem sendLookup (h : Bounded k s) (ch : ChanId) (f : FeedId) (n : Nat) : Bounded k (sendLookup ch f n s) := by
  have hl := h.lookup ch f n
  unfold Machine.sendLookup handleAnswer
  dsimp only
  split
  · exact hl.frameReady ch f n
  · exact hl.frameFailed ch f n _
  · exact hl
  · exact hl

theorem sendLookups (h : Bounded k s) (ch : ChanId) (f : FeedId) (l : List Nat) : Bounded k (sendLookups ch f l s) :=
  h.foldl _ _ fun _ hu n _ => by
    split
    · exact hu.sendLookup ch f n
    · exact hu

theorem reportArrives (h : Bounded k s) (ch : ChanId) (f : FeedId) (n : Nat) : Bounded k (reportArrives ch f n s) := by
  unfold Machine.reportArrives
  split
  · exact h
  · dsimp only
    split
    · exact (h.withCache h.cache.same).frameReady ch f n
    · exact (h.withCache h.cache.same).frameFailed ch f n _

/-! ## Entering IDLE (R54, R87) -/

theorem releasePins (h : Bounded k s) (ch : ChanId) : Bounded k (releasePins ch s) :=
  h.withCache (h.cache.setPins ch (by simp))

theorem zero_inSpeedRange : inSpeedRange 0 := by decide

theorem nominal_inSpeedRange : inSpeedRange 1024 := by decide

theorem zero_inJogRange : -2048 ≤ (0 : Int) ∧ (0 : Int) ≤ 2047 := by decide

/-- A channel that stands, with a cleared accumulator. -/
theorem setChan_cleared (h : Bounded k s) (c : ChanId) {x : Channel} (hs : x.speed = 0 := by rfl)
    (ht : x.target = 0 := by rfl) (hj : x.jog = 0 := by rfl) : Bounded k (s.setChan c x) :=
  h.setChan c ⟨fun _ => hs ▸ zero_inSpeedRange, fun _ => ht ▸ zero_inSpeedRange, fun _ => hj ▸ zero_inJogRange⟩

/-- A channel that stands and keeps its accumulator. -/
theorem setChan_stopped (h : Bounded k s) (c : ChanId) {x : Channel} (hs : x.speed = 0 := by rfl)
    (ht : x.target = 0 := by rfl) (hj : x.jog = (s.chan c).jog := by rfl) : Bounded k (s.setChan c x) :=
  h.setChan c ⟨fun _ => hs ▸ zero_inSpeedRange, fun _ => ht ▸ zero_inSpeedRange, hj ▸ (h.chan c).jog⟩

theorem dropMaterial (h : Bounded k s) (ch : ChanId) : Bounded k (dropMaterial ch s) :=
  (h.changeMaterial ch none).setChan_cleared ch

theorem enterIdle (h : Bounded k s) (ch : ChanId) : Bounded k (enterIdle ch s) := by
  have hd := h.dropMaterial ch
  unfold Machine.enterIdle
  dsimp only
  split
  · exact (hd.releasePins ch).setChan_sameSpeeds ch
  · exact hd

theorem loseWindow (h : Bounded k s) (ch : ChanId) : Bounded k (loseWindow ch s) := (h.dropMaterial ch).raise _ _

/-! ## Gangs (R105 to R115) -/

theorem leaveGang (h : Bounded k s) (m ch : ChanId) : Bounded k (leaveGang m ch s) :=
  (h.withGangs _).setChan_sameSpeeds ch

theorem loseSlave (h : Bounded k s) (m : ChanId) (g : GangSlave) : Bounded k (loseSlave m g s) :=
  ((h.leaveGang m g.ch).enterIdle g.ch).raise _ _

theorem windowLost (h : Bounded k s) (ch : ChanId) : Bounded k (windowLost ch s) :=
  (h.loseWindow ch).foldl _ _ fun _ hu g _ => hu.loseSlave ch g

/-- A derived slave has its master's speeds (R109). -/
theorem deriveSlave (h : Bounded k s) (m : ChanId) (g : GangSlave) : Bounded k (deriveSlave m g s) := by
  unfold Machine.deriveSlave
  split
  · exact h.loseSlave m g
  · split
    · exact h
    · exact h.setChan g.ch ⟨(h.chan m).speed, (h.chan m).target, (h.chan g.ch).jog⟩

theorem derive (h : Bounded k s) (m : ChanId) : Bounded k (derive m s) :=
  h.foldl _ _ fun _ hu g _ => hu.deriveSlave m g

theorem selectSlave (h : Bounded k s) (g : GangSlave) : Bounded k (selectSlave g s) := by
  unfold Machine.selectSlave
  dsimp only
  split
  · exact h
  · exact h.setChan_sameSpeeds g.ch

theorem fetchSlave (h : Bounded k s) (how : SlaveFetch) (g : GangSlave) : Bounded k (fetchSlave how g s) := by
  unfold Machine.fetchSlave
  dsimp only
  split
  · split <;> exact h.sendLookups _ _ _
  · exact h

theorem followMaster (h : Bounded k s) (m : ChanId) (how : SlaveFetch) : Bounded k (followMaster m how s) :=
  (h.derive m).foldl _ _ fun _ hu g _ => (hu.selectSlave g).fetchSlave how g

theorem adoptAngle (h : Bounded k s) (g : GangSlave) : Bounded k (adoptAngle g s) := by
  unfold Machine.adoptAngle
  split
  · exact h
  · exact (h.changeMaterial g.ch _).setChan_sameSpeeds g.ch

theorem assignOwnAngles (h : Bounded k s) (ch : ChanId) : Bounded k (assignOwnAngles ch s) := by
  unfold Machine.assignOwnAngles
  split
  · exact h
  · unfold assignAngles
    split
    · exact h
    · exact (h.withGangs _).foldl _ _ fun _ hu g _ => hu.adoptAngle g

theorem joinGang (h : Bounded k s) (m : ChanId) (g : GangSlave) : Bounded k (joinGang m g s) := by
  have hd : Bounded k (Machine.deriveSlave m g _) :=
    ((h.changeMaterial g.ch (some (.feed g.feed))).setChan_sameSpeeds g.ch
      (x := { (Machine.changeMaterial g.ch (some (.feed g.feed)) s).chan g.ch with
        state := .slave, cueWait := none, atLive := false, atTail := false, damaged := false, idleSel := none
        })).deriveSlave m g
  unfold Machine.joinGang
  dsimp only
  split
  · exact (hd.selectSlave g).sendLookups _ _ _
  · exact hd

/-- A channel in JOG stands still and keeps the accumulator it is given. -/
theorem setChan_toJog (h : Bounded k s) (c : ChanId) (x : Channel) {j : Int}
    (hj : k = .jog → -2048 ≤ j ∧ j ≤ 2047) : Bounded k (s.setChan c (x.toJog j)) :=
  h.setChan c ⟨fun _ => zero_inSpeedRange, fun _ => zero_inSpeedRange, hj⟩

theorem ungangSlave (h : Bounded k s) (m : ChanId) (g : GangSlave) : Bounded k (ungangSlave m g s) := by
  have hl := h.leaveGang m g.ch
  unfold Machine.ungangSlave
  dsimp only
  split
  · exact hl.loseWindow g.ch
  · exact hl.setChan_stopped g.ch

/-! ## Cues and cue lists (R75 to R87, R118 to R130) -/

theorem preload (h : Bounded k s) (ch : ChanId) (f : FeedId) (w : Window) (e : Nat) (r : Bool) :
    Bounded k (preload ch f w e r s) := h.sendLookups ch f _

theorem cue (h : Bounded k s) (ch : ChanId) (f : FeedId) (w : Window) (e : Nat) (r : Bool) :
    Bounded k (cue ch f w e r s) := by
  have hc : Bounded k (s.setChan ch ((s.chan ch).cued f w e)) :=
    h.setChan_stopped ch
  exact ((hc.preload ch f w e r).assignOwnAngles ch).followMaster ch _

theorem eject (h : Bounded k s) (ch : ChanId) : Bounded k (eject ch s) := by
  unfold Machine.eject
  split
  · exact h
  · split
    · exact (h.leaveGang _ ch).enterIdle ch
    · exact h.enterIdle ch
  · exact (h.enterIdle ch).foldl _ _ fun _ hu g _ => (hu.leaveGang ch g.ch).enterIdle g.ch

theorem passAll (h : Bounded k s) (ch : ChanId) (l : List CueEntry) : Bounded k (passAll ch l s) :=
  h.foldl _ _ fun u hu e _ => by
    have hr := hu.releaseClip e.clip
    unfold passOver
    dsimp only
    split
    · exact hr
    · exact hr.raise _ _

end Bounded

/-- What the search of a cue list finds: the entries passed over, then the first that can be taken, then the rest
(R125). -/
theorem searchList_parts {l passed rest : List CueEntry} {e : CueEntry} {c : Clip}
    (h : searchList s l = (passed, some (e, c, rest))) : l = passed ++ e :: rest ∧ takeable s e = some c := by
  induction l generalizing passed with
  | nil => simp [searchList] at h
  | cons p l ih =>
    unfold searchList at h
    split at h
    · simp only [Prod.mk.injEq, Option.some.injEq] at h
      obtain ⟨rfl, rfl, rfl, rfl⟩ := h
      exact ⟨rfl, ‹_›⟩
    · simp only [Prod.mk.injEq] at h
      obtain ⟨rfl, h⟩ := h
      obtain ⟨hl, ht⟩ := ih (Prod.ext rfl h)
      exact ⟨congrArg (p :: ·) hl, ht⟩

/-- An entry that can be taken names a clip of the table (R125). -/
theorem find_of_takeable {e : CueEntry} {c : Clip} (h : takeable s e = some c) : s.clips.find e.clip = some c := by
  unfold takeable at h
  split at h
  · simp at h
  · split at h
    · simp at h
    · rw [← h]; assumption

namespace Bounded

/-- What a search of a channel's list finds is bounded: the rest of the list, and the target the entry gives (R125,
R126). -/
theorem searched (h : Bounded k s) {ch : ChanId} {passed rest : List CueEntry} {e : CueEntry} {c : Clip}
    (hs : searchList s (s.lists.get ch) = (passed, some (e, c, rest))) :
    ListBounded k rest ∧ (k = .speeds → inSpeedRange (e.target c)) := by
  obtain ⟨hl, ht⟩ := searchList_parts hs
  have hlist := h.list ch
  rw [hl] at hlist
  refine ⟨hlist.sublist ((List.sublist_cons_self e rest).trans (List.sublist_append_right passed _)), fun hk => ?_⟩
  unfold CueEntry.target
  cases hv : e.speed with
  | none => exact h.clips.find (find_of_takeable ht) hk
  | some v => exact hlist.override hk e (by simp) v hv

theorem takeEntry (h : Bounded k s) (ch : ChanId) (passed : List CueEntry) (e : CueEntry) {rest : List CueEntry}
    (hr : ListBounded k rest) : Bounded k (takeEntry ch passed e rest s) :=
  (((h.setList ch hr).passAll ch passed).changeMaterial ch _).releaseClip _

theorem advanceNext (h : Bounded k s) (ch : ChanId) (b : WindowEnd) (passed : List CueEntry) {e : CueEntry} {c : Clip}
    {rest : List CueEntry} (hr : ListBounded k rest) (ht : k = .speeds → inSpeedRange (e.target c)) :
    Bounded k (advanceNext ch b passed e c rest s) := by
  have ha := (h.takeEntry ch passed e hr).assignOwnAngles ch
  unfold Machine.advanceNext
  dsimp only
  split
  · exact ha.windowLost ch
  · exact Bounded.raise (ha.setChan ch (x := ((Machine.assignOwnAngles ch (Machine.takeEntry ch passed e rest s)).chan
      ch).advanced _ _ _) ⟨(ha.chan ch).speed, ht, (ha.chan ch).jog⟩) _ _

theorem takeCue (h : Bounded k s) (ch : ChanId) (passed : List CueEntry) (e : CueEntry) (c : Clip)
    {rest : List CueEntry} (hr : ListBounded k rest) (w : Window) : Bounded k (takeCue ch passed e c rest w s).state :=
  ((h.takeEntry ch passed e hr).raise _ _).cue ch _ _ _ _

theorem takeRunning (h : Bounded k s) (ch : ChanId) (passed : List CueEntry) {e : CueEntry} {c : Clip}
    {rest : List CueEntry} (hr : ListBounded k rest) (ht : k = .speeds → inSpeedRange (e.target c)) (w : Window) :
    Bounded k (takeRunning ch passed e c rest w s).state := by
  have ha := h.takeEntry ch passed e hr
  have hj : ∀ n, Bounded k ((Machine.takeEntry ch passed e rest s).setChan ch
      (((Machine.takeEntry ch passed e rest s).chan ch).jumped c.feed w n (e.target c))) := fun n =>
    ha.setChan ch ⟨(ha.chan ch).speed, ht, (ha.chan ch).jog⟩
  exact (((hj _).assignOwnAngles ch).preload ch _ _ _ _).raise _ _

/-! ## Arithmetic of a tick (R56 to R58) -/

/-- A sixteenth part of the way from `a` to `b`, rounded, lies between them (R56). -/
theorem between_roundSixteenth {a b : Int} (ha : inSpeedRange a) (hb : inSpeedRange b) (u : Nat) (hu : u < 16) :
    inSpeedRange (a + roundSixteenth ((b - a) * u)) := by
  obtain ⟨ha1, ha2⟩ := ha
  obtain ⟨hb1, hb2⟩ := hb
  unfold inSpeedRange roundSixteenth
  interval_cases u <;> split <;> constructor <;> push_cast at * <;> omega

theorem curve_getD (h : Bounded k s) (hk : k = .speeds) (i : Nat) : inSpeedRange (s.curve.getD i 0) := by
  rw [List.getD_eq_getElem?_getD]
  cases hi : s.curve[i]? with
  | none => decide
  | some x => exact h.curve hk x (List.mem_of_getElem? hi)

theorem curveTarget (h : Bounded k s) (hk : k = .speeds) (lever : Int) : inSpeedRange (curveTarget s.curve lever) :=
  between_roundSixteenth (h.curve_getD hk _) (h.curve_getD hk _) _ (Nat.mod_lt _ (by decide))

/-- The ramp stays between S and T_s (R57). -/
theorem rampSpeed_inRange (limit : Nat) {v t : Int} (hv : inSpeedRange v) (ht : inSpeedRange t) :
    inSpeedRange (rampSpeed limit v t) := by
  obtain ⟨hv1, hv2⟩ := hv
  obtain ⟨ht1, ht2⟩ := ht
  unfold inSpeedRange rampSpeed clampInt
  split <;> constructor <;> omega

theorem jogSum_inRange (j n : Int) : -2048 ≤ jogSum j n ∧ jogSum j n ≤ 2047 := clampInt_mem (by decide) _

theorem rawStep (h : Bounded k s) (ch : ChanId) (head : Nat) :
    (rawStep s.curve (s.chan ch) head).1.Bounded k := by
  have hc := h.chan ch
  unfold Machine.rawStep
  split
  · exact ⟨fun hk => rampSpeed_inRange _ (hc.speed hk) (hc.target hk), hc.target, fun _ => zero_inJogRange⟩
  · exact ⟨fun hk => rampSpeed_inRange _ (hc.speed hk) (h.curveTarget hk _), fun hk => h.curveTarget hk _,
      fun _ => zero_inJogRange⟩
  · exact ⟨fun _ => zero_inSpeedRange, fun _ => zero_inSpeedRange, fun _ => zero_inJogRange⟩
  · exact ⟨fun _ => nominal_inSpeedRange, fun _ => nominal_inSpeedRange, fun _ => zero_inJogRange⟩
  · exact ⟨hc.speed, hc.target, fun _ => zero_inJogRange⟩

/-! ## The bound stage (R60 to R67) -/

theorem stopEnd (h : Bounded k s) (ch : ChanId) (w : Window) (e : WindowEnd) : Bounded k (stopEnd ch w e s) :=
  (h.setChan_stopped ch).raise _ _

theorem nextEnd (h : Bounded k s) (ch : ChanId) (w : Window) (e : WindowEnd) : Bounded k (nextEnd ch w e s) := by
  unfold Machine.nextEnd
  split
  · obtain ⟨hr, ht⟩ := h.searched ‹_›
    exact h.advanceNext ch e _ hr ht
  · exact ((h.setList ch ListBounded.nil).passAll ch _).stopEnd ch w e

theorem clipBoundEnd (h : Bounded k s) (ch : ChanId) (w : Window) (e : WindowEnd) (q : Int) (m : EndMode) :
    Bounded k (clipBoundEnd ch w e q m s) := by
  have hrun : ∀ m : EndMode, Bounded k (match m with
      | .stop => Machine.stopEnd ch w e s
      | .loop => s.setChan ch { s.chan ch with pos := w.wrap q }
      | .next => Machine.nextEnd ch w e s) := fun m => by
    cases m with
    | stop => exact h.stopEnd ch w e
    | loop => exact h.setChan_sameSpeeds ch
    | next => exact h.nextEnd ch w e
  unfold Machine.clipBoundEnd
  dsimp only
  split
  · exact hrun m
  · exact hrun m
  · exact h.stopEnd ch w e
  · exact h.setChan_sameSpeeds ch

theorem setAtLive (h : Bounded k s) (ch : ChanId) (n : Nat) : Bounded k (setAtLive ch n s) := by
  have hc : Bounded k (s.setChan ch { s.chan ch with atLive := true }) := h.setChan_sameSpeeds ch
  unfold Machine.setAtLive
  dsimp only
  split
  · exact hc
  · exact hc.raise _ _

theorem setAtTail (h : Bounded k s) (ch : ChanId) (n : Nat) : Bounded k (setAtTail ch n s) := by
  have hc : Bounded k (s.setChan ch { s.chan ch with atTail := true }) := h.setChan_sameSpeeds ch
  unfold Machine.setAtTail
  dsimp only
  split
  · exact hc
  · exact hc.raise _ _

theorem settle (h : Bounded k s) (ch : ChanId) (w : Window) (q : Int) : Bounded k (settle ch w q s) := by
  have hq : Bounded k (s.setChan ch { s.chan ch with pos := q.toNat }) := h.setChan_sameSpeeds ch
  unfold Machine.settle
  split
  · unfold settleInside
    dsimp only
    split
    · exact hq.setAtLive ch _
    · exact hq
  · split
    · exact h.clipBoundEnd ch w _ q _
    · split
      · exact (h.setAtLive ch _).setChan_sameSpeeds ch
      · exact (h.setAtTail ch _).setChan_sameSpeeds ch

/-! ## The tick (R51, R89 to R99) -/

theorem sendRecord (h : Bounded k s) (ch : ChanId) (r : PresRecord) : Bounded k (sendRecord ch r s) :=
  h.setChan_sameSpeeds ch

theorem repeatLast (h : Bounded k s) (ch : ChanId) (f : FeedId) (n : Option Nat) (c : RepeatCause) :
    Bounded k (repeatLast ch f n c s) := (h.sendRecord ch _).raise _ _

theorem presentSelection (h : Bounded k s) (ch : ChanId) (x : Selection) (c : RepeatCause) :
    Bounded k (presentSelection ch x c s) := by
  unfold Machine.presentSelection
  split
  · exact (h.withCache (h.cache.present ‹_›)).sendRecord ch _
  · exact h.repeatLast ch _ _ _

theorem presentActive (h : Bounded k s) (ch : ChanId) : Bounded k (presentActive ch s) := by
  unfold Machine.presentActive
  dsimp only
  split
  · exact h.presentSelection ch _ _
  · exact h.repeatLast ch _ _ _

theorem presentIdle (h : Bounded k s) (ch : ChanId) : Bounded k (presentIdle ch s) := by
  unfold Machine.presentIdle
  dsimp only
  split
  · exact h.sendRecord ch _
  · exact (h.releasePins ch).sendRecord ch _
  · split
    · exact h.presentSelection ch _ _
    · exact h.repeatLast ch _ _ _

/-- A channel that keeps its speeds and whose accumulator is cleared (R58). -/
theorem clearJog (h : Bounded k s) (ch : ChanId) {x : Channel} (hs : x.speed = (s.chan ch).speed := by rfl)
    (ht : x.target = (s.chan ch).target := by rfl) (hj : x.jog = 0 := by rfl) : Bounded k (s.setChan ch x) :=
  h.setChan ch ⟨by rw [hs]; exact (h.chan ch).speed, by rw [ht]; exact (h.chan ch).target, fun _ => hj ▸ zero_inJogRange⟩

theorem stepIdle (h : Bounded k s) (ch : ChanId) : Bounded k (stepIdle ch s) := by
  have hj : Bounded k (s.setChan ch { s.chan ch with jog := 0 }) := h.clearJog ch
  unfold Machine.stepIdle
  dsimp only
  split
  · split
    · exact hj.setChan_sameSpeeds ch
    · exact (hj.setChan_sameSpeeds ch).sendLookup ch _ _
  · exact hj

theorem selectAndFetch (h : Bounded k s) (ch : ChanId) (w : Window) : Bounded k (selectAndFetch ch w s) :=
  ((h.setChan_sameSpeeds ch).derive ch).sendLookups ch _ _

theorem stepActive (h : Bounded k s) (ch : ChanId) : Bounded k (stepActive ch s) := by
  unfold Machine.stepActive
  split
  · exact h.windowLost ch
  · have hr := h.rawStep ch ((s.feed (feedOfChannel s ch)).head.getD 0)
    have hs := Bounded.settle (h.setChan ch (x := { (Machine.rawStep s.curve (s.chan ch)
      ((s.feed (feedOfChannel s ch)).head.getD 0)).1 with window := some ‹Window› }) ⟨hr.speed, hr.target, hr.jog⟩) ch
      ‹Window› (Machine.rawStep s.curve (s.chan ch) ((s.feed (feedOfChannel s ch)).head.getD 0)).2
    dsimp only
    split
    · exact hs
    · exact (hs.setChan_sameSpeeds ch).selectAndFetch ch _

theorem stepSlave (h : Bounded k s) (ch : ChanId) : Bounded k (stepSlave ch s) := by
  have hj : Bounded k (s.setChan ch { s.chan ch with jog := 0 }) := h.clearJog ch
  unfold Machine.stepSlave
  dsimp only
  split
  · exact hj
  · exact hj.selectAndFetch ch _

theorem presentAndStep (h : Bounded k s) (ch : ChanId) : Bounded k (presentAndStep ch s) := by
  unfold Machine.presentAndStep
  split
  · exact h.clearJog ch
  · split
    · exact (h.presentIdle ch).stepIdle ch
    · exact (h.presentActive ch).stepSlave ch
    · exact (h.presentActive ch).stepActive ch

theorem setPhase (h : Bounded k s) (ch : ChanId) (p : TickPhase) : Bounded k (s.setPhase ch p) :=
  h.withCache h.cache.same

theorem outputTick (h : Bounded k s) (ch : ChanId) : Bounded k (outputTick ch s) := by
  have hb : Bounded k (beforeTick ch s) := by
    unfold beforeTick
    split
    · exact h.setPhase ch _
    · exact h.countTick ch
    · exact h.setPhase ch _
  have hp : Bounded k (tickPanel ch (Machine.presentAndStep ch (beforeTick ch s))) := by
    unfold tickPanel
    split
    · exact (hb.presentAndStep ch).withPanel _
    · exact hb.presentAndStep ch
  exact hp

theorem tickCounted (h : Bounded k s) (ch : ChanId) : Bounded k (tickCounted ch s) := by
  unfold Machine.tickCounted
  split
  · exact (h.setPhase ch _).countTick ch
  · exact (h.setPhase ch _).countTick ch
  · exact h

end Bounded
end Sys2Proof.Machine
end

section
/-!
PROOFS. The bounds through the commands, the decoder, the link and the step; every step keeps the bounds (O57).
-/

-- Proofs checked in turn: side by side they need more threads than the memory limit of check.sh has room for.
set_option Elab.async false

namespace Sys2Proof.Machine

variable {k : Bound} {s : State}

/-! ## Numbers read from a body (R200) -/

/-- A number of `w` bytes is below 256 to the `w`. -/
theorem takeU_lt {w n : Nat} {bs rest : List Byte} (h : takeU w bs = some (n, rest)) : n < 256 ^ w := by
  induction w generalizing bs n rest with
  | zero => simp only [takeU, Option.some.injEq, Prod.mk.injEq] at h; obtain ⟨rfl, -⟩ := h; simp
  | succ w ih =>
    cases bs with
    | nil => simp [takeU] at h
    | cons b bs =>
      unfold takeU at h
      split at h
      · simp at h
      · rename_i m r hm
        simp only [Option.some.injEq, Prod.mk.injEq] at h
        obtain ⟨rfl, -⟩ := h
        have hlt := ih hm
        have hb := b.isLt
        rw [pow_succ]
        omega

theorem takeOpt_takeU_lt {w : Nat} {bs rest : List Byte} {v : Option Nat} (h : takeOpt (takeU w) bs = some (v, rest)) :
    ∀ n, v = some n → n < 256 ^ w := by
  rintro n rfl
  unfold takeOpt at h
  split at h
  · simp at h
  · split at h
    · simp at h
    · split at h
      · split at h
        · simp at h
        · rename_i m r hm
          simp only [Option.some.injEq, Prod.mk.injEq] at h
          obtain ⟨rfl, -⟩ := h
          exact takeU_lt hm
      · simp at h

/-- The addresses that a SET_FEED carries have 4 bytes (R1, R200). -/
theorem parseSetFeed_addresses {b : List Byte} {a : Nat × FeedFields} (h : parseSetFeed b = some a) :
    (∀ v, a.2.beginAddr = some v → v < 2 ^ 32) ∧ (∀ v, a.2.endAddr = some v → v < 2 ^ 32) := by
  simp only [parseSetFeed, bodyEnd, Option.bind_eq_bind, Option.bind_eq_some_iff, Prod.exists,
    Option.ite_none_right_eq_some, Option.some.injEq] at h
  obtain ⟨f, r0, -, bg, r1, hbg, en, r2, hen, d, r3, -, st, r4, -, g, r5, -, w, r6, -, -, rfl⟩ := h
  exact ⟨takeOpt_takeU_lt hbg, takeOpt_takeU_lt hen⟩

namespace Bounded

/-! ## Commands of the blocks -/

theorem replyWith (kind tag : Byte) {r : CmdResult} (h : Bounded k r.state) : Bounded k (replyWith kind tag r) :=
  h.withLink fun hk => by rw [Link.handReply_inBuf]; exact h.ground.input hk

/-- A command whose rule keeps a bound keeps it, with its checks and its reply (R191, R192). -/
theorem runCommand (h : Bounded k s) {α : Type} (kind tag : Byte) {parsed : Option α} {act : α → State → CmdResult}
    (ha : ∀ a, parsed = some a → Bounded k (act a s).state) : Bounded k (runCommand kind tag parsed act s) := by
  unfold Machine.runCommand
  refine Bounded.replyWith kind tag ?_
  split
  · exact h
  · exact ha _ rfl

theorem withEngaged (h : Bounded k s) (n : Nat) {act : ChanId → CmdResult} (ha : ∀ ch, Bounded k (act ch).state) :
    Bounded k (withEngaged n s act).state := by
  unfold Machine.withEngaged
  split
  · exact h
  · split <;> [exact h; exact ha _]

theorem withFreeChannel (h : Bounded k s) (n : Nat) {act : ChanId → CmdResult}
    (ha : ∀ ch, Bounded k (act ch).state) : Bounded k (withFreeChannel n s act).state :=
  h.withEngaged n fun ch => by split <;> [exact h; exact ha ch]

theorem withMaterial (h : Bounded k s) (n : Nat) {act : ChanId → CmdResult} (ha : ∀ ch, Bounded k (act ch).state) :
    Bounded k (withMaterial n s act).state :=
  h.withFreeChannel n fun ch => by split <;> [exact h; exact ha ch]

/-! ### Engagement (R180 to R187) -/

theorem cmdSetStore (h : Bounded k s) (size mode : Option Nat) : Bounded k (cmdSetStore size mode s).state := by
  unfold Machine.cmdSetStore
  split
  · exact h
  · split
    · exact h
    · rename_i he
      exact
        { chan := h.chan, clips := h.clips, list := h.list, cache := h.cache, curve := h.curve, cells := h.cells
          directory := h.directory, markRefs := h.markRefs
          ground := ⟨h.ground.input, h.ground.configs, fun _ e => absurd e he⟩ }

/-- The configuration that a SET_FEED writes lies in the ranges of R1. -/
theorem write_inRange {x : FeedFields} {c : FeedConfig} (hc : c.InRange)
    (hb : ∀ v, x.beginAddr = some v → v < 2 ^ 32) (he : ∀ v, x.endAddr = some v → v < 2 ^ 32) :
    (x.write c).InRange := by
  have hclamp : ∀ (v : Option Nat) (lo hi d : Nat), lo ≤ hi → lo ≤ d ∧ d ≤ hi →
      lo ≤ (v.map (clampNat lo hi)).getD d ∧ (v.map (clampNat lo hi)).getD d ≤ hi := by
    intro v lo hi d hl hd
    cases v with
    | none => exact hd
    | some n => exact clampNat_mem hl n
  have haddr : ∀ (v : Option Nat) (d : Nat), (∀ n, v = some n → n < 2 ^ 32) → d ≤ 4294967295 → v.getD d ≤ 4294967295 := by
    intro v d hv hd
    cases v with
    | none => exact hd
    | some n => exact Nat.le_of_lt_succ (hv n rfl)
  exact ⟨haddr _ _ hb hc.beginAddr, haddr _ _ he hc.endAddr, hclamp _ _ _ _ (by decide) hc.depth,
    hclamp _ _ _ _ (by decide) hc.stride, hclamp _ _ _ _ (by decide) hc.guard,
    (hclamp _ 0 65535 _ (by decide) ⟨Nat.zero_le _, hc.warn⟩).2⟩

theorem cmdSetFeed (h : Bounded k s) (n : Nat) {x : FeedFields} (hb : ∀ v, x.beginAddr = some v → v < 2 ^ 32)
    (he : ∀ v, x.endAddr = some v → v < 2 ^ 32) : Bounded k (cmdSetFeed n x s).state := by
  unfold Machine.cmdSetFeed
  split
  · exact h
  · rename_i f _
    dsimp only
    split
    · exact h
    · rename_i hoff
      split
      · exact h
      · have hw : Bounded k (s.setFeed f { s.feed f with cfg := x.write (s.feed f).cfg }) :=
          { chan := h.chan, clips := h.clips, list := h.list, cache := h.cache, curve := h.curve, cells := h.cells
            markRefs := h.markRefs
            directory := fun hk g => by
              rw [State.feed_setFeed]
              split <;> [exact h.directory hk f; exact h.directory hk g]
            ground := ⟨h.ground.input, fun hk g => by
              rw [State.feed_setFeed]
              split <;> [exact write_inRange (h.ground.configs hk f) hb he; exact h.ground.configs hk g],
              fun _ e => absurd e hoff⟩ }
        show Bounded k (handTail f _ _)
        unfold handTail
        split
        · exact hw
        · exact hw.takeTail f _

theorem engage_cfg (x : Feed) : x.engage.cfg = x.cfg := by unfold Feed.engage; split <;> rfl

theorem engageFeeds (h : Bounded k s) : Bounded k (engageFeeds s) :=
  h.foldl _ _ fun _ hu f _ => hu.setFeed_sameDirectory f (engage_cfg _) (by unfold Feed.engage; split <;> rfl)

theorem engageFeeds_ground (s : State) : (Machine.engageFeeds s).ground = s.ground :=
  foldl_keeps State.ground _ (fun u f => ground_setFeed u f _ (engage_cfg _)) _ s

/-- ENGAGE leaves DISENGAGED only when its checks pass (R183). -/
theorem cmdEngage (h : Bounded k s) : Bounded k (cmdEngage s).state := by
  unfold Machine.cmdEngage
  split
  · exact h
  · split
    · exact h
    · rename_i hl
      have hg := h.engageFeeds
      have hs := engageFeeds_ground s
      simp only [State.ground, Prod.mk.injEq, funext_iff] at hs
      obtain ⟨-, hs, hf, -⟩ := hs
      exact
        { chan := hg.chan, clips := hg.clips, list := hg.list, cache := hg.cache, curve := hg.curve, cells := hg.cells
          directory := hg.directory, markRefs := hg.markRefs
          ground := ⟨hg.ground.input, hg.ground.configs, fun _ _ => (layoutFault_congr (s := s) hs hf).trans hl⟩ }

theorem disengageChan (h : Bounded k s) (ch : ChanId) : Bounded k (disengageChan ch s) :=
  (h.changeMaterial ch none).setChan_cleared ch

/-- A part that is left DISENGAGED, with an empty Frame Cache (R185). -/
theorem withDisengaged (h : Bounded k s) (a : Arbiter) :
    Bounded k { s with cache := s.cache.disengage, arbiter := a, engaged := .disengaged } where
  chan := h.chan
  clips := h.clips
  list := h.list
  cache := Cache.Bounded.disengage _
  ground := ⟨h.ground.input, h.ground.configs, fun _ e => by cases e⟩
  curve := h.curve
  cells := h.cells
  directory := h.directory
  markRefs := h.markRefs

theorem disengageAll (h : Bounded k s) : Bounded k (disengageAll s) := by
  have hd : Bounded k (dissolveAll s) := h.withGangs _
  have hc := hd.foldl allChans (fun acc ch => Machine.disengageChan ch acc) fun _ hu ch _ => hu.disengageChan ch
  have hf := hc.foldl allFeeds (fun acc f => Machine.disengageFeed f acc) fun _ hu f _ => hu.disengageFeed f
  exact hf.withDisengaged Arbiter.reset

theorem cmdDisengage (h : Bounded k s) : Bounded k (cmdDisengage s).state := by
  unfold Machine.cmdDisengage
  dsimp only [done_state]
  split
  · exact h.disengageAll
  · exact h

/-- Every bound holds after hardware reset (R187). -/
theorem hardwareReset (l : PanelLevels) (s : State) : Bounded k (hardwareReset l s) where
  chan ch := by
    have hr : (Machine.hardwareReset l s).chan ch = Channel.reset := Quad.get_all _ _
    rw [hr]
    exact ⟨fun _ => zero_inSpeedRange, fun _ => zero_inSpeedRange, fun _ => zero_inJogRange⟩
  clips := ⟨fun _ _ hr => absurd hr List.not_mem_nil, fun _ => rfl⟩
  list ch := by
    have hr : (Machine.hardwareReset l s).lists.get ch = [] := Quad.get_all _ _
    rw [hr]
    exact ListBounded.nil
  cache := ⟨fun _ ch => by
    have hr : (Machine.hardwareReset l s).cache.pins.get ch = [] := Quad.get_all _ _
    rw [hr]
    exact Nat.zero_le _, fun _ => rfl, fun _ => rfl⟩
  ground := ⟨fun _ => Nat.zero_le _, fun _ f => by
    have hr : (Machine.hardwareReset l s).feed f = Feed.reset := Oct.get_all _ _
    rw [hr]
    exact ⟨by decide, by decide, by decide, by decide, by decide, by decide⟩, fun _ e => by cases e⟩
  curve _ := by
    show ∀ x ∈ resetCurve, inSpeedRange x
    decide
  cells _ := by
    show (List.replicate 54 Cell.clear).length = 54 ∧ ∀ c ∈ List.replicate 54 Cell.clear, c.count ≤ 255
    refine ⟨List.length_replicate, fun c hc => ?_⟩
    rw [List.eq_of_mem_replicate hc]
    exact Nat.zero_le _
  directory _ f := by
    have hr : (Machine.hardwareReset l s).feed f = Feed.reset := Oct.get_all _ _
    rw [hr]
    rfl
  markRefs _ := rfl

/-! ### Clips and marks (R29 to R42) -/

/-- The pending clip of a source stands in the table (R32). -/
theorem find_of_pendingClip {n id : Nat} {src : MarkSource} {c : Clip} (hp : pendingClip s n src = some (id, c)) :
    s.clips.find id = some c := by
  unfold pendingClip at hp
  split at hp
  · simp at hp
  · split at hp
    · simp at hp
    · simp only [Option.ite_none_right_eq_some, Option.some.injEq, Prod.mk.injEq] at hp
      obtain ⟨-, rfl, rfl⟩ := hp
      assumption

/-- A new record has the nominal speed 1024 (R24). -/
theorem create_nominal (st : ClipState) (f : FeedId) (i : Nat) (o : Option Nat) :
    k = .speeds → inSpeedRange (Clip.create st f i o).nominal := fun _ => nominal_inSpeedRange

/-- A source's reference taken out. -/
theorem delRef (h : Bounded k s) (n : Nat) : Bounded k { s with markRefs := s.markRefs.del n } :=
  h.withMarkRefs fun hk => SMap.wf_del (h.markRefs hk) n

theorem putRef (h : Bounded k s) (n id : Nat) : Bounded k { s with markRefs := s.markRefs.put n id } :=
  h.withMarkRefs fun hk => SMap.wf_put (h.markRefs hk) n id

theorem cmdMarkIn (h : Bounded k s) (n : Nat) : Bounded k (cmdMarkIn n s).state := by
  unfold Machine.cmdMarkIn
  split
  · exact h
  · split
    · unfold markInAgain
      split
      · exact h.raise _ _
      · exact (h.putClip _ (h.clips.find (find_of_pendingClip ‹_›))).raise _ _
    · unfold markInNew
      split
      · exact h.raise _ _
      · split
        · exact h.raise _ _
        · exact ((h.putClip _ (create_nominal .opened 0 0 none)).putRef n _).raise _ _

theorem cmdMarkOut (h : Bounded k s) (n : Nat) : Bounded k (cmdMarkOut n s).state := by
  unfold Machine.cmdMarkOut
  split
  · exact h
  · split
    · unfold markOutClose
      split
      · exact h.raise _ _
      · exact ((h.putClip _ (h.clips.find (find_of_pendingClip ‹_›))).delRef n).raise _ _
    · unfold markOutNew
      split
      · exact h.raise _ _
      · split
        · exact h.raise _ _
        · exact ((h.putClip _ (create_nominal .closed 0 0 none)).delRef n).raise _ _

theorem cmdMakeClip (h : Bounded k s) (n i o : Nat) : Bounded k (cmdMakeClip n i o s).state := by
  unfold Machine.cmdMakeClip
  split
  · exact h
  · split
    · exact h
    · split
      · exact h
      · exact h.putClip _ (create_nominal .closed 0 0 none)

theorem cmdTrimClip (h : Bounded k s) (id : Nat) (i o : Option Nat) : Bounded k (cmdTrimClip id i o s).state := by
  unfold Machine.cmdTrimClip
  split
  · exact h
  · split
    · exact h
    · have hc := h.clips.find ‹_›
      split
      · exact h
      · split
        · exact h
        · unfold trimClip
          dsimp only
          split
          · exact h.putClip _ hc
          · dsimp only [done_state]
            split
            · exact (h.putClip _ hc).clearRefs _
            · exact h.putClip _ hc

theorem clampSpeed_inRange (v : Int) : inSpeedRange (clampSpeed v) := clampInt_mem (by decide) v

theorem cmdSetClip (h : Bounded k s) (id : Nat) (x : ClipFields) : Bounded k (cmdSetClip id x s).state := by
  unfold Machine.cmdSetClip
  split
  · exact h
  · split
    · split
      · exact h
      · rename_i c hf
        refine h.withClips (h.clips.put id fun hk => ?_)
        show inSpeedRange ((x.nominal.map clampSpeed).getD c.nominal)
        cases x.nominal with
        | none => exact h.clips.find hf hk
        | some v => exact clampSpeed_inRange v
    · exact h

theorem cmdDeleteClip (h : Bounded k s) (id : Nat) : Bounded k (cmdDeleteClip id s).state := by
  unfold Machine.cmdDeleteClip
  split
  · exact h
  · split
    · exact h
    · split
      · exact h
      · exact (h.withClips (h.clips.del id)).clearRefs id

theorem cmdReadClip (h : Bounded k s) (id : Nat) : Bounded k (cmdReadClip id s).state := by
  unfold Machine.cmdReadClip
  split
  · exact h
  · split <;> exact h

theorem cmdListClips (h : Bounded k s) (first n : Nat) : Bounded k (cmdListClips first n s).state := by
  unfold Machine.cmdListClips
  split <;> exact h

/-! ### Feeds, notices, error latch and panel -/

theorem cmdRestartFeed (h : Bounded k s) (n : Nat) : Bounded k (cmdRestartFeed n s).state := by
  unfold Machine.cmdRestartFeed
  split
  · exact h
  · split
    · exact h
    · rename_i f _ _
      have hx : Bounded k (s.setFeed f { s.feed f with
          directory := [], nextFrame := 0, head := none, state := .off, lastCause := none }) :=
        h.setFeed f rfl fun _ => rfl
      exact hx.expireWhere f (fun _ => true) none

theorem cmdReadFeed (h : Bounded k s) (n : Nat) : Bounded k (cmdReadFeed n s).state := by
  unfold Machine.cmdReadFeed
  split <;> exact h

theorem cmdSetNotices (h : Bounded k s) (c u on : Nat) : Bounded k (cmdSetNotices c u on s).state := by
  unfold Machine.cmdSetNotices
  split
  · refine h.foldl _ _ fun v hv p _ => ?_
    have hc : ∀ e, Bounded k { v with
        cells := v.cells.set (cellIndex p.1 p.2) { v.cell (cellIndex p.1 p.2) with enable := e } } := fun e =>
      hv.setCell _ (fun hk => hv.cell_count hk _) rfl
    unfold enableCell
    dsimp only
    split
    · exact hc _
    · split
      · exact hv.setCell _ (fun hk => hv.cell_count hk _) (Link.handNotice_inBuf ..)
      · exact hc _
  · exact h

theorem cmdAckNotice (h : Bounded k s) (c u : Nat) : Bounded k (cmdAckNotice c u s).state := by
  unfold Machine.cmdAckNotice
  split
  · exact h
  · exact h.foldl _ _ fun v hv p _ => hv.setCell _ (fun _ => Nat.zero_le _) rfl

theorem cmdReadNotices (h : Bounded k s) (n : Nat) : Bounded k (cmdReadNotices n s).state := by
  unfold Machine.cmdReadNotices
  split <;> exact h

theorem cmdSetPanel (h : Bounded k s) (x : PanelFields) : Bounded k (cmdSetPanel x s).state := by
  unfold Machine.cmdSetPanel
  split
  · exact h
  · exact h.withFree s.arbiter s.storePort s.gangs _ _ s.pending

/-- All points of the curve are clamped (R55). -/
theorem cmdSetCurve (h : Bounded k s) (pts : List Int) : Bounded k (cmdSetCurve pts s).state where
  chan := h.chan
  clips := h.clips
  list := h.list
  cache := h.cache
  ground := ⟨h.ground.input, h.ground.configs, h.ground.layout⟩
  curve _ x hx := by
    obtain ⟨v, -, rfl⟩ := List.mem_map.1 (show x ∈ pts.map clampSpeed from hx)
    exact clampSpeed_inRange v
  cells := h.cells
  directory := h.directory
  markRefs := h.markRefs

/-! ### Channels and gangs (R76 to R88, R106, R115) -/

theorem cmdSetChannel (h : Bounded k s) (n : Nat) (x : ChanFields) : Bounded k (cmdSetChannel n x s).state := by
  unfold Machine.cmdSetChannel
  split
  · exact h
  · split
    · exact h
    · split
      · exact h
      · exact h.setChan_sameSpeeds _

theorem cmdReadChannel (h : Bounded k s) (n : Nat) : Bounded k (cmdReadChannel n s).state := by
  unfold Machine.cmdReadChannel
  split
  · exact h
  · dsimp only [done_state]
    split
    · exact h.withPanel _
    · exact h

theorem cmdPlay (h : Bounded k s) (n : Nat) (v : Option Int) : Bounded k (cmdPlay n v s).state :=
  h.withMaterial n fun ch => by
    refine h.setChan ch ⟨(h.chan ch).speed, fun hk => ?_, (h.chan ch).jog⟩
    cases v with
    | some v => exact clampSpeed_inRange v
    | none =>
      show inSpeedRange (nominalSpeed s (s.chan ch).material)
      unfold nominalSpeed
      split
      · rename_i c hc
        unfold materialClip at hc
        split at hc
        · exact h.clips.find hc hk
        · simp at hc
      · exact nominal_inSpeedRange

theorem cmdShuttle (h : Bounded k s) (n : Nat) (l : Int) : Bounded k (cmdShuttle n l s).state :=
  h.withMaterial n fun ch => h.setChan_sameSpeeds ch

theorem cmdStill (h : Bounded k s) (n : Nat) : Bounded k (cmdStill n s).state :=
  h.withMaterial n fun ch => h.setChan_toJog ch _ (h.chan ch).jog

theorem cmdStep (h : Bounded k s) (n : Nat) (c : Int) : Bounded k (cmdStep n c s).state :=
  h.withMaterial n fun ch => h.setChan_toJog ch _ fun _ => jogSum_inRange _ _

theorem cmdCueClip (h : Bounded k s) (n id : Nat) : Bounded k (cmdCueClip n id s).state :=
  h.withFreeChannel n fun ch => by
    split
    · exact h
    · split
      · exact h
      · split
        · exact h
        · split
          · exact h
          · exact (h.changeMaterial ch _).cue ch _ _ _ _

theorem cmdCueFeed (h : Bounded k s) (n f r v : Nat) : Bounded k (cmdCueFeed n f r v s).state :=
  h.withFreeChannel n fun ch => by
    split
    · split
      · exact h
      · exact (h.changeMaterial ch _).cue ch _ _ _ _
    · exact h

/-- A channel that goes live runs at 1024 (R86). -/
theorem goLive (h : Bounded k s) (ch : ChanId) (f : FeedId) (w : Window) : Bounded k (goLive ch f w s).state := by
  have hm := h.changeMaterial ch (some (.feed f))
  have hl : Bounded k ((Machine.changeMaterial ch (some (.feed f)) s).setChan ch
      (((Machine.changeMaterial ch (some (.feed f)) s).chan ch).goneLive f w)) :=
    hm.setChan ch ⟨fun _ => nominal_inSpeedRange, fun _ => nominal_inSpeedRange, (hm.chan ch).jog⟩
  exact (hl.sendLookups ch f _).followMaster ch _

theorem cmdGoLive (h : Bounded k s) (n : Nat) (f : Option Nat) : Bounded k (cmdGoLive n f s).state :=
  h.withFreeChannel n fun ch => by
    split
    · exact h
    · split
      · exact h
      · split
        · exact h
        · exact h.goLive ch _ _

theorem cmdEject (h : Bounded k s) (n : Nat) : Bounded k (cmdEject n s).state := h.withEngaged n fun ch => h.eject ch

theorem cmdTakeNext (h : Bounded k s) (n : Nat) : Bounded k (cmdTakeNext n s).state :=
  h.withMaterial n fun ch => by
    split
    · exact h
    · split
      · exact h
      · obtain ⟨hr, ht⟩ := h.searched ‹_›
        split
        · exact h.takeRunning ch _ hr ht _
        · exact h.takeRunning ch _ hr ht _
        · exact h.takeCue ch _ _ _ hr _

theorem cmdGang (h : Bounded k s) (n : Nat) (l : List (Nat × Nat × Int)) : Bounded k (cmdGang n l s).state := by
  unfold Machine.cmdGang
  split
  · split
    · exact h
    · split
      · exact h
      · split
        · exact h
        · split
          · exact h
          · split
            · exact h
            · split
              · exact h
              · exact (h.withGangs _).foldl _ _ fun _ hu g _ => hu.joinGang _ g
  · exact h

theorem cmdUngang (h : Bounded k s) (n : Nat) : Bounded k (cmdUngang n s).state :=
  h.withEngaged n fun ch => by
    split
    · exact h
    · exact h.foldl _ _ fun _ hu g _ => hu.ungangSlave _ g

/-! ### Cue lists (R119 to R124) -/

/-- An entry that passes the checks of R120 finds room in the list. -/
theorem insertEntry (h : Bounded k s) (ch : ChanId) (pos id : Nat) (v : Option Int) (hc : listCheck s ch id = none) :
    Bounded k (insertEntry ch pos id v s).state := by
  have hroom : (s.lists.get ch).length < 16 := by
    unfold listCheck at hc
    split at hc
    · simp at hc
    · exact Nat.lt_of_not_le ‹_›
  refine (h.setList ch ⟨fun hk e he v' hv => ?_, fun _ => ?_⟩).takeClip id
  · rcases List.eq_or_mem_of_mem_insertIdx he with rfl | he
    · cases v with
      | none => simp at hv
      | some x =>
        obtain rfl := Option.some.inj hv
        exact clampSpeed_inRange x
    · exact (h.list ch).override hk e he v' hv
  · rw [List.length_insertIdx]
    split <;> omega

theorem cmdListAppend (h : Bounded k s) (n id : Nat) (v : Option Int) : Bounded k (cmdListAppend n id v s).state := by
  unfold Machine.cmdListAppend
  split
  · exact h
  · split
    · exact h
    · split
      · exact h
      · exact h.insertEntry _ _ id v ‹_›

theorem cmdListInsert (h : Bounded k s) (n pos id : Nat) (v : Option Int) :
    Bounded k (cmdListInsert n pos id v s).state := by
  unfold Machine.cmdListInsert
  split
  · exact h
  · split
    · exact h
    · split
      · exact h
      · exact h.insertEntry _ pos id v ‹_›

theorem cmdListRemove (h : Bounded k s) (n pos : Nat) : Bounded k (cmdListRemove n pos s).state := by
  unfold Machine.cmdListRemove
  split
  · exact h
  · split
    · exact h
    · exact (h.setList _ ((h.list _).sublist (List.eraseIdx_sublist ..))).releaseClip _

theorem cmdListClear (h : Bounded k s) (n : Nat) : Bounded k (cmdListClear n s).state := by
  unfold Machine.cmdListClear
  split
  · exact h
  · exact (h.setList _ ListBounded.nil).foldl _ _ fun _ hu e _ => hu.releaseClip e.clip

theorem cmdReadList (h : Bounded k s) (n : Nat) : Bounded k (cmdReadList n s).state := by
  unfold Machine.cmdReadList
  split <;> exact h

/-! ### Panel lines (R173 to R178) -/

theorem jogLines (h : Bounded k s) (a b : Level) : Bounded k (jogLines a b s) := by
  unfold Machine.jogLines
  dsimp only
  refine Bounded.withPanel ?_ _
  split
  · exact h
  · rename_i n _
    have hj : ∀ v, Bounded k (s.setChan s.panel.bound { s.chan s.panel.bound with jog := jogSum v n }) := fun v =>
      h.setChan _ ⟨(h.chan _).speed, (h.chan _).target, fun _ => jogSum_inRange _ _⟩
    unfold Channel.takeCount
    split
    · rw [State.setChan_chan]; exact h
    · rw [State.setChan_chan]; exact h
    · exact hj _
    · split
      · exact h.setChan_toJog _ _ fun _ => jogSum_inRange _ _
      · exact hj _

theorem pushEdge (h : Bounded k s) (l : PushLine) : Bounded k (pushEdge l s) := by
  have hp : ∀ p, Bounded k { s with panel := p } := fun p => h.withPanel p
  unfold Machine.pushEdge
  dsimp only
  split
  · exact h
  · split
    · exact hp _
    · unfold edgeAction
      split
      · exact (hp _).cmdMarkIn _
      · exact (hp _).cmdMarkOut _
      · split
        · exact (hp _).cmdPlay _ _
        · exact (hp _).cmdTakeNext _

/-! ## The decoder and the link (R189 to R193) -/

theorem runUnknownKind (h : Bounded k s) (kind tag : Byte) : Bounded k (runUnknownKind kind tag s) :=
  Bounded.replyWith kind tag h

/-- Every command the decoder takes keeps every bound. -/
theorem runFrame (h : Bounded k s) (f : LinkFrame) : Bounded k (runFrame f s) := by
  unfold Machine.runFrame
  split
  · exact h.runCommand _ _ fun a _ => h.cmdSetStore _ _
  · exact h.runCommand _ _ fun a ha => h.cmdSetFeed _ (parseSetFeed_addresses ha).1 (parseSetFeed_addresses ha).2
  · exact h.runCommand _ _ fun a _ => h.cmdSetChannel _ _
  · exact h.runCommand _ _ fun a _ => h.cmdSetCurve _
  · exact h.runCommand _ _ fun a _ => h.cmdSetPanel _
  · exact h.runCommand _ _ fun a _ => h.cmdSetNotices _ _ _
  · exact h.runCommand _ _ fun a _ => h.cmdEngage
  · exact h.runCommand _ _ fun a _ => h.cmdDisengage
  · exact h.runCommand _ _ fun a _ => h.cmdRestartFeed _
  · exact h.runCommand _ _ fun a _ => h.cmdCueClip _ _
  · exact h.runCommand _ _ fun a _ => h.cmdCueFeed _ _ _ _
  · exact h.runCommand _ _ fun a _ => h.cmdPlay _ _
  · exact h.runCommand _ _ fun a _ => h.cmdShuttle _ _
  · exact h.runCommand _ _ fun a _ => h.cmdStill _
  · exact h.runCommand _ _ fun a _ => h.cmdStep _ _
  · exact h.runCommand _ _ fun a _ => h.cmdGoLive _ _
  · exact h.runCommand _ _ fun a _ => h.cmdEject _
  · exact h.runCommand _ _ fun a _ => h.cmdTakeNext _
  · exact h.runCommand _ _ fun a _ => h.cmdGang _ _
  · exact h.runCommand _ _ fun a _ => h.cmdUngang _
  · exact h.runCommand _ _ fun a _ => h.cmdMarkIn _
  · exact h.runCommand _ _ fun a _ => h.cmdMarkOut _
  · exact h.runCommand _ _ fun a _ => h.cmdMakeClip _ _ _
  · exact h.runCommand _ _ fun a _ => h.cmdTrimClip _ _ _
  · exact h.runCommand _ _ fun a _ => h.cmdSetClip _ _
  · exact h.runCommand _ _ fun a _ => h.cmdDeleteClip _
  · exact h.runCommand _ _ fun a _ => h.cmdReadClip _
  · exact h.runCommand _ _ fun a _ => h.cmdListClips _ _
  · exact h.runCommand _ _ fun a _ => h.cmdListAppend _ _ _
  · exact h.runCommand _ _ fun a _ => h.cmdListInsert _ _ _ _
  · exact h.runCommand _ _ fun a _ => h.cmdListRemove _ _
  · exact h.runCommand _ _ fun a _ => h.cmdListClear _
  · exact h.runCommand _ _ fun a _ => h.cmdReadList _
  · exact h.runCommand _ _ fun a _ => h.cmdReadChannel _
  · exact h.runCommand _ _ fun a _ => h.cmdReadFeed _
  · exact h.runCommand _ _ fun a _ => h.cmdReadNotices _
  · exact h.runCommand _ _ fun a _ => h.cmdAckNotice _ _
  · exact h.runCommand _ _ fun a _ => h
  · exact h.runCommand _ _ fun a _ => h.withCache h.cache.same
  · exact h.runUnknownKind _ _

theorem serviceDecoder (h : Bounded k s) : Bounded k (serviceDecoder s) := by
  unfold Machine.serviceDecoder
  split
  · exact h
  · rename_i f rest hb
    split
    · refine (h.withLink fun hk => ?_).runFrame f
      have hi : s.link.inBuf.length ≤ 4 := h.ground.input hk
      rw [hb, List.length_cons] at hi
      exact Nat.le_of_succ_le hi
    · exact h

/-- The input buffer takes a frame while it holds fewer than 4 (R190). -/
theorem offer (h : Bounded k s) (f : LinkFrame) : Bounded k (offer f s) := by
  unfold Machine.offer
  split
  · rename_i hl
    refine h.withLink fun _ => ?_
    rw [List.length_append]
    exact hl
  · exact h.raise _ _

theorem setRx (h : Bounded k s) (r : RxState) : Bounded k (s.setRx r) := h.withLink h.ground.input

theorem frameHolds (h : Bounded k s) (bytes : List Byte) : Bounded k (frameHolds bytes s) := by
  unfold Machine.frameHolds
  split
  · exact h.setRx _
  · split
    · exact (h.setRx _).raise _ _
    · split
      · unfold completeFrame
        dsimp only
        split
        · split
          · exact ((h.setRx _).offer _).serviceDecoder
          · exact h.setRx _
        · exact (h.setRx _).raise _ _
      · exact h.setRx _

theorem escapedByte (h : Bounded k s) (bytes : List Byte) (b : Byte) : Bounded k (escapedByte bytes b s) := by
  unfold Machine.escapedByte
  split
  · exact h.frameHolds _
  · split
    · exact h.frameHolds _
    · split <;> exact (h.setRx _).raise _ _

theorem plainByte (h : Bounded k s) (bytes : List Byte) (b : Byte) : Bounded k (plainByte bytes b s) := by
  unfold Machine.plainByte
  split
  · split
    · exact h
    · exact (h.setRx _).raise _ _
  · split
    · exact h.setRx _
    · exact h.frameHolds _

theorem receiveByte (h : Bounded k s) (b : Byte) : Bounded k (receiveByte s b) := by
  unfold Machine.receiveByte
  split
  · split
    · exact h.setRx _
    · exact h
  · exact h.escapedByte _ b
  · exact h.plainByte _ b

theorem recordSent (h : Bounded k s) : Bounded k (recordSent s) := by
  unfold Machine.recordSent
  split
  · exact h
  · exact (h.withLink fun hk => by rw [Link.begin_inBuf]; exact h.ground.input hk).serviceDecoder

end Bounded

/-! ## The step -/

/-- A host command is the arrival of its frame, with the effect of its kind; an UNKNOWN_KIND row has that of no kind
(R190, R192). -/
theorem exec_hostCommand {c : Instr} {f : LinkFrame} (hf : c.frame? = some f) (s : State) :
    exec c s = .next (arrive f (runFrame f) s) ∨ exec c s = .next (arrive f (runUnknownKind f.kind f.tag) s) := by
  cases c
  case unknownKind => cases hf; exact .inr rfl
  all_goals cases hf <;> exact .inl rfl

namespace Bounded

theorem arrive (h : Bounded k s) (f : LinkFrame) {run : State → State} (hr : Bounded k (run s)) :
    Bounded k (arrive f run s) := by
  unfold Machine.arrive
  split
  · exact hr
  · exact (h.offer f).serviceDecoder

theorem of_next {t : State} (h : Bounded k s) (e : (.next s : Host.Outcome State Fault Refusal) = .next t) :
    Bounded k t := Host.Outcome.next.inj e ▸ h

/-- Every command and every event keeps every bound. -/
theorem exec (h : Bounded k s) (c : Instr) {t : State} (ht : exec c s = .next t) : Bounded k t := by
  cases hf : c.frame? with
  | some f =>
    rcases exec_hostCommand hf s with he | he
    · exact (h.arrive f (h.runFrame f)).of_next (he.symm.trans ht)
    · exact (h.arrive f (h.runUnknownKind _ _)).of_next (he.symm.trans ht)
  | none =>
    cases c with
    | frameStartMark f => exact (h.frameStart f).of_next ht
    | fragmentArrival f d => exact (h.fragment f d).of_next ht
    | frameEndMark f => exact (h.closeFrame f none).of_next ht
    | beat r d => exact (h.beat r d).of_next ht
    | outputTick ch => exact (h.outputTick ch).of_next ht
    | fetchTimeout ch => exact (h.tickCounted ch).of_next ht
    | cacheOverwriteNotice f => exact (h.cacheNotice f).of_next ht
    | clipOverwriteNotice f => exact (h.clipNotice f).of_next ht
    | damageReport f n => exact (h.damageArrives f n).of_next ht
    | fillReport ch f n => exact (h.reportArrives ch f n).of_next ht
    | jogLineChange a b => exact (h.jogLines a b).of_next ht
    | markinEdge => exact (h.pushEdge .markin).of_next ht
    | markoutEdge => exact (h.pushEdge .markout).of_next ht
    | takeEdge => exact (h.pushEdge .take).of_next ht
    | pushLineFall l => exact (h.withPanel _).of_next ht
    | hardwareReset l => exact (Bounded.hardwareReset l s).of_next ht
    | linkFrameReceived bytes => exact (h.foldl bytes Machine.receiveByte fun _ hu b _ => hu.receiveByte b).of_next ht
    | recordSent => exact h.recordSent.of_next ht
    | _ => cases hf

theorem step (h : Bounded k s) {t : State} (ht : step s = .next t) : Bounded k t := by
  unfold Machine.step at ht
  split at ht
  · exact h.of_next ht
  · exact (h.withFree s.arbiter s.storePort s.gangs s.defaultLen s.panel _).exec _ ht

end Bounded

/-- Settles O57: each bound, followed by itself through every operation of the model, is kept by the step. -/
theorem everyStepKeepsTheBounds : Obligations.EveryStepKeepsTheBounds := by
  intro s t ht
  have key : ∀ k : Bound, k.holds s → k.holds t := fun k h =>
    (bounded_iff k t).1 (((bounded_iff k s).2 h).step ht)
  exact ⟨key .speeds, key .jog, key .lists, key .input, key .cells, key .configs, key .layout, key .pins, key .tables⟩

end Sys2Proof.Machine
end

section
/-!
PROOFS. Ingest (R9 to R20): notices raised in turn, the finishing of closed frames, and the settled statements about
frame ends (O41), fragments (O40) and damage reports (O42).
-/

-- Proofs checked in turn: side by side they need more threads than the memory limit of check.sh has room for.
set_option Elab.async false

namespace Sys2Proof.Machine

variable {s : State}

/-! ## Notices raised in turn (R195) -/

/-- Some events raised in turn, each for a unit. -/
def tell (l : List (Nat × Detail)) (s : State) : State := l.foldl (fun acc p => raise p.1 p.2 acc) s

theorem tell_append (l l' : List (Nat × Detail)) (s : State) : tell (l ++ l') s = tell l' (tell l s) :=
  List.foldl_append

/-- What a notice does depends on the cells and the link alone. -/
theorem raise_congr {s t : State} (hc : t.cells = s.cells) (hl : t.link = s.link) (u : Nat) (d : Detail) :
    (raise u d t).cells = (raise u d s).cells ∧ (raise u d t).link = (raise u d s).link := by
  simp [raise, State.cell, hc, hl]

theorem tell_congr {s t : State} (hc : t.cells = s.cells) (hl : t.link = s.link) (l : List (Nat × Detail)) :
    (tell l t).cells = (tell l s).cells ∧ (tell l t).link = (tell l s).link := by
  induction l generalizing s t with
  | nil => exact ⟨hc, hl⟩
  | cons p l ih =>
    obtain ⟨hc, hl⟩ := raise_congr hc hl p.1 p.2
    exact ih hc hl

theorem tell_eq (l : List (Nat × Detail)) (s : State) :
    tell l s = { s with cells := (tell l s).cells, link := (tell l s).link } := by
  induction l generalizing s with
  | nil => rfl
  | cons p l ih => exact ih (raise p.1 p.2 s)

/-- Notices reach the cells and the link alone, and they read nothing else. -/
theorem tell_of_eq {s t : State} (hc : t.cells = s.cells) (hl : t.link = s.link) (l : List (Nat × Detail)) :
    tell l t = { t with cells := (tell l s).cells, link := (tell l s).link } := by
  rw [tell_eq, (tell_congr hc hl l).1, (tell_congr hc hl l).2]

theorem tell_setFeed (l : List (Nat × Detail)) (s : State) (f : FeedId) (x : Feed) :
    tell l (s.setFeed f x) = (tell l s).setFeed f x := by
  rw [tell_of_eq (State.cells_setFeed s f x) (State.link_setFeed s f x), tell_eq l s]
  rfl

@[simp] theorem tell_feed (l : List (Nat × Detail)) (s : State) (f : FeedId) : (tell l s).feed f = s.feed f := by
  rw [tell_eq]; rfl

@[simp] theorem tell_cells_length (l : List (Nat × Detail)) (s : State) : (tell l s).cells.length = s.cells.length := by
  induction l generalizing s with
  | nil => rfl
  | cons p l ih => exact (ih _).trans (raise_cells_length ..)

/-- INGEST_DAMAGE of a closed frame, if it finished DAMAGED (R17). -/
def damageNotice (f : FeedId) (p : ClosedFrame) : List (Nat × Detail) :=
  p.finalCause.toList.map fun c => (f.val, .ingestDamage p.number c)

theorem raiseDamage_eq_tell (f : FeedId) (p : ClosedFrame) (s : State) :
    raiseDamage f p.number p.finalCause s = tell (damageNotice f p) s := by
  unfold raiseDamage damageNotice
  cases p.finalCause <;> rfl

theorem raiseFinished_eq_tell (f : FeedId) (done : List ClosedFrame) (s : State) :
    raiseFinished f done s = tell (done.flatMap (damageNotice f)) s := by
  induction done generalizing s with
  | nil => rfl
  | cons p l ih => rw [raiseFinished_cons, ih, raiseDamage_eq_tell, List.flatMap_cons, tell_append]

theorem raiseFinished_of_eq {s t : State} (hc : t.cells = s.cells) (hl : t.link = s.link) (f : FeedId)
    (done : List ClosedFrame) : raiseFinished f done t =
      { t with cells := (raiseFinished f done s).cells, link := (raiseFinished f done s).link } := by
  simp only [raiseFinished_eq_tell]
  exact tell_of_eq hc hl _

theorem raiseFinished_setFeed (f : FeedId) (done : List ClosedFrame) (s : State) (x : Feed) :
    (raiseFinished f done s).setFeed f x = raiseFinished f done (s.setFeed f x) := by
  simp only [raiseFinished_eq_tell, tell_setFeed]

@[simp] theorem raiseFinished_feed (f g : FeedId) (done : List ClosedFrame) (s : State) :
    (raiseFinished f done s).feed g = s.feed g := by simp [raiseFinished_eq_tell]

/-! ## The pending list (R17) -/

/-- A pending list always splits into the frames that finish and those that wait. -/
theorem exists_finishSplit (l : List ClosedFrame) (b : List BufFragment) : ∃ done left, FinishSplit l b done left := by
  induction l with
  | nil => exact ⟨[], [], rfl, by simp, by simp⟩
  | cons p l ih =>
    by_cases hp : ∃ g ∈ b, g.frame = p.number
    · refine ⟨[], p :: l, rfl, by simp, ?_⟩
      rintro q rest hq
      obtain ⟨rfl, -⟩ := List.cons_eq_cons.1 hq
      exact hp
    · obtain ⟨done, left, h⟩ := ih
      refine ⟨p :: done, left, congrArg (p :: ·) h.parts, ?_, h.waits⟩
      exact List.forall_mem_cons.2 ⟨fun g hg e => hp ⟨g, hg, e⟩, h.written⟩

/-- What finishing never changes of a feed: its configuration, its state, N and the notices on their way. -/
def Feed.course (x : Feed) : FeedConfig × FeedState × Nat × List OverwriteNotice × List OverwriteNotice :=
  (x.cfg, x.state, x.nextFrame, x.cacheNotices, x.clipNotices)

/-- From `s` to `t` only feed `f`, the cells (not their number) and the link have changed. -/
structure Ingested (f : FeedId) (s t : State) : Prop where
  whole : ∃ fs cs l, t = { s with feeds := fs, cells := cs, link := l }
  others : ∀ g, g ≠ f → t.feed g = s.feed g
  length : t.cells.length = s.cells.length

namespace Ingested

variable {f : FeedId} {t u : State}

theorem refl (f : FeedId) (s : State) : Ingested f s s := ⟨⟨s.feeds, s.cells, s.link, rfl⟩, fun _ _ => rfl, rfl⟩

theorem trans (h : Ingested f s t) (h' : Ingested f t u) : Ingested f s u := by
  obtain ⟨⟨_, _, _, rfl⟩, ho, hl⟩ := h
  obtain ⟨⟨fs, cs, l, rfl⟩, ho', hl'⟩ := h'
  exact ⟨⟨fs, cs, l, rfl⟩, fun g hg => (ho' g hg).trans (ho g hg), hl'.trans hl⟩

theorem eq (h : Ingested f s t) : t = { s with feeds := t.feeds, cells := t.cells, link := t.link } := by
  obtain ⟨⟨_, _, _, rfl⟩, -, -⟩ := h
  rfl

theorem setFeed (h : Ingested f s t) (x : Feed) : Ingested f s (t.setFeed f x) :=
  h.trans ⟨⟨_, _, _, rfl⟩, fun g hg => by rw [State.feed_setFeed, if_neg hg], rfl⟩

theorem tell (h : Ingested f s t) (l : List (Nat × Detail)) : Ingested f s (tell l t) :=
  h.trans ⟨⟨_, _, _, tell_eq l t⟩, fun g _ => tell_feed l t g, tell_cells_length l t⟩

theorem raise (h : Ingested f s t) (u : Nat) (d : Detail) : Ingested f s (raise u d t) := h.tell [(u, d)]

theorem finishFrames (h : Ingested f s t) : Ingested f s (finishFrames f t) := by
  obtain ⟨done, left, hs⟩ := exists_finishSplit (t.feed f).closing (t.feed f).buffer
  rw [finishFrames_eq f t done left hs, raiseFinished_eq_tell]
  exact (h.setFeed _).tell _

theorem closeFrame (h : Ingested f s t) (m : Option DamageCause) : Ingested f s (closeFrame f m t) := by
  unfold Machine.closeFrame
  dsimp only
  split
  · exact h
  · exact (h.setFeed _).finishFrames

theorem overtakeEntry (h : Ingested f s t) (e : Option Entry) : Ingested f s (overtakeEntry f e t) := by
  unfold Machine.overtakeEntry
  split
  · split
    · exact ((h.setFeed _).raise _ _).finishFrames
    · exact h
  · exact h

end Ingested

theorem finishFrames_course (f : FeedId) (s : State) :
    ((finishFrames f s).feed f).course = (s.feed f).course ∧
      ((finishFrames f s).feed f).openFrame = (s.feed f).openFrame := by
  obtain ⟨done, left, hs⟩ := exists_finishSplit (s.feed f).closing (s.feed f).buffer
  rw [finishFrames_eq f s done left hs, raiseFinished_feed, State.feed_setFeed, if_pos rfl]
  exact ⟨rfl, rfl⟩

/-! ## Frame ends (R10, O41) -/

theorem firstCause_eq (pending : Option DamageCause) (c : DamageCause) :
    firstCause pending c = some (pending.getD c) := by cases pending <;> rfl

/-- The open frame as it enters the pending list, after a cause is marked on it (R10). -/
def OpenFrame.closedWith (o : OpenFrame) (mark : Option DamageCause) (stride : Nat) : ClosedFrame :=
  { number := o.number, count := min o.arrivals stride, crc := crc32Final o.crc,
    cause := match mark with
      | some c => some (o.cause.getD c)
      | none => o.cause }

theorem closeFrame_none {f : FeedId} (h : (s.feed f).openFrame = none) (m : Option DamageCause) :
    closeFrame f m s = s := by simp [closeFrame, h]

/-- A close is the check for finishing once the open frame stands at the end of the pending list. -/
theorem closeFrame_some {f : FeedId} {o : OpenFrame} (h : (s.feed f).openFrame = some o) (m : Option DamageCause) :
    closeFrame f m s = finishFrames f (s.setFeed f { s.feed f with
      openFrame := none, closing := (s.feed f).closing ++ [o.closedWith m (s.feed f).cfg.stride] }) := by
  cases m <;> simp only [closeFrame, h, OpenFrame.close, OpenFrame.closedWith, firstCause_eq]

/-- A close finishes the frames at the front of the list whose fragments are all written. -/
theorem closeFrame_finishes {f : FeedId} {o : OpenFrame} (h : (s.feed f).openFrame = some o)
    (m : Option DamageCause) {done left : List ClosedFrame}
    (hs : FinishSplit ((s.feed f).closing ++ [o.closedWith m (s.feed f).cfg.stride]) (s.feed f).buffer done left) :
    closeFrame f m s =
      raiseFinished f done (s.setFeed f { (s.feed f).afterFinish done left with openFrame := none }) := by
  rw [closeFrame_some h, finishFrames_eq f _ done left (by simpa using hs), State.setFeed_setFeed, State.feed_setFeed,
    if_pos rfl]
  rfl

theorem closeFrame_course (f : FeedId) (m : Option DamageCause) (s : State) :
    ((closeFrame f m s).feed f).course = (s.feed f).course ∧ ((closeFrame f m s).feed f).openFrame = none := by
  cases h : (s.feed f).openFrame with
  | none => rw [closeFrame_none h]; exact ⟨rfl, h⟩
  | some o =>
    obtain ⟨hc, ho⟩ := finishFrames_course f (s.setFeed f { s.feed f with
      openFrame := none, closing := (s.feed f).closing ++ [o.closedWith m (s.feed f).cfg.stride] })
    rw [closeFrame_some h, hc, ho, State.feed_setFeed, if_pos rfl]
    exact ⟨rfl, rfl⟩

/-- Settles O41: the three cases are one close, with the split of the pending list that each gives. -/
theorem frameEndClosesTheFrame : Obligations.FrameEndClosesTheFrame := by
  intro s f x
  refine ⟨fun ho => congrArg Host.Outcome.next (closeFrame_none ho none), ?_, fun p => ⟨rfl, rfl⟩⟩
  intro o ho p cause ended entry done
  have hclose : ∀ done left, FinishSplit (x.closing ++ [p]) x.buffer done left → exec (.frameEndMark f) s =
      .next (raiseFinished f done (s.setFeed f { x.afterFinish done left with openFrame := none })) :=
    fun done left hs => congrArg Host.Outcome.next (closeFrame_finishes ho none hs)
  refine ⟨fun hnil hbuf => ?_, fun hwait => ?_, hclose⟩
  · have hs : FinishSplit (x.closing ++ [p]) x.buffer [p] [] :=
      ⟨by rw [hnil]; rfl, by simpa using hbuf, by simp⟩
    rw [hclose [p] [] hs]
    have hcause : p.finalCause = cause := rfl
    have hdone : ∀ l, l = [] → { x.afterFinish [p] [] with openFrame := none } =
        { x with openFrame := none, head := some o.number, lastCause := cause, closing := l,
                 directory := SMap.put x.directory (o.number % x.cfg.depth) entry } := by
      rintro _ rfl
      rfl
    rw [hdone x.closing hnil]
    show Host.Outcome.next (raiseDamage f p.number p.finalCause done) = _
    rw [hcause]
    unfold raiseDamage
    cases cause <;> rfl
  · have hs : FinishSplit (x.closing ++ [p]) x.buffer [] (x.closing ++ [p]) :=
      ⟨rfl, by simp, fun q rest hq => by
        obtain ⟨q', rest', hq', hg⟩ := hwait
        obtain ⟨rfl, -⟩ := List.cons_eq_cons.1 (hq'.symm.trans hq)
        exact hg⟩
    exact hclose [] _ hs

/-! ## Fragments (R9, O40) -/

section Fragment

variable {f : FeedId} {o : OpenFrame} (d : Fragment) (ho : (s.feed f).openFrame = some o)

include ho

theorem fragment_oversize (h : (s.feed f).cfg.stride ≤ o.arrivals) : fragment f d s = s.setFeed f { s.feed f with
    openFrame := some { o with arrivals := o.arrivals + 1, cause := some (o.cause.getD .oversize) } } := by
  simp only [fragment, ho, if_pos h, firstCause_eq]

theorem fragment_dropped (h : o.arrivals < (s.feed f).cfg.stride) (hb : 96 ≤ (s.feed f).buffer.length) :
    fragment f d s = s.setFeed f { s.feed f with
      openFrame := some { o with arrivals := o.arrivals + 1, cause := some (o.cause.getD .dropped) } } := by
  simp only [fragment, ho, if_neg (Nat.not_le_of_lt h), Config.ingestBuffer, if_pos hb, firstCause_eq]

theorem fragment_buffered (h : o.arrivals < (s.feed f).cfg.stride) (hb : (s.feed f).buffer.length < 96) :
    fragment f d s = s.setFeed f { (s.feed f).withBuffer ((s.feed f).buffer ++ [⟨o.number, o.arrivals, d⟩]) with
      openFrame := some { o with arrivals := o.arrivals + 1, crc := crc32Feed o.crc d } } := by
  simp only [fragment, ho, if_neg (Nat.not_le_of_lt h), Config.ingestBuffer, Nat.not_le_of_lt hb, if_false]

end Fragment

/-- Settles O40, by the three cases of R9. -/
theorem fragmentTakesTheNextIndex : Obligations.FragmentTakesTheNextIndex := by
  intro s f d x
  refine ⟨fun ho => ?_, ?_⟩
  · refine congrArg Host.Outcome.next ?_
    simp only [fragment, show (s.feed f).openFrame = none from ho]
  · intro o ho marked
    have hmarked : ∀ c, marked c = some (o.cause.getD c) := fun c => by cases h : o.cause <;> simp [marked, h]
    refine ⟨fun h => ?_, fun h hb => ?_, fun h hb => congrArg Host.Outcome.next ?_⟩
    · rw [hmarked]
      exact congrArg Host.Outcome.next (fragment_oversize d ho h)
    · rw [hmarked]
      exact congrArg Host.Outcome.next (fragment_dropped d ho h hb)
    · rw [fragment_buffered d ho h hb]
      simp only [Feed.withBuffer, urgentAfter, List.length_append, List.length_singleton, Config.urgentAt, Config.calmAt]
      rfl

/-! ## Damage reports (R20, O42) -/

theorem damageTaken_marks {f : FeedId} {n : Nat} {e : Entry} (he : (s.feed f).entry n = some e) (hf : e.frame = n)
    (hc : e.state = .complete) : damageTaken f n s = raise f.val (.ingestDamage n .check) (s.setFeed f { s.feed f with
      directory := SMap.put (s.feed f).directory (n % (s.feed f).cfg.depth) { e with state := .damaged .check } }) := by
  simp only [damageTaken, he]
  exact if_pos ⟨hf, hc⟩

theorem damageTaken_other {f : FeedId} {n : Nat}
    (h : ∀ e, (s.feed f).entry n = some e → ¬ (e.frame = n ∧ e.state = .complete)) : damageTaken f n s = s := by
  cases he : (s.feed f).entry n with
  | none => simp only [damageTaken, he]
  | some e =>
    simp only [damageTaken, he]
    exact if_neg (h e he)

/-- Settles O42: the report is taken, and acts only on a COMPLETE entry that holds its frame. -/
theorem damageReportMarksCheck : Obligations.DamageReportMarksCheck := by
  intro s f n hmem x t
  have harrives : exec (.damageReport f n) s = .next (damageTaken f n t) := by
    refine congrArg Host.Outcome.next ?_
    unfold damageArrives
    rw [if_pos (List.contains_iff_mem.2 hmem)]
  rw [harrives]
  refine ⟨?_, fun hother => ?_⟩
  · intro e he hframe hstate entries
    exact congrArg Host.Outcome.next (damageTaken_marks (s := t) he hframe hstate)
  · refine congrArg Host.Outcome.next (damageTaken_other fun e he h => ?_)
    exact (hother e he).elim (fun hf => hf h.1) fun hc => hc h.2

end Sys2Proof.Machine
end

section
/-!
PROOFS. Frame starts (R11 to R14, O39) and the store writes of a feed (R15, R156, O49).
-/

-- Proofs checked in turn: side by side they need more threads than the memory limit of check.sh has room for.
set_option Elab.async false

namespace Sys2Proof.Machine

variable {s : State} {f : FeedId}

/-! ## Frame starts (R11 to R14, O39) -/

/-- A feed on which frame `n` has started: steps 4 to 6 of R11. -/
def Feed.opened (x : Feed) (n : Nat) : Feed :=
  let notice := if x.cfg.depth ≤ n then [OverwriteNotice.mk (n - x.cfg.depth) x.tail] else []
  { x with
    directory := x.directory.put (n % x.cfg.depth) { frame := n, state := .writing, count := 0, crc := none }
    cacheNotices := x.cacheNotices ++ notice
    clipNotices := x.clipNotices ++ notice
    openFrame := some { number := n, arrivals := 0, crc := crc32Start, cause := none }
    state := .recording }

theorem openNewFrame_eq (f : FeedId) (n : Nat) (s : State) :
    openNewFrame f n s = s.setFeed f ((s.feed f).opened n) := rfl

/-- A feed after the loss of frame `n`, before the frames behind it are checked (R13). -/
def Feed.overtaken (x : Feed) (n : Nat) (cause : DamageCause) : Feed :=
  { x.withBuffer (x.buffer.filter fun g => g.frame != n) with
    closing := x.closing.filter fun p => p.number != n
    head := some n
    lastCause := some cause }

/-- The cause of an overtaken frame: its pending one, or DROPPED (R13). -/
def Feed.overtakenCause (x : Feed) (n : Nat) : DamageCause :=
  ((x.closing.find? fun p => p.number == n).bind (·.cause)).getD .dropped

theorem overtakeEntry_writing {e : Entry} (h : e.state = .writing) (f : FeedId) (s : State) :
    overtakeEntry f (some e) s = finishFrames f (raise f.val (.ingestDamage e.frame ((s.feed f).overtakenCause e.frame))
      (s.setFeed f ((s.feed f).overtaken e.frame ((s.feed f).overtakenCause e.frame)))) := if_pos h

theorem overtakeEntry_other {e : Option Entry} (h : ∀ e', e = some e' → e'.state ≠ .writing) (f : FeedId) (s : State) :
    overtakeEntry f e s = s := by
  cases e with
  | none => rfl
  | some e => exact if_neg (h e rfl)

theorem overtakeEntry_course (f : FeedId) (e : Option Entry) (s : State) :
    ((overtakeEntry f e s).feed f).course = (s.feed f).course := by
  by_cases h : ∃ e', e = some e' ∧ e'.state = .writing
  · obtain ⟨e', rfl, hw⟩ := h
    rw [overtakeEntry_writing hw, (finishFrames_course f _).1, raise_feed, State.feed_setFeed, if_pos rfl]
    rfl
  · rw [overtakeEntry_other fun e' he hw => h ⟨e', he, hw⟩]

theorem startFrame_eq (f : FeedId) (s : State) :
    startFrame f s =
      let t := closeFrame f (some .truncated) s
      let u := t.setFeed f { t.feed f with nextFrame := (t.feed f).nextFrame + 1 }
      let v := overtakeEntry f ((t.feed f).entry (t.feed f).nextFrame) u
      v.setFeed f ((v.feed f).opened (t.feed f).nextFrame) := by
  have hentry : ∀ (x : Feed) (m n : Nat), { x with nextFrame := m }.entry n = x.entry n := fun _ _ _ => rfl
  simp only [startFrame, openNewFrame_eq, State.feed_setFeed, if_true, hentry]

theorem frameStart_stays (h : (s.feed f).state = .off ∨ (s.feed f).state = .exhausted) : frameStart f s = s := by
  rcases h with h | h <;> simp only [frameStart, h]

theorem frameStart_starts (h : (s.feed f).state = .waiting ∨ (s.feed f).state = .recording)
    (hn : (s.feed f).nextFrame < 4294967296) : frameStart f s = startFrame f s := by
  rcases h with h | h <;> simp only [frameStart, h] <;> exact if_pos hn

theorem frameStart_exhausts (h : (s.feed f).state = .recording) (hn : ¬ (s.feed f).nextFrame < 4294967296) :
    frameStart f s = exhaust f s := by
  simp only [frameStart, h]
  exact if_neg hn

/-- What a frame start leaves of its feed (R11). -/
theorem startFrame_feed (f : FeedId) (s : State) : ∃ y : Feed, (startFrame f s).feed f = y.opened (s.feed f).nextFrame ∧
    y.course = ((s.feed f).cfg, (s.feed f).state, (s.feed f).nextFrame + 1, (s.feed f).cacheNotices,
      (s.feed f).clipNotices) := by
  obtain ⟨hc, -⟩ := closeFrame_course f (some .truncated) s
  simp only [Feed.course, Prod.mk.injEq] at hc
  obtain ⟨hcfg, hstate, hnext, hcache, hclip⟩ := hc
  rw [startFrame_eq]
  simp only [State.feed_setFeed, if_true, hnext]
  refine ⟨_, rfl, ?_⟩
  rw [overtakeEntry_course, State.feed_setFeed, if_pos rfl]
  simp only [Feed.course, hcfg, hstate, hcache, hclip]

theorem startFrame_ingested (f : FeedId) (s : State) : Ingested f s (startFrame f s) := by
  rw [startFrame_eq]
  exact ((((Ingested.refl f s).closeFrame _).setFeed _).overtakeEntry _).setFeed _

/-- A feed whose next number has been given. -/
def Feed.counted (x : Feed) : Feed := { x with nextFrame := x.nextFrame + 1 }

/-- A start with no open frame, at an entry that no frame still writes (R11). -/
theorem startFrame_fresh (ho : (s.feed f).openFrame = none)
    (he : ∀ e, (s.feed f).entry (s.feed f).nextFrame = some e → e.state ≠ .writing) :
    startFrame f s = s.setFeed f ((s.feed f).counted.opened (s.feed f).nextFrame) := by
  rw [startFrame_eq, closeFrame_none ho]
  simp only [overtakeEntry_other he, State.feed_setFeed, if_true, State.setFeed_setFeed]
  rfl

/-- A start with no open frame, at an entry that a frame still writes: that frame is overtaken (R13). -/
theorem startFrame_overtakes (ho : (s.feed f).openFrame = none) {e : Entry}
    (he : (s.feed f).entry (s.feed f).nextFrame = some e) (hw : e.state = .writing) {done left : List ClosedFrame}
    (hs : FinishSplit ((s.feed f).closing.filter fun p => p.number != e.frame)
      ((s.feed f).buffer.filter fun g => g.frame != e.frame) done left) (cause : DamageCause)
    (hcause : (s.feed f).overtakenCause e.frame = cause) :
    startFrame f s = raiseFinished f done (raise f.val (.ingestDamage e.frame cause)
      (s.setFeed f ((((s.feed f).counted.overtaken e.frame cause).afterFinish done left).opened
        (s.feed f).nextFrame))) := by
  have hover : overtakeEntry f (some e) (s.setFeed f (s.feed f).counted) = raiseFinished f done
      (raise f.val (.ingestDamage e.frame cause)
        (s.setFeed f (((s.feed f).counted.overtaken e.frame cause).afterFinish done left))) := by
    rw [overtakeEntry_writing hw, State.feed_setFeed, if_pos rfl, State.setFeed_setFeed,
      show (s.feed f).counted.overtakenCause e.frame = cause from hcause]
    have hfeed : (raise f.val (.ingestDamage e.frame cause)
        (s.setFeed f ((s.feed f).counted.overtaken e.frame cause))).feed f =
        (s.feed f).counted.overtaken e.frame cause := by rw [raise_feed, State.feed_setFeed, if_pos rfl]
    refine (finishFrames_eq f _ done left (by rw [hfeed]; exact hs)).trans ?_
    rw [hfeed]
    exact congrArg (fun u => raiseFinished f done (raise _ _ u)) (State.setFeed_setFeed ..)
  rw [startFrame_eq, closeFrame_none ho]
  simp only [he]
  show (overtakeEntry f (some e) (s.setFeed f (s.feed f).counted)).setFeed f
    (((overtakeEntry f (some e) (s.setFeed f (s.feed f).counted)).feed f).opened _) = _
  rw [hover, raiseFinished_setFeed, raiseFinished_feed, raise_feed, State.feed_setFeed, if_pos rfl]
  exact congrArg (fun u => raiseFinished f done (raise _ _ u)) (State.setFeed_setFeed ..)

theorem frameStart_frame (s : State) (f : FeedId) :
    let x := s.feed f
    let n := x.nextFrame
    ((x.state = .off ∨ x.state = .exhausted) → exec (.frameStartMark f) s = .next s) ∧
    ((x.state = .waiting ∨ x.state = .recording) → n < 4294967296 →
      ∃ t, exec (.frameStartMark f) s = .next t ∧
        (t.feed f).nextFrame = n + 1 ∧ (t.feed f).state = .recording ∧ (t.feed f).cfg = x.cfg ∧
        (t.feed f).openFrame = some { number := n, arrivals := 0, crc := 0xFFFFFFFF#32, cause := none } ∧
        (SMap.wf x.directory = true → SMap.find (t.feed f).directory (n % x.cfg.depth) =
          some { frame := n, state := .writing, count := 0, crc := none }) ∧
        (let notice := if x.cfg.depth ≤ n then
            [OverwriteNotice.mk (n - x.cfg.depth) (n + 1 - x.cfg.depth + x.cfg.guard)] else []
         (t.feed f).cacheNotices = x.cacheNotices ++ notice ∧ (t.feed f).clipNotices = x.clipNotices ++ notice) ∧
        (∀ g, g ≠ f → t.feed g = s.feed g) ∧
        t = { s with feeds := t.feeds, cells := t.cells, link := t.link }) := by
  intro x n
  refine ⟨fun h => congrArg Host.Outcome.next (frameStart_stays h), fun h hn => ?_⟩
  obtain ⟨y, hy, hc⟩ := startFrame_feed f s
  have hi := startFrame_ingested f s
  simp only [Feed.course, Prod.mk.injEq] at hc
  obtain ⟨hcfg, -, hnext, hcache, hclip⟩ := hc
  refine ⟨startFrame f s, congrArg Host.Outcome.next (frameStart_starts h hn), ?_, ?_, ?_, ?_, fun _ => ?_, ?_,
    hi.others, hi.eq⟩ <;> rw [hy]
  · exact hnext
  · rfl
  · exact hcfg
  · rfl
  · simp only [Feed.opened, hcfg, SMap.find_put]
    exact if_pos rfl
  · simp only [Feed.opened, Feed.tail, Feed.oldest, hcfg, hnext, hcache, hclip]
    exact ⟨rfl, rfl⟩

/-- A start on a recording feed is a start after the end of its open frame, TRUNCATED marked, if it has one. -/
theorem frameStart_after_close (hs : (s.feed f).state = .recording) :
    frameStart f s = frameStart f (closeFrame f (some .truncated) s) := by
  obtain ⟨hc, hnone⟩ := closeFrame_course f (some .truncated) s
  simp only [Feed.course, Prod.mk.injEq] at hc
  obtain ⟨-, hstate, hnext, -, -⟩ := hc
  have hclosed := closeFrame_none hnone (some .truncated)
  by_cases hn : (s.feed f).nextFrame < 4294967296
  · rw [frameStart_starts (.inr hs) hn, frameStart_starts (.inr (hstate.trans hs)) (by rwa [hnext]), startFrame_eq,
      startFrame_eq f (closeFrame f (some .truncated) s), hclosed]
  · rw [frameStart_exhausts hs hn, frameStart_exhausts (hstate.trans hs) (by rwa [hnext]), exhaust, exhaust, hclosed]

/-- Settles O39: the frame of a start, the start after an open frame, the exact start without one, and the refusal. -/
theorem frameStartOpensTheNextFrame : Obligations.FrameStartOpensTheNextFrame := by
  refine ⟨frameStart_frame, ?_, ?_, ?_⟩
  · intro s t f o hs ho marked ht
    have hclose : closeFrame f none (s.setFeed f { s.feed f with openFrame := some marked }) =
        closeFrame f (some .truncated) s := by
      rw [closeFrame_some ho, closeFrame_some (o := marked) (by simp), State.setFeed_setFeed]
      simp only [State.feed_setFeed, if_true]
      rfl
    obtain rfl := Host.Outcome.next.inj ht
    rw [hclose]
    exact congrArg Host.Outcome.next (frameStart_after_close hs)
  · intro s f hrun hn ho x n entry notice opened
    have hstart : exec (.frameStartMark f) s = .next (startFrame f s) :=
      congrArg Host.Outcome.next (frameStart_starts hrun hn)
    rw [hstart]
    refine ⟨fun hother => congrArg Host.Outcome.next (startFrame_fresh ho hother), ?_⟩
    intro e done left he hw buf behind cause y hs
    have hcause : x.overtakenCause e.frame = cause := by
      simp only [Feed.overtakenCause, cause]
      cases x.closing.find? fun p => p.number == e.frame <;> rfl
    exact congrArg Host.Outcome.next (startFrame_overtakes ho he hw hs cause hcause)
  · intro s f hs hn
    have hexec : exec (.frameStartMark f) s = .next (exhaust f s) :=
      congrArg Host.Outcome.next (frameStart_exhausts hs (by rw [hn]; exact lt_irrefl _))
    obtain ⟨hc, hnone⟩ := closeFrame_course f (some .truncated) s
    simp only [Feed.course, Prod.mk.injEq] at hc
    obtain ⟨-, -, hnext, -, -⟩ := hc
    have hi := (Ingested.refl f s).closeFrame (some .truncated)
    have hfeed : (exhaust f s).feed f = { (closeFrame f (some .truncated) s).feed f with state := .exhausted } := by
      simp only [exhaust, raise_feed, State.feed_setFeed, if_true]
    refine ⟨exhaust f s, hexec, ?_, ?_, ?_, fun hcells => ?_, ((hi.setFeed _).raise _ _).others⟩
    · rw [hfeed]
    · rw [hfeed]; exact hnext.trans hn
    · rw [hfeed]; exact hnone
    · have hcell : (exhaust f s).cell (40 + f.val) =
          ((closeFrame f (some .truncated) s).cell (40 + f.val)).take (.feedExhausted 4294967295) := by
        simp only [exhaust, raise_cell]
        refine if_pos ⟨rfl, ?_⟩
        rw [State.cells_setFeed, hi.length, hcells]
        omega
      rw [hcell]
      exact ⟨rfl, rfl⟩

/-! ## Store writes of a feed (R15, O49) -/

/-- The pending cause of a frame after the store's answer for a fragment of frame `n` (R5, R15). -/
def storeMark (r : StoreResult) (n number : Nat) (cause : Option DamageCause) : Option DamageCause :=
  if r = .store ∧ number = n then some (cause.getD .dropped) else cause

/-- A feed whose front fragment, of frame `n`, has been written with the store's answer (R15). -/
def Feed.written (x : Feed) (r : StoreResult) (n : Nat) : Feed :=
  { x.withBuffer (x.buffer.drop 1) with
    openFrame := x.openFrame.map fun o => { o with cause := storeMark r n o.number o.cause }
    closing := x.closing.map fun p => { p with cause := storeMark r n p.number p.cause } }

/-- A write with result OK marks nothing. -/
theorem Feed.written_ok (x : Feed) (n : Nat) : x.written .ok n = x.withBuffer (x.buffer.drop 1) := by
  simp [Feed.written, storeMark, Feed.withBuffer]

/-- A write with result STORE marks DROPPED on the fragment's frame, open or waiting to finish. -/
theorem Feed.written_store (x : Feed) (n : Nat) :
    x.written .store n = (x.withBuffer (x.buffer.drop 1)).markCause n .dropped := by
  have ho : ∀ o : OpenFrame, (if o.number = n then { o with cause := firstCause o.cause .dropped } else o) =
      { o with cause := storeMark .store n o.number o.cause } := fun o => by
    unfold storeMark
    by_cases hn : o.number = n <;> simp [hn, firstCause_eq]
  have hp : ∀ p : ClosedFrame, (if p.number = n then { p with cause := firstCause p.cause .dropped } else p) =
      { p with cause := storeMark .store n p.number p.cause } := fun p => by
    unfold storeMark
    by_cases hn : p.number = n <;> simp [hn, firstCause_eq]
  simp only [Feed.markCause, Feed.written, ho, hp]
  rfl

theorem storeWrite_presented {g : BufFragment} (h : (s.feed f).presented = some g) (r : StoreResult) :
    storeWrite f r s = finishFrames f { s.setFeed f ((s.feed f).written r g.frame) with
      storePort := .write f ((s.feed f).writeAddr g) g.data } := by
  cases r with
  | ok => simp only [storeWrite, h, Feed.written_ok]
  | store => simp only [storeWrite, h, Feed.written_store]

/-- A store write finishes the frames at the front of the list whose fragments are all written. -/
theorem storeWrite_finishes {g : BufFragment} (h : (s.feed f).presented = some g) (r : StoreResult)
    {done left : List ClosedFrame}
    (hs : FinishSplit ((s.feed f).written r g.frame).closing ((s.feed f).written r g.frame).buffer done left) :
    storeWrite f r s = { s with
      storePort := .write f ((s.feed f).writeAddr g) g.data
      feeds := s.feeds.set f (((s.feed f).written r g.frame).afterFinish done left)
      cells := (raiseFinished f done s).cells
      link := (raiseFinished f done s).link } := by
  have hfeed : ({ s.setFeed f ((s.feed f).written r g.frame) with
      storePort := .write f ((s.feed f).writeAddr g) g.data } : State).feed f = (s.feed f).written r g.frame :=
    (State.feed_setFeed s f f _).trans (if_pos rfl)
  rw [storeWrite_presented h, finishFrames_eq f _ done left (by rw [hfeed]; exact hs), hfeed]
  refine (raiseFinished_of_eq (s := s) (by rfl) (by rfl) f done).trans ?_
  have hset := State.setFeed_setFeed s f ((s.feed f).written r g.frame)
    (((s.feed f).written r g.frame).afterFinish done left)
  exact congrArg (fun u : State => { s with
    storePort := .write f ((s.feed f).writeAddr g) g.data, feeds := u.feeds
    cells := (raiseFinished f done s).cells, link := (raiseFinished f done s).link }) hset

/-- Settles O49: the beat of a granted feed is its store write, and an idle beat moves nothing. -/
theorem ingestBeatWritesTheFront : Obligations.IngestBeatWritesTheFront := by
  refine ⟨?_, ?_⟩
  · intro s r d a f g rest hgrant hpres hbuf x
    have hbeat : exec (.beat r d) s = .next (storeWrite f r { s with arbiter := a }) := by
      refine congrArg Host.Outcome.next ?_
      simp only [beat, hgrant, moveFragment]
    have hrest : x.buffer.drop 1 = rest := by
      show (s.feed f).buffer.drop 1 = rest
      rw [hbuf]
      rfl
    have hwrite : ∀ done left, FinishSplit (x.written r g.frame).closing (x.written r g.frame).buffer done left →
        storeWrite f r { s with arbiter := a } = { s with
          arbiter := a
          storePort := .write f (x.writeAddr g) g.data
          feeds := s.feeds.set f ((x.written r g.frame).afterFinish done left)
          cells := (raiseFinished f done s).cells
          link := (raiseFinished f done s).link } := fun done left hs => by
      rw [storeWrite_finishes (s := { s with arbiter := a }) hpres r hs]
      rw [raiseFinished_of_eq (s := s) (t := { s with arbiter := a }) rfl rfl]
      rfl
    obtain ⟨done, left, hs⟩ := exists_finishSplit (x.written r g.frame).closing (x.written r g.frame).buffer
    have hfeed : ∀ k, (storeWrite f r { s with arbiter := a }).feed k =
        if k = f then (x.written r g.frame).afterFinish done left else s.feed k := fun k => by
      rw [hwrite done left hs]
      exact Oct.get_set ..
    have hself := (hfeed f).trans (if_pos rfl)
    refine ⟨_, hbeat, ?_, ?_, ?_, ?_, fun o ho => ?_, fun k hk => (hfeed k).trans (if_neg hk), ?_, ?_, ?_, ?_⟩
    · rw [hwrite done left hs]
    · rw [hwrite done left hs]; rfl
    · rw [hself]; exact hrest
    · rw [hself, ← hrest]; rfl
    · rw [hself]
      show x.openFrame.map _ = _
      rw [ho]
      simp only [Option.map_some, storeMark]
      cases o.cause <;> rfl
    · rw [hwrite done left hs]
    · rw [hwrite done left hs]
    · rw [hwrite done left hs]
    · intro done' left' dropped closing opened hs' u
      have hs'' : FinishSplit (x.written r g.frame).closing (x.written r g.frame).buffer done' left' := by
        show FinishSplit _ (x.buffer.drop 1) done' left'
        rw [hrest]
        exact hs'
      rw [hwrite done' left' hs'']
      have hparts : ∀ y, y = (x.written r g.frame).afterFinish done' left' → y = { x.afterFinish done' left' with
          openFrame := opened, buffer := x.buffer.drop 1, urgent := y.urgent } := by
        rintro _ rfl
        rfl
      refine ⟨?_, rfl⟩
      rw [← hrest]
      exact hparts _ ((Oct.get_set s.feeds f f _).trans (if_pos rfl))
  · intro s r d a hgrant
    refine congrArg Host.Outcome.next ?_
    simp only [beat, hgrant, moveFragment]

end Sys2Proof.Machine
end

section
/-!
PROOFS. Hardware reset (R4, O2) and a command frame that is taken at once (R190 to R192).
-/

-- Proofs checked in turn: side by side they need more threads than the memory limit of check.sh has room for.
set_option Elab.async false

namespace Sys2Proof.Machine

/-- Settles O2: the reset state, read field by field. -/
theorem hardwareResetGivesResetValues : Obligations.HardwareResetGivesResetValues := by
  intro l s
  have hattn : (hardwareReset l s).attn = false := by
    show (List.replicate 54 Cell.clear).any (fun c => c.latch && c.enable) = false
    decide
  refine ⟨hardwareReset l s, rfl, rfl, rfl, rfl, rfl, rfl, rfl, rfl, rfl, rfl,
    fun ch => Quad.get_all .., fun f => Oct.get_all ..,
    fun ch => Quad.get_all .., rfl, rfl, rfl, rfl, fun ch => Quad.get_all .., fun ch => Quad.get_all .., rfl, rfl, rfl,
    fun ch => Quad.get_all .., rfl, fun ch => Quad.get_all .., rfl, fun ch => Quad.get_all .., rfl, rfl, rfl, hattn,
    rfl, rfl, rfl, rfl, rfl, rfl⟩

/-! ## A command frame taken at once (R190 to R192) -/

/-- A frame that finds the decoder free, with a body that fits, is answered with what its command leaves. -/
theorem arrive_answers {α : Type} {kind tag : Byte} {parsed : Option α} {act : α → State → CmdResult}
    {s t : State} {a : α} {st : Status} {result : List Byte} (hr : s.ready) (f : LinkFrame) (hp : parsed = some a)
    (ha : act a s = ⟨t, st, result⟩) :
    Host.Outcome.next (arrive f (runCommand kind tag parsed act) s) = answers kind tag t st result := by
  subst hp
  rw [arrive_ready f _ hr]
  exact congrArg (fun r => Host.Outcome.next (replyWith kind tag r)) ha

end Sys2Proof.Machine
end

section
/-!
PROOFS. The Clip Table's passes over its records: expiry, the at-risk watch (R43, R45, R46, O12) and RESTART_FEED (R21,
O15).
-/

-- Proofs checked in turn: side by side they need more threads than the memory limit of check.sh has room for.
set_option Elab.async false

namespace Sys2Proof

variable {α : Type}

/-! ## A table rewritten key by key -/

/-- In a table in canonical form an entry is what its key finds. -/
theorem SMap.find_of_mem {m : SMap α} (h : m.wf = true) {k : Nat} {v : α} (hm : (k, v) ∈ m) : m.find k = some v := by
  rw [SMap.wf_iff_keys] at h
  induction m with
  | nil => cases hm
  | cons q t ih =>
    obtain ⟨hq, ht⟩ := List.pairwise_cons.1 h
    rcases List.mem_cons.1 hm with rfl | hm
    · simp [SMap.find]
    · have hlt := hq k (List.mem_map_of_mem (f := Prod.fst) hm)
      simp only [SMap.find, if_neg (Nat.ne_of_lt hlt)]
      exact ih ht hm

theorem SMap.put_append {a : SMap α} {k : Nat} (ha : ∀ q ∈ a, q.1 < k) (v w : α) (t : SMap α) :
    SMap.put (a ++ (k, v) :: t) k w = a ++ (k, w) :: t := by
  induction a with
  | nil => simp [SMap.put]
  | cons q a ih =>
    obtain ⟨hq, ha⟩ := List.forall_mem_cons.1 ha
    rw [List.cons_append, SMap.put, if_neg (by omega), if_neg (by omega), ih ha, List.cons_append]

/-- Putting new values at some keys of a table in canonical form, key by key, changes those values and no more. -/
theorem SMap.foldl_put (p : α → Bool) (g : α → α) {a t : SMap α} (h : SMap.wf (a ++ t) = true) :
    t.foldl (fun m r => if p r.2 then SMap.put m r.1 (g r.2) else m) (a ++ t) =
      a ++ t.map fun r => (r.1, if p r.2 then g r.2 else r.2) := by
  induction t generalizing a with
  | nil => rfl
  | cons q t ih =>
    obtain ⟨k, v⟩ := q
    have hkeys := (SMap.wf_iff_keys _).1 h
    have hlt : ∀ r ∈ a, r.1 < k := by
      rw [List.map_append, List.pairwise_append] at hkeys
      exact fun r hr => hkeys.2.2 _ (List.mem_map_of_mem hr) _ (by simp)
    have hstep : ∀ w, SMap.wf (a ++ [(k, w)] ++ t) = true := fun w => by
      rw [SMap.wf_iff_keys]
      simpa using hkeys
    have hnext : ∀ w, t.foldl (fun m r => if p r.2 then SMap.put m r.1 (g r.2) else m) (a ++ (k, w) :: t) =
        a ++ (k, w) :: t.map fun r => (r.1, if p r.2 then g r.2 else r.2) := fun w => by
      simpa using ih (hstep w)
    rw [List.foldl_cons, List.map_cons]
    by_cases hp : p v = true
    · rw [if_pos hp, if_pos hp, SMap.put_append hlt]
      exact hnext _
    · rw [if_neg hp, if_neg hp]
      exact hnext _

namespace Machine

variable {s : State}

/-- Events of the part raised in turn. -/
theorem foldl_raise_eq_tell (l : List Detail) (s : State) :
    l.foldl (fun acc d => raise 0 d acc) s = tell (l.map ((0, ·))) s := by
  rw [tell, List.foldl_map]

/-! ## One pass over the Clip Table -/

/-- One record of the Clip Table is rewritten and told, and the pending references that name it are dropped, if any. -/
def rewriteClip (id : Nat) (c : Clip) (drop : Bool) (d : Detail) (s : State) : State :=
  raise partUnit d { s with
    clips := s.clips.put id c
    markRefs := s.markRefs.filter fun q => !(drop && q.2 == id) }

theorem expireClip_eq (id : Nat) (c : Clip) (tail : Option Nat) (s : State) : expireClip id c tail s =
    rewriteClip id { c with state := .expired } (decide (c.state = .opened))
      (.clipExpired id c.feed c.markIn tail none false) s := by
  by_cases h : c.state = .opened
  · simp only [expireClip, rewriteClip, clearRefs, h, if_true, decide_true, Bool.true_and]
    rfl
  · simp only [expireClip, rewriteClip, h, if_false, decide_false, Bool.false_and, Bool.not_false, List.filter_true]

/-- The notices of one pass: one of each record picked, in id order. -/
def passNotices (p : Clip → Bool) (d : Nat × Clip → Detail) (l : SMap Clip) : List (Nat × Detail) :=
  (l.filter fun r => p r.2).map fun r => (partUnit, d r)

/-- A pass over records reaches the clips, the pending references, the cells and the link alone. -/
theorem foldl_rewriteClip (p : Clip → Bool) (g : Clip → Clip) (drop : Clip → Bool) (d : Nat × Clip → Detail)
    (l : SMap Clip) (s : State) :
    l.foldl (fun acc r => if p r.2 then rewriteClip r.1 (g r.2) (drop r.2) (d r) acc else acc) s = { s with
      clips := l.foldl (fun m r => if p r.2 then SMap.put m r.1 (g r.2) else m) s.clips
      markRefs := s.markRefs.filter fun q => !(l.any fun r => p r.2 && drop r.2 && q.2 == r.1)
      cells := (tell (passNotices p d l) s).cells
      link := (tell (passNotices p d l) s).link } := by
  induction l generalizing s with
  | nil => simp [passNotices, tell]
  | cons r l ih =>
    rw [List.foldl_cons, List.foldl_cons]
    by_cases hp : p r.2 = true
    · have hrefs : (rewriteClip r.1 (g r.2) (drop r.2) (d r) s).markRefs =
          s.markRefs.filter fun q => !(drop r.2 && q.2 == r.1) := rfl
      have htold : passNotices p d (r :: l) = (partUnit, d r) :: passNotices p d l := by
        simp [passNotices, hp]
      obtain ⟨hc, hl⟩ := tell_congr (s := raise partUnit (d r) s) (t := rewriteClip r.1 (g r.2) (drop r.2) (d r) s)
        rfl rfl (passNotices p d l)
      rw [if_pos hp, if_pos hp, ih, htold, hrefs, hc, hl, List.filter_filter]
      simp only [List.any_cons, hp, Bool.true_and, Bool.not_or, Bool.and_comm]
      rfl
    · have htold : passNotices p d (r :: l) = passNotices p d l := by simp [passNotices, hp]
      rw [if_neg hp, if_neg hp, ih, htold]
      simp [hp]

/-! ## Expiry and the at-risk watch (R43, R45, R46) -/

/-- The clips that a pass of expiry picks. -/
def expires (f : FeedId) (hit : Clip → Bool) (c : Clip) : Bool := c.alive && c.feed == f && hit c

/-- CLIP_EXPIRED of a clip of the table. -/
def expiryNotice (tail : Option Nat) (r : Nat × Clip) : Detail :=
  .clipExpired r.1 r.2.feed r.2.markIn tail none false

/-- An expiry reaches the clips, the pending references, the cells and the link alone. -/
theorem expireWhere_frame (f : FeedId) (hit : Clip → Bool) (tail : Option Nat) (s : State) :
    expireWhere f hit tail s = { s with
      clips := s.clips.foldl
        (fun m r => if expires f hit r.2 then SMap.put m r.1 { r.2 with state := .expired } else m) s.clips
      markRefs := s.markRefs.filter fun q =>
        !(s.clips.any fun r => expires f hit r.2 && decide (r.2.state = .opened) && q.2 == r.1)
      cells := (tell (passNotices (expires f hit) (expiryNotice tail) s.clips) s).cells
      link := (tell (passNotices (expires f hit) (expiryNotice tail) s.clips) s).link } := by
  simp only [expireWhere, expireClip_eq]
  exact foldl_rewriteClip (expires f hit) (fun c => { c with state := .expired })
    (fun c => decide (c.state = .opened)) (expiryNotice tail) s.clips s

theorem expireWhere_clips (h : SMap.wf s.clips = true) (f : FeedId) (hit : Clip → Bool) (tail : Option Nat) :
    (expireWhere f hit tail s).clips =
      s.clips.map fun r => (r.1, if expires f hit r.2 then { r.2 with state := .expired } else r.2) := by
  rw [expireWhere_frame]
  exact SMap.foldl_put (expires f hit) (fun c => { c with state := .expired }) (a := []) h

/-- CLIP_AT_RISK of a clip of the table. -/
def riskNotice (t : Nat) (r : Nat × Clip) : Detail := .clipAtRisk r.1 r.2.markIn t

theorem watchClips_eq (h : SMap.wf s.clips = true) (f : FeedId) (t : Nat) :
    watchClips f t s = { s with
      clips := s.clips.map fun r =>
        (r.1, if r.2.atRisk f t (s.feed f).cfg.warn then { r.2 with warned := true } else r.2)
      cells := (tell (passNotices (fun c => c.atRisk f t (s.feed f).cfg.warn) (riskNotice t) s.clips) s).cells
      link := (tell (passNotices (fun c => c.atRisk f t (s.feed f).cfg.warn) (riskNotice t) s.clips) s).link } := by
  have hstep : ∀ (acc : State) (r : Nat × Clip),
      raise partUnit (.clipAtRisk r.1 r.2.markIn t) { acc with clips := acc.clips.put r.1 { r.2 with warned := true } } =
        rewriteClip r.1 { r.2 with warned := true } false (riskNotice t r) acc := fun acc r => by
    simp only [rewriteClip, Bool.false_and, Bool.not_false, List.filter_true]
    rfl
  simp only [watchClips, hstep]
  refine (foldl_rewriteClip (fun c => c.atRisk f t (s.feed f).cfg.warn) (fun c => { c with warned := true })
    (fun _ => false) (riskNotice t) s.clips s).trans ?_
  have hput := SMap.foldl_put (fun c : Clip => c.atRisk f t (s.feed f).cfg.warn) (fun c => { c with warned := true })
    (a := []) h
  simp only [List.nil_append] at hput
  simp [hput]

/-- The clips that a new tail expires (R43). -/
def belowTail (f : FeedId) (t : Nat) (c : Clip) : Bool := expires f (fun c => c.markIn < t) c

/-- A clip after the Clip Table has taken tail `t` of feed `f` at warn distance `w` (R43, R46). -/
def Clip.afterTail (f : FeedId) (t w : Nat) (c : Clip) : Clip :=
  if belowTail f t c then { c with state := .expired } else if c.atRisk f t w then { c with warned := true } else c

theorem expires_iff (f : FeedId) (hit : Clip → Bool) (c : Clip) :
    expires f hit c = true ↔ ((c.state = .opened ∨ c.state = .closed) ∧ c.feed = f) ∧ hit c = true := by
  simp only [expires, Clip.alive, Bool.and_eq_true, Bool.or_eq_true, beq_iff_eq]

/-- The clips that an expiry picks are told with its feed. -/
theorem passNotices_expires (f : FeedId) (hit : Clip → Bool) (tail : Option Nat) (m : SMap Clip) :
    passNotices (expires f hit) (expiryNotice tail) m =
      (m.filter fun r => expires f hit r.2).map fun r => (partUnit, .clipExpired r.1 f r.2.markIn tail none false) := by
  refine List.map_congr_left fun r hr => ?_
  rw [expiryNotice, ((expires_iff f hit r.2).1 (List.mem_filter.1 hr).2).1.2]

theorem belowTail_eq (f : FeedId) (t : Nat) : belowTail f t = expires f fun c => c.markIn < t := rfl

theorem belowTail_iff (f : FeedId) (t : Nat) (c : Clip) :
    belowTail f t c = true ↔ ((c.state = .opened ∨ c.state = .closed) ∧ c.feed = f) ∧ c.markIn < t := by
  rw [belowTail, expires_iff, decide_eq_true_iff]

theorem atRisk_iff (f : FeedId) (t w : Nat) (c : Clip) : c.atRisk f t w = true ↔
    ((c.state = .opened ∨ c.state = .closed) ∧ c.feed = f) ∧ c.watch = true ∧ 0 < w ∧ c.warned = false ∧
      c.markIn ≤ t + w := by
  simp only [Clip.atRisk, Clip.alive, Bool.and_eq_true, Bool.or_eq_true, beq_iff_eq, Bool.not_eq_true',
    decide_eq_true_eq, and_assoc]

/-- The clips that a new tail newly warns. -/
def newlyAtRisk (f : FeedId) (t w : Nat) (c : Clip) : Bool := !belowTail f t c && c.atRisk f t w

theorem newlyAtRisk_iff (f : FeedId) (t w : Nat) (c : Clip) : newlyAtRisk f t w c = true ↔
    ((c.state = .opened ∨ c.state = .closed) ∧ c.feed = f) ∧ t ≤ c.markIn ∧ c.watch = true ∧ 0 < w ∧
      c.warned = false ∧ c.markIn ≤ t + w := by
  rw [newlyAtRisk, Bool.and_eq_true, Bool.not_eq_true', Bool.eq_false_iff, ne_eq, belowTail_iff, atRisk_iff]
  constructor
  · rintro ⟨hstay, halive, hrest⟩
    exact ⟨halive, Nat.not_lt.1 fun hlt => hstay ⟨halive, hlt⟩, hrest⟩
  · rintro ⟨halive, hle, hrest⟩
    exact ⟨fun hlt => Nat.not_lt.2 hle hlt.2, halive, hrest⟩

/-- The notices of a new tail: first the clips it expires, then the clips it newly warns. -/
def tailNotices (f : FeedId) (t w : Nat) (m : SMap Clip) : List (Nat × Detail) :=
  passNotices (belowTail f t) (expiryNotice (some t)) m ++ passNotices (newlyAtRisk f t w) (riskNotice t) m

theorem not_atRisk_of_expired {c : Clip} (h : c.state = .expired) (f : FeedId) (t w : Nat) : c.atRisk f t w = false := by
  simp [Clip.atRisk, Clip.alive, h]

/-- The notices of the watch after an expiry are those of the clips that stay and are newly warned. -/
theorem passNotices_after_expiry (f : FeedId) (t w : Nat) (m : SMap Clip) :
    passNotices (fun c => c.atRisk f t w) (riskNotice t)
        (m.map fun r => (r.1, if belowTail f t r.2 then { r.2 with state := .expired } else r.2)) =
      passNotices (newlyAtRisk f t w) (riskNotice t) m := by
  induction m with
  | nil => rfl
  | cons r m ih =>
    unfold passNotices at ih ⊢
    by_cases hb : belowTail f t r.2 = true
    · simpa [hb, newlyAtRisk, not_atRisk_of_expired] using ih
    · by_cases hr : r.2.atRisk f t w = true <;> simpa [hb, hr, newlyAtRisk] using ih

theorem takeTail_eq (h : SMap.wf s.clips = true) (f : FeedId) (t : Nat) : takeTail f t s = { s with
    clips := s.clips.map fun r => (r.1, r.2.afterTail f t (s.feed f).cfg.warn)
    markRefs := s.markRefs.filter fun q =>
      !(s.clips.any fun r => belowTail f t r.2 && decide (r.2.state = .opened) && q.2 == r.1)
    cells := (tell (tailNotices f t (s.feed f).cfg.warn s.clips) s).cells
    link := (tell (tailNotices f t (s.feed f).cfg.warn s.clips) s).link } := by
  have hu := expireWhere_frame f (fun c => c.markIn < t) (some t) s
  have htable : (expireWhere f (fun c => c.markIn < t) (some t) s).clips =
      s.clips.map fun r => (r.1, if belowTail f t r.2 then { r.2 with state := .expired } else r.2) :=
    expireWhere_clips h f _ _
  have hwf : SMap.wf (expireWhere f (fun c => c.markIn < t) (some t) s).clips = true := by
    rw [htable]
    exact SMap.wf_map h _ fun _ => rfl
  have hfeed : (expireWhere f (fun c => c.markIn < t) (some t) s).feed f = s.feed f := by rw [hu]; rfl
  have hclips : (expireWhere f (fun c => c.markIn < t) (some t) s).clips.map (fun r =>
      (r.1, if r.2.atRisk f t (s.feed f).cfg.warn then { r.2 with warned := true } else r.2)) =
      s.clips.map fun r => (r.1, r.2.afterTail f t (s.feed f).cfg.warn) := by
    rw [htable, List.map_map]
    refine List.map_congr_left fun r _ => ?_
    by_cases hb : belowTail f t r.2 = true <;> simp [Clip.afterTail, hb, not_atRisk_of_expired]
  have htold := tell_congr (s := tell (passNotices (belowTail f t) (expiryNotice (some t)) s.clips) s)
    (t := expireWhere f (fun c => c.markIn < t) (some t) s) (by rw [hu]; rfl) (by rw [hu]; rfl)
    (passNotices (newlyAtRisk f t (s.feed f).cfg.warn) (riskNotice t) s.clips)
  rw [← tell_append] at htold
  rw [takeTail, watchClips_eq hwf, hfeed, hclips, htable, passNotices_after_expiry, htold.1, htold.2, hu]
  rfl

/-- Besides the clips and the pending references a new tail reaches the cells and the link alone. -/
theorem takeTail_frame (h : SMap.wf s.clips = true) (f : FeedId) (t : Nat) : takeTail f t s = { s with
    clips := (takeTail f t s).clips
    markRefs := (takeTail f t s).markRefs
    cells := (tell (tailNotices f t (s.feed f).cfg.warn s.clips) s).cells
    link := (tell (tailNotices f t (s.feed f).cfg.warn s.clips) s).link } := by
  rw [takeTail_eq h]

/-- A tail handed to the Clip Table: what it leaves of one clip, and of the pending references (R43, R46). -/
theorem takeTail_clip (h : SMap.wf s.clips = true) (f : FeedId) (t id : Nat) :
    SMap.find (takeTail f t s).clips id = (SMap.find s.clips id).map (Clip.afterTail f t (s.feed f).cfg.warn) := by
  rw [takeTail_eq h]
  exact SMap.find_map s.clips _ id

/-- Settles O12, from the two passes of a new tail over the table. -/
theorem newTailExpiresAndWarnsClips : Obligations.NewTailExpiresAndWarnsClips := by
  refine ⟨?_, ?_, fun s f => ⟨fun hn => ?_, fun n rest hn => ?_⟩⟩
  · intro s f tail id c hwf hc w t hit
    have hbelow : belowTail f tail c = true ↔ hit ∧ c.markIn < tail := belowTail_iff f tail c
    have hrisk : c.atRisk f tail w = true ↔ hit ∧ c.watch = true ∧ 0 < w ∧ c.warned = false ∧ c.markIn ≤ tail + w :=
      atRisk_iff f tail w c
    have hfind : SMap.find t.clips id = some (c.afterTail f tail w) := by
      show SMap.find (takeTail f tail s).clips id = _
      rw [takeTail_clip hwf, hc]
      rfl
    rw [hfind]
    refine ⟨fun hh hlt => ?_, fun hh hlt hwatch hw hle => ?_, fun hstay => ?_, fun hh hlt hopen r hr => ?_⟩
    · rw [Clip.afterTail, if_pos (hbelow.2 ⟨hh, hlt⟩)]
    · rw [Clip.afterTail, if_neg fun hb => hlt (hbelow.1 hb).2]
      cases hwarned : c.warned with
      | false => rw [if_pos (hrisk.2 ⟨hh, hwatch, hw, hwarned, hle⟩)]
      | true =>
        rw [if_neg fun hr => by simpa [hwarned] using (hrisk.1 hr).2.2.2.1, ← hwarned]
    · rw [Clip.afterTail, if_neg, if_neg]
      · intro hr
        obtain ⟨hh, hwatch, hw, -, hle⟩ := hrisk.1 hr
        rcases hstay with hno | ⟨-, hno | hno | hno⟩
        · exact hno hh
        · simp [hwatch] at hno
        · omega
        · omega
      · intro hb
        rcases hstay with hno | ⟨hno, -⟩
        · exact hno (hbelow.1 hb).1
        · exact hno (hbelow.1 hb).2
    · have hrefs : r ∈ (takeTail f tail s).markRefs := hr
      rw [takeTail_eq hwf] at hrefs
      rintro rfl
      have hany : (s.clips.any fun q => belowTail f tail q.2 && decide (q.2.state = .opened) && r.2 == q.1) = true :=
        List.any_eq_true.2 ⟨_, SMap.mem_of_find hc, by simp [hbelow.2 ⟨hh, hlt⟩, hopen]⟩
      simpa [hany] using (List.mem_filter.1 hrefs).2
  · intro s f tail hwf w alive gone risk told u t
    have hgone : passNotices (belowTail f tail) (expiryNotice (some tail)) s.clips =
        (gone.map fun r => Detail.clipExpired r.1 f r.2.markIn (some tail) none false).map ((0, ·)) := by
      have hfilter : s.clips.filter (fun r => belowTail f tail r.2) = gone :=
        List.filter_congr fun r _ => Bool.eq_iff_iff.2 ((belowTail_iff f tail r.2).trans decide_eq_true_iff.symm)
      rw [belowTail_eq, passNotices_expires, ← belowTail_eq, hfilter, List.map_map]
      rfl
    have hrisk : passNotices (newlyAtRisk f tail w) (riskNotice tail) s.clips =
        (risk.map fun r => Detail.clipAtRisk r.1 r.2.markIn tail).map ((0, ·)) := by
      have hfilter : s.clips.filter (fun r => newlyAtRisk f tail w r.2) = risk :=
        List.filter_congr fun r _ => Bool.eq_iff_iff.2 ((newlyAtRisk_iff f tail w r.2).trans decide_eq_true_iff.symm)
      rw [passNotices, hfilter, List.map_map]
      rfl
    have htold : u = tell (tailNotices f tail w s.clips) s := by
      rw [tailNotices, hgone, hrisk, ← List.map_append]
      exact (foldl_raise_eq_tell told s)
    rw [htold]
    exact takeTail_frame hwf f tail
  · refine congrArg Host.Outcome.next ?_
    simp only [clipNotice, hn]
  · refine congrArg Host.Outcome.next ?_
    simp only [clipNotice, hn]

/-! ## RESTART_FEED (R21, R45) -/

/-- What RESTART_FEED leaves of its feed (R21). -/
def Feed.restarted (x : Feed) : Feed :=
  { x with directory := [], nextFrame := 0, head := none, state := .off, lastCause := none }

theorem exec_restartFeed {t : State} {st : Status} {result : List Byte} (hr : s.ready) (tag n : Byte)
    (h : cmdRestartFeed n.toNat s = ⟨t, st, result⟩) :
    exec (.restartFeed tag [n]) s = answers 9#8 tag t st result :=
  arrive_answers (act := cmdRestartFeed) hr ⟨9#8, tag, [n]⟩ rfl h

/-- Settles O15: the feed's own reset, then one expiry pass over its clips. -/
theorem restartFeedEmptiesTheDirectory : Obligations.RestartFeedEmptiesTheDirectory := by
  intro s tag n hr
  refine ⟨fun hn => exec_restartFeed hr tag n ?_, fun f hf => ⟨fun he => exec_restartFeed hr tag n ?_, fun he => ?_⟩⟩
  · simp only [cmdRestartFeed, feedOf?_none hn]
    rfl
  · simp only [cmdRestartFeed, hf, feedOf?_val, if_pos he]
    rfl
  · have hcmd : cmdRestartFeed n.toNat s =
        ⟨expireWhere f (fun _ => true) none (s.setFeed f (s.feed f).restarted), .ok, []⟩ := by
      simp only [cmdRestartFeed, hf, feedOf?_val, he]
      rfl
    have hframe := expireWhere_frame f (fun _ => true) none (s.setFeed f (s.feed f).restarted)
    refine ⟨_, exec_restartFeed hr tag n hcmd, ?_, fun g hg => ?_, fun hwf id c hc => ?_, fun hwf r => ?_, ?_⟩
    · rw [hframe]
      exact (State.feed_setFeed s f f _).trans (if_pos rfl)
    · rw [hframe]
      exact (State.feed_setFeed s f g _).trans (if_neg hg)
    · have hexp : (if expires f (fun _ => true) c then { c with state := .expired } else c) =
          if (c.state = .opened ∨ c.state = .closed) ∧ c.feed = f then { c with state := .expired } else c :=
        if_congr ((expires_iff f _ c).trans (and_iff_left rfl)) rfl rfl
      rw [expireWhere_clips (s := s.setFeed f (s.feed f).restarted) hwf, ← hexp]
      have hfind := SMap.find_map s.clips
        (fun c => if expires f (fun _ => true) c then { c with state := .expired } else c) id
      rw [hc] at hfind
      exact hfind
    · rw [hframe]
      show r ∈ s.markRefs.filter _ ↔ _
      rw [List.mem_filter]
      refine and_congr_right fun _ => ?_
      simp only [Bool.not_eq_true', List.any_eq_false, Bool.and_eq_true, decide_eq_true_eq, beq_iff_eq, expires_iff]
      constructor
      · rintro hnone c hc ⟨hopen, hfeed⟩
        exact hnone (r.2, c) (SMap.mem_of_find hc) ⟨⟨⟨⟨.inl hopen, hfeed⟩, trivial⟩, hopen⟩, rfl⟩
      · rintro hnone ⟨id, c⟩ hmem ⟨⟨⟨⟨-, hfeed⟩, -⟩, hopen⟩, rfl⟩
        exact hnone c (SMap.find_of_mem hwf hmem) ⟨hopen, hfeed⟩
    · intro gone u
      have htold : u = tell (passNotices (expires f fun _ => true) (expiryNotice none) s.clips) s := by
        have hfilter : s.clips.filter (fun r => expires f (fun _ => true) r.2) = gone :=
          List.filter_congr fun r _ => Bool.eq_iff_iff.2
            (((expires_iff f _ r.2).trans (and_iff_left rfl)).trans decide_eq_true_iff.symm)
        rw [passNotices_expires, hfilter, tell, List.foldl_map]
        rfl
      obtain ⟨hc, hl⟩ := tell_congr (s := s) (t := s.setFeed f (s.feed f).restarted) rfl rfl
        (passNotices (expires f fun _ => true) (expiryNotice none) s.clips)
      rw [htold, ← hc, ← hl, hframe]
      rfl

end Machine
end Sys2Proof
end

section
/-!
PROOFS. Lookups (R19, R94, R96, R135, R136, O44).
-/

-- Proofs checked in turn: side by side they need more threads than the memory limit of check.sh has room for.
set_option Elab.async false

namespace Sys2Proof.Machine

/-! ## The directory read (R19) -/

section Read

variable (x : Feed) (n : Nat)

theorem read_eq_entry_iff (base count : Nat) (crc : BitVec 32) : x.read n = .entry base count crc ↔
    base = x.cfg.slotBase n ∧ x.entry n = some ⟨n, .complete, count, some crc⟩ := by
  unfold Feed.read
  cases x.entry n with
  | none => simp
  | some e =>
    obtain ⟨frame, state, k, c⟩ := e
    by_cases hf : frame = n
    · subst hf
      cases state <;> cases c <;> simp [and_comm, eq_comm]
    · simp [hf]

theorem read_eq_damaged_iff (cause : DamageCause) :
    x.read n = .damaged cause ↔ ∃ e, x.entry n = some e ∧ e.frame = n ∧ e.state = .damaged cause := by
  unfold Feed.read
  cases x.entry n with
  | none => simp
  | some e =>
    obtain ⟨frame, state, k, c⟩ := e
    by_cases hf : frame = n
    · subst hf
      cases state <;> cases c <;> simp
    · simp [hf]

theorem damagedFrame_iff :
    x.damagedFrame n = true ↔ ∃ e c, x.entry n = some e ∧ e.frame = n ∧ e.state = .damaged c := by
  have hread : x.damagedFrame n = true ↔ ∃ c, x.read n = .damaged c := by
    unfold Feed.damagedFrame
    cases x.read n <;> simp
  rw [hread, exists_comm]
  exact exists_congr fun c => read_eq_damaged_iff x n c

end Read

/-! ## Allocation (R136) -/

section Allocate

variable {c : Cache} {ch : ChanId} {f : FeedId} {n : Nat}

theorem allocate_of_no_entry {read : DirAnswer} (h : ∀ base count crc, read ≠ .entry base count crc) :
    c.allocate ch f n read = none := by
  unfold Cache.allocate
  split
  · rfl
  · split
    · exact absurd rfl (h _ _ _)
    · rfl

theorem allocate_of_full (read : DirAnswer) (h : 4 ≤ c.activeFills ch) : c.allocate ch f n read = none := if_pos h

theorem allocate_of_no_context (read : DirAnswer) (h : SMap.firstFree c.fills 8 = none) :
    c.allocate ch f n read = none := by
  unfold Cache.allocate
  simp only [Config.fillContexts, h]
  exact ite_self _

theorem pickSlot_free {i : Nat} (h : SMap.firstFree c.slots 128 = some i) : c.pickSlot = some i := by
  simp only [Cache.pickSlot, Config.cacheSlots, h]

theorem pickSlot_full (h : SMap.firstFree c.slots 128 = none) : c.pickSlot = c.lru.find? fun i => c.pinCount i == 0 := by
  simp only [Cache.pickSlot, Config.cacheSlots, h]

theorem allocate_of_no_slot (read : DirAnswer) (h : c.pickSlot = none) : c.allocate ch f n read = none := by
  unfold Cache.allocate
  cases SMap.firstFree c.fills Config.fillContexts <;> simp only [h] <;> exact ite_self _

theorem allocate_starts {k i base count : Nat} {crc : BitVec 32} (hfew : c.activeFills ch < 4)
    (hk : SMap.firstFree c.fills 8 = some k) (hi : c.pickSlot = some i) :
    c.allocate ch f n (.entry base count crc) = some (c.startFill ch f n i k base count crc) := by
  have hroom : ¬ Config.fillsPerChannel ≤ c.activeFills ch := Nat.not_le_of_lt hfew
  simp only [Cache.allocate, if_neg hroom, Config.fillContexts, hk, hi]

theorem startFill_parts (i k base count : Nat) (crc : BitVec 32) :
    let d := c.startFill ch f n i k base count crc
    SMap.find d.slots i = some { state := .filling, feed := f, frame := n, count := count, data := [], context := some k,
                                 victim := c.victimOf i } ∧
      SMap.find d.fills k = some { slot := i, owner := ch, waiters := [ch], order := c.activeFills ch, age := 0,
                                   base := base, count := count, crc := crc, next := 0, retried := false,
                                   running := crc32Start } ∧
      i ∉ d.lru := by
  refine ⟨?_, ?_, fun h => ?_⟩
  · exact (SMap.find_put ..).trans (if_pos rfl)
  · exact (SMap.find_put ..).trans (if_pos rfl)
  · simpa using (List.mem_filter.1 (show i ∈ c.lru.filter (· != i) from h)).2

end Allocate

/-! ## The answer of the cache (R135) -/

section Answer

variable {c : Cache} (ch : ChanId) {f : FeedId} {n : Nat} (read : DirAnswer) {i : Nat} {y : Slot}

theorem answer_valid (h : c.tagged f n = some (i, y)) (hs : y.state = .valid) :
    c.answer ch f n read = (c.touch i, .resident) := by simp only [Cache.answer, h, hs]

theorem answer_joins {k : Nat} (h : c.tagged f n = some (i, y)) (hs : y.state = .filling) (hk : y.context = some k) :
    c.answer ch f n read = (c.join ch k, .wait) := by simp only [Cache.answer, h, hs, hk]

theorem answer_held (h : c.tagged f n = some (i, y)) (hs : y.state = .orphan ∨ (y.state = .filling ∧ y.context = none)) :
    c.answer ch f n read = (c, .busy) := by
  rcases hs with hs | ⟨hs, hk⟩
  · simp only [Cache.answer, h, hs]
  · simp only [Cache.answer, h, hs, hk]

theorem answer_starts {d : Cache} (h : c.tagged f n = none) (ha : c.allocate ch f n read = some d) :
    c.answer ch f n read = (d, .wait) := by simp only [Cache.answer, h, ha]

theorem answer_refused (h : c.tagged f n = none) (ha : c.allocate ch f n read = none) :
    c.answer ch f n read = (c, .busy) := by simp only [Cache.answer, h, ha]

end Answer

/-! ## The lookup (R135) and the channel's lookups (R94, R96) -/

variable {s : State} (ch : ChanId) {f : FeedId} {n : Nat}

theorem lookup_out_of_range (h : ∀ w, (s.feed f).range = some w → n < w.lo ∨ w.hi < n) :
    lookup ch f n s = (s, .notAvailable .range) := by
  cases hr : (s.feed f).range with
  | none => simp only [lookup, hr]
  | some w =>
    have hout : w.holds n = false := by
      simp only [Window.holds, Bool.and_eq_false_iff, decide_eq_false_iff_not, Nat.not_le]
      exact h w hr
    simp only [lookup, hr, hout, Bool.not_false, if_true]

section InRange

variable {w : Window} (hr : (s.feed f).range = some w) (hlo : w.lo ≤ n) (hhi : n ≤ w.hi)

include hr hlo hhi

theorem lookup_damaged (h : (s.feed f).damagedFrame n = true) : lookup ch f n s = (s, .notAvailable .damaged) := by
  have hin : w.holds n = true := by simp [Window.holds, hlo, hhi]
  simp only [lookup, hr, hin, h, Bool.not_true, if_true, Bool.false_eq_true, if_false]

theorem lookup_answers (h : (s.feed f).damagedFrame n = false) : lookup ch f n s =
    ({ s with cache := (s.cache.answer ch f n ((s.feed f).read n)).1 },
      (s.cache.answer ch f n ((s.feed f).read n)).2) := by
  have hin : w.holds n = true := by simp [Window.holds, hlo, hhi]
  simp only [lookup, hr, hin, h, Bool.not_true, Bool.false_eq_true, if_false]

end InRange

theorem lookup_chan (ch' : ChanId) (f : FeedId) (n : Nat) (s : State) :
    (lookup ch f n s).1.chan ch' = s.chan ch' := by
  rw [lookup_keeps]
  rfl

theorem sendLookups_cons (h : (s.chan ch).permit = true) (rest : List Nat) :
    sendLookups ch f (n :: rest) s = sendLookups ch f rest (sendLookup ch f n s) := by
  simp only [sendLookups, List.foldl_cons, if_pos h]

theorem sendLookup_ready (h : (lookup ch f n s).2 = .resident) (hw : (s.chan ch).cueWait = some ⟨f, n⟩) :
    sendLookup ch f n s = raise ch.val (.cueReady (materialId (s.chan ch).material) f n)
      ((lookup ch f n s).1.setChan ch { s.chan ch with cueWait := none }) := by
  simp only [sendLookup, h, handleAnswer, frameReady, lookup_chan, if_pos hw]

theorem sendLookup_failed (h : (lookup ch f n s).2 = .notAvailable .damaged) {sel : Selection}
    (hsel : (s.chan ch).selection = some sel) (hf : sel.feed = f) (hn : sel.frame = n) :
    sendLookup ch f n s = (lookup ch f n s).1.setChan ch { s.chan ch with damaged := true } := by
  have hany : ((s.chan ch).selection.any fun sel => sel.feed == f && sel.frame == n) = true := by
    simp [hsel, hf, hn]
  simp only [sendLookup, h, handleAnswer, frameFailed, lookup_chan, hany, and_self, if_true]

/-- An answer that concerns neither the cue wait nor the selected frame leaves the channel. -/
theorem sendLookup_other (hready : ¬ ((lookup ch f n s).2 = .resident ∧ (s.chan ch).cueWait = some ⟨f, n⟩))
    (hfailed : ¬ ((lookup ch f n s).2 = .notAvailable .damaged ∧
      ∃ sel, (s.chan ch).selection = some sel ∧ sel.feed = f ∧ sel.frame = n)) :
    sendLookup ch f n s = (lookup ch f n s).1 := by
  cases h : (lookup ch f n s).2 with
  | resident =>
    have hw : (s.chan ch).cueWait ≠ some ⟨f, n⟩ := fun hw => hready ⟨h, hw⟩
    simp only [sendLookup, h, handleAnswer, frameReady, lookup_chan, if_neg hw]
  | notAvailable why =>
    have hno : ¬ (why = .damaged ∧ ((s.chan ch).selection.any fun sel => sel.feed == f && sel.frame == n) = true) := by
      rintro ⟨rfl, hany⟩
      simp only [Option.any_eq_true, Bool.and_eq_true, beq_iff_eq] at hany
      exact hfailed ⟨h, hany⟩
    simp only [sendLookup, h, handleAnswer, frameFailed, lookup_chan, if_neg hno]
  | wait => simp only [sendLookup, h, handleAnswer]
  | busy => simp only [sendLookup, h, handleAnswer]

/-- Settles O44: the directory read, the allocation, the lookup's cases and what the channel does with the answer. -/
theorem lookupAnswersByTheFirstCase : Obligations.LookupAnswersByTheFirstCase := by
  refine ⟨?_, read_eq_entry_iff, read_eq_damaged_iff, fun c ch f n read => allocate_of_no_entry, ?_, ?_⟩
  · intro s ch f n x
    refine ⟨lookup_out_of_range ch, fun w hr hlo hhi => ⟨fun hd => ?_, fun hd => ?_⟩⟩
    · exact lookup_damaged ch hr hlo hhi ((damagedFrame_iff x n).2 hd)
    · have hanswer : ∀ c a, s.cache.answer ch f n (x.read n) = (c, a) → lookup ch f n s = ({ s with cache := c }, a) :=
        fun c a h => by
          rw [lookup_answers ch hr hlo hhi (Bool.eq_false_iff.2 fun h => hd ((damagedFrame_iff x n).1 h)), h]
      refine ⟨fun i y ht hs => ?_, fun i y k ht hs hk => ?_, fun i y ht hs => ?_,
        fun ht => ⟨fun ha => ?_, fun c ha => ?_⟩⟩
      · exact hanswer _ _ (answer_valid ch _ ht hs)
      · refine (hanswer _ _ (answer_joins ch _ ht hs hk)).trans ?_
        simp only [Cache.join, List.contains_iff_mem]
      · exact hanswer _ _ (answer_held ch _ ht hs)
      · exact hanswer _ _ (answer_refused ch _ ht ha)
      · exact hanswer _ _ (answer_starts ch _ ht ha)
  · intro c ch f n base count crc
    refine ⟨allocate_of_full _, allocate_of_no_context _, fun hfull hpin => ?_, fun k i hfew hk hi => ?_⟩
    · refine allocate_of_no_slot _ ((pickSlot_full hfull).trans (List.find?_eq_none.2 fun i hi => ?_))
      have := hpin i hi
      simp only [beq_iff_eq]
      omega
    · have hpick : c.pickSlot = some i := by
        rcases hi with hfree | ⟨hfull, hlru⟩
        · exact pickSlot_free hfree
        · exact (pickSlot_full hfull).trans hlru
      obtain ⟨hslot, hfill, hlru⟩ := startFill_parts (c := c) (ch := ch) (f := f) (n := n) i k base count crc
      exact ⟨_, allocate_starts hfew hk hpick, hslot, hfill, hlru, rfl, rfl⟩
  · intro s ch f n rest x permit r clip
    have hpermit : x.permit = true ↔ permit := by
      simp only [Channel.permit, permit]
      cases x.state <;> cases x.opts.fetchMode <;> simp
    have hclip : materialId x.material = clip := rfl
    refine ⟨fun hno => ?_, rfl, fun hp => sendLookups_cons ch (hpermit.2 hp) rest, fun hr hw => ?_,
      fun sel hr hsel hf hn => sendLookup_failed ch hr hsel hf hn, sendLookup_other ch⟩
    · exact sendLookups_none ch f _ s (Bool.eq_false_iff.2 fun hp => hno (hpermit.1 hp))
    · rw [← hclip]
      exact sendLookup_ready ch hr hw

end Sys2Proof.Machine
end

section
/-!
PROOFS. The configuration commands of the feeds: SET_FEED (R1, R3, R182, O11).
-/

-- Proofs checked in turn: side by side they need more threads than the memory limit of check.sh has room for.
set_option Elab.async false

namespace Sys2Proof.Machine

variable {s : State}

/-! ## The body of SET_FEED (R200, R201) -/

/-- An optional unsigned field is read back. -/
theorem takeOpt_packU {w : Nat} {v : Option Nat} (h : ∀ n, v = some n → n < 256 ^ w) (rest : List Byte) :
    takeOpt (takeU w) (packU w v ++ rest) = some (v, rest) := by
  cases v with
  | none => rfl
  | some n => exact takeOpt_present _ _ _ _ (takeU_leBytes w n rest (h n rfl))

/-- The values a SET_FEED carries have the widths of their fields. -/
structure FeedFields.Fits (x : FeedFields) : Prop where
  beginAddr : ∀ v, x.beginAddr = some v → v < 2 ^ 32
  endAddr : ∀ v, x.endAddr = some v → v < 2 ^ 32
  depth : ∀ v, x.depth = some v → v < 2 ^ 32
  stride : ∀ v, x.stride = some v → v < 256
  guard : ∀ v, x.guard = some v → v < 256
  warn : ∀ v, x.warn = some v → v < 2 ^ 32

/-- The body of a SET_FEED for feed number `n`. -/
def FeedFields.body (x : FeedFields) (n : Byte) : List Byte :=
  n :: (packU 4 x.beginAddr ++ packU 4 x.endAddr ++ packU 4 x.depth ++ packU 1 x.stride ++ packU 1 x.guard ++
    packU 4 x.warn)

theorem parseSetFeed_body {x : FeedFields} (h : x.Fits) (n : Byte) : parseSetFeed (x.body n) = some (n.toNat, x) := by
  have hw : takeOpt (takeU 4) (packU 4 x.warn) = some (x.warn, []) := by
    simpa using takeOpt_packU (w := 4) h.warn []
  simp only [parseSetFeed, FeedFields.body, takeU_one, List.append_assoc, Option.bind_eq_bind, Option.bind_some,
    takeOpt_packU (w := 4) h.beginAddr, takeOpt_packU (w := 4) h.endAddr, takeOpt_packU (w := 4) h.depth,
    takeOpt_packU (w := 1) h.stride, takeOpt_packU (w := 1) h.guard, hw, bodyEnd_nil]

/-! ## What it writes (R1, R3, R182) -/

theorem differs_iff (v : Option Nat) (present : Nat) : differs v present = true ↔ ∃ n, v = some n ∧ n ≠ present := by
  cases v <;> simp [differs]

theorem outside_iff {lo hi : Nat} (h : lo ≤ hi) (v : Option Nat) :
    outside lo hi v = true ↔ ∃ n, v = some n ∧ (n < lo ∨ hi < n) := by
  cases v with
  | none => simp [outside]
  | some n => simp [outside, clampNat]; omega

theorem changesGeometry_iff (x : FeedFields) (c : FeedConfig) : x.changesGeometry c = true ↔
    (∃ v, x.beginAddr = some v ∧ v ≠ c.beginAddr) ∨ (∃ v, x.depth = some v ∧ v ≠ c.depth) ∨
      (∃ v, x.stride = some v ∧ v ≠ c.stride) := by
  simp only [FeedFields.changesGeometry, Bool.or_eq_true, differs_iff, or_assoc]

theorem clamped_iff {x : FeedFields} (h : x.Fits) : x.clamped = true ↔
    (∃ v, x.depth = some v ∧ (v < 64 ∨ 4194304 < v)) ∨ (∃ v, x.stride = some v ∧ (v < 1 ∨ 48 < v)) ∨
      (∃ v, x.guard = some v ∧ v < 2) ∨ (∃ v, x.warn = some v ∧ 65535 < v) := by
  simp only [FeedFields.clamped, Bool.or_eq_true, outside_iff (show 64 ≤ 4194304 by decide),
    outside_iff (show 1 ≤ 48 by decide), outside_iff (show 2 ≤ 255 by decide), outside_iff (Nat.zero_le 65535), or_assoc,
    Nat.not_lt_zero, false_or]
  refine or_congr_right (or_congr_right (or_congr_left (exists_congr fun v => and_congr_right fun hv => ?_)))
  have := h.guard v hv
  omega

theorem exec_setFeed {t : State} {st : Status} {result : List Byte} (hr : s.ready) (tag n : Byte) {x : FeedFields}
    (hx : x.Fits) (h : cmdSetFeed n.toNat x s = ⟨t, st, result⟩) :
    exec (.setFeed tag (x.body n)) s = answers 2#8 tag t st result :=
  arrive_answers (act := fun a : Nat × FeedFields => cmdSetFeed a.1 a.2) hr ⟨2#8, tag, x.body n⟩
    (parseSetFeed_body hx n) h

section Cases

variable {f : FeedId} {n : Byte} (hf : n.toNat = f.val) {x : FeedFields}

include hf

theorem cmdSetFeed_engaged (he : s.engaged = .engaged) : cmdSetFeed n.toNat x s = refuse s .engaged := by
  simp only [cmdSetFeed, hf, feedOf?_val, if_pos he]

theorem cmdSetFeed_geometry (he : s.engaged = .disengaged) (hg : x.changesGeometry (s.feed f).cfg = true)
    (hd : (s.feed f).directory ≠ []) : cmdSetFeed n.toNat x s = refuseConfig s f .geometry none := by
  simp only [cmdSetFeed, hf, feedOf?_val, he, reduceCtorEq, if_false]
  exact if_pos ⟨hg, hd⟩

theorem cmdSetFeed_writes (he : s.engaged = .disengaged)
    (h : ¬ (x.changesGeometry (s.feed f).cfg = true ∧ (s.feed f).directory ≠ [])) :
    cmdSetFeed n.toNat x s = done (handTail f (s.feed f).cfg.guard
      (s.setFeed f { s.feed f with cfg := x.write (s.feed f).cfg })) x.clamped
      (configBytes (x.write (s.feed f).cfg)) := by
  simp only [cmdSetFeed, hf, feedOf?_val, he, reduceCtorEq, if_false]
  exact if_neg h

end Cases

/-- Settles O11, by the checks in their order. -/
theorem setFeedWritesTheConfiguration : Obligations.SetFeedWritesTheConfiguration := by
  intro s tag n x hr hb he hd hs hg hw body
  have hx : x.Fits := ⟨hb, he, hd, hs, hg, hw⟩
  refine ⟨fun hn => exec_setFeed hr tag n hx ?_, ?_⟩
  · simp only [cmdSetFeed, feedOf?_none hn]
    rfl
  · intro f hf old moved new clamped t t' result
    have hmoved : x.changesGeometry old = true ↔ moved := changesGeometry_iff x old
    have hclamped : x.clamped = true ↔ clamped := clamped_iff hx
    have hnew : x.write old = new := by
      simp only [FeedFields.write, new]
      cases x.depth <;> cases x.stride <;> cases x.guard <;> cases x.warn <;>
        simp [clampNat, Nat.min_comm]
    have hwrites (he : s.engaged = .disengaged) (hm : ¬ (moved ∧ (s.feed f).directory ≠ [])) :
        cmdSetFeed n.toNat x s = done t' x.clamped result := by
      have hguard : (t.feed f).cfg.guard = new.guard := by rw [State.feed_setFeed, if_pos rfl]
      have htail : handTail f old.guard t = t' := by
        show (if (t.feed f).cfg.guard = old.guard then t else _) = _
        rw [hguard]
      rw [cmdSetFeed_writes hf he (by rwa [hmoved]), hnew]
      exact congrArg (fun u => done u x.clamped result) htail
    refine ⟨fun he => exec_setFeed hr tag n hx (cmdSetFeed_engaged hf he), fun he hm hd => ?_, fun he hm hc => ?_,
      fun he hm hc => ?_⟩
    · exact exec_setFeed hr tag n hx (cmdSetFeed_geometry hf he (hmoved.2 hm) hd)
    · refine exec_setFeed hr tag n hx ((hwrites he hm).trans ?_)
      rw [hclamped.2 hc]
      rfl
    · refine exec_setFeed hr tag n hx ((hwrites he hm).trans ?_)
      rw [Bool.eq_false_iff.2 fun h => hc (hclamped.1 h)]
      rfl

end Sys2Proof.Machine
end

section
/-!
PROOFS. ENGAGE: its checks and what it starts (R2, R183, R184, O13).
-/

-- Proofs checked in turn: side by side they need more threads than the memory limit of check.sh has room for.
set_option Elab.async false

namespace Sys2Proof.Machine

/-! ## The checks (R183) -/

theorem selected_iff (c : FeedConfig) : c.selected = true ↔ c.beginAddr ≤ c.endAddr := decide_eq_true_iff

theorem overlaps_iff (a b : FeedConfig) :
    overlaps a b = true ↔ a.beginAddr ≤ b.endAddr ∧ b.beginAddr ≤ a.endAddr := by
  simp [overlaps]

section FeedCheck

variable (size : Nat) (c : FeedConfig)

theorem feedCheck_none_iff : feedCheck size c = none ↔
    ¬ size ≤ c.endAddr ∧ ¬ c.endAddr - c.beginAddr + 1 < c.depth * c.stride ∧ ¬ c.depth < 4 * c.guard := by
  unfold feedCheck
  split
  · simp [*]
  · split
    · simp [*]
    · split <;> simp [*]

theorem feedCheck_some_iff (check : ConfigCheck) : feedCheck size c = some check ↔
    (size ≤ c.endAddr ∧ check = .window) ∨
      (¬ size ≤ c.endAddr ∧ c.endAddr - c.beginAddr + 1 < c.depth * c.stride ∧ check = .size) ∨
      (¬ size ≤ c.endAddr ∧ ¬ c.endAddr - c.beginAddr + 1 < c.depth * c.stride ∧ c.depth < 4 * c.guard ∧
        check = .guard) := by
  unfold feedCheck
  split
  · simp [*, eq_comm]
  · split
    · simp [*, eq_comm]
    · split <;> simp [*, eq_comm]

end FeedCheck

variable (s : State)

/-- Two selected windows share a fragment address. -/
def windowsMeet (a b : FeedId) : Prop :=
  (s.feed a).cfg.selected = true ∧ (s.feed b).cfg.selected = true ∧ overlaps (s.feed a).cfg (s.feed b).cfg = true

/-- The check that a feed fails by itself, if it is selected and fails one. -/
def ownFault (f : FeedId) : Option (FeedId × ConfigCheck × Option FeedId) :=
  if (s.feed f).cfg.selected then (feedCheck s.storeSize (s.feed f).cfg).map fun k => (f, k, none) else none

theorem firstPass_eq : firstPass s = allFeeds.findSome? (ownFault s) := rfl

theorem ownFault_none_iff (f : FeedId) : ownFault s f = none ↔
    ((s.feed f).cfg.selected = true → feedCheck s.storeSize (s.feed f).cfg = none) := by
  unfold ownFault
  by_cases h : (s.feed f).cfg.selected = true <;> simp [h]

theorem ownFault_some_iff (f : FeedId) (b : FeedId × ConfigCheck × Option FeedId) : ownFault s f = some b ↔
    (s.feed f).cfg.selected = true ∧
      ∃ check, feedCheck s.storeSize (s.feed f).cfg = some check ∧ (f, check, none) = b := by
  unfold ownFault
  by_cases h : (s.feed f).cfg.selected = true <;> simp [h]

theorem firstPass_none_iff : firstPass s = none ↔
    ∀ f, (s.feed f).cfg.selected = true → feedCheck s.storeSize (s.feed f).cfg = none := by
  rw [firstPass_eq, findSome_allFeeds_none]
  exact forall_congr' (ownFault_none_iff s)

theorem firstPass_some_iff (f : FeedId) (check : ConfigCheck) (other : Option FeedId) :
    firstPass s = some (f, check, other) ↔ other = none ∧ (s.feed f).cfg.selected = true ∧
      (∀ g, g < f → (s.feed g).cfg.selected = true → feedCheck s.storeSize (s.feed g).cfg = none) ∧
      feedCheck s.storeSize (s.feed f).cfg = some check := by
  simp only [firstPass_eq, findSome_allFeeds, ownFault_none_iff, ownFault_some_iff, Prod.mk.injEq]
  constructor
  · rintro ⟨_, ⟨hsel, _, hk, rfl, rfl, rfl⟩, hbefore⟩
    exact ⟨rfl, hsel, hbefore, hk⟩
  · rintro ⟨rfl, hsel, hbefore, hk⟩
    exact ⟨f, ⟨hsel, check, hk, rfl, rfl, rfl⟩, hbefore⟩

/-- The fault of a pair of feeds, if the second is the lower one and their windows meet. -/
def pairFault (f g : FeedId) : Option (FeedId × ConfigCheck × Option FeedId) :=
  if g < f ∧ (s.feed f).cfg.selected ∧ (s.feed g).cfg.selected ∧ overlaps (s.feed f).cfg (s.feed g).cfg then
    some (f, .overlap, some g)
  else none

theorem secondPass_eq : secondPass s = allFeeds.findSome? fun f => allFeeds.findSome? (pairFault s f) := rfl

theorem pairFault_none_iff (f g : FeedId) : pairFault s f g = none ↔ (g < f → ¬ windowsMeet s f g) := by
  unfold pairFault
  rw [ite_eq_right_iff]
  exact ⟨fun h hlt hm => Option.some_ne_none _ (h ⟨hlt, hm⟩), fun h hm => absurd hm.2 (h hm.1)⟩

theorem pairFault_some_iff (f g : FeedId) (b : FeedId × ConfigCheck × Option FeedId) :
    pairFault s f g = some b ↔ (g < f ∧ windowsMeet s f g) ∧ (f, .overlap, some g) = b := by
  unfold pairFault
  rw [Option.ite_none_right_eq_some, Option.some.injEq]
  rfl

theorem secondPass_none_iff : secondPass s = none ↔ ∀ f g, g < f → ¬ windowsMeet s f g := by
  simp only [secondPass_eq, findSome_allFeeds_none, pairFault_none_iff]

theorem secondPass_some_iff (f : FeedId) (check : ConfigCheck) (other : Option FeedId) :
    secondPass s = some (f, check, other) ↔ check = .overlap ∧ ∃ g, other = some g ∧ g < f ∧ windowsMeet s f g ∧
      ∀ a b, b < a → windowsMeet s a b → f < a ∨ (f = a ∧ g ≤ b) := by
  simp only [secondPass_eq, findSome_allFeeds, findSome_allFeeds_none, pairFault_none_iff, pairFault_some_iff,
    Prod.mk.injEq]
  constructor
  · rintro ⟨f, ⟨g, ⟨⟨hlt, hm⟩, rfl, rfl, rfl⟩, hrow⟩, hrows⟩
    refine ⟨rfl, g, rfl, hlt, hm, fun a b hb hab => ?_⟩
    rcases lt_trichotomy a f with h | rfl | h
    · exact absurd hab (hrows a h b hb)
    · exact .inr ⟨rfl, not_lt.1 fun h => hrow b h hb hab⟩
    · exact .inl h
  · rintro ⟨rfl, g, rfl, hlt, hm, hfirst⟩
    refine ⟨f, ⟨g, ⟨⟨hlt, hm⟩, rfl, rfl, rfl⟩, fun b hb hbf hmb => ?_⟩, fun a ha b hb hab => ?_⟩
    · rcases hfirst f b hbf hmb with h | ⟨-, h⟩
      · exact lt_irrefl _ h
      · exact not_lt.2 h hb
    · rcases hfirst a b hb hab with h | ⟨rfl, -⟩
      · exact lt_asymm ha h
      · exact lt_irrefl _ ha

theorem windowsMeet_iff (a b : FeedId) : windowsMeet s a b ↔
    (s.feed a).cfg.beginAddr ≤ (s.feed a).cfg.endAddr ∧ (s.feed b).cfg.beginAddr ≤ (s.feed b).cfg.endAddr ∧
      (s.feed a).cfg.beginAddr ≤ (s.feed b).cfg.endAddr ∧ (s.feed b).cfg.beginAddr ≤ (s.feed a).cfg.endAddr := by
  rw [windowsMeet, selected_iff, selected_iff, overlaps_iff]

/-- Two windows meet exactly when an address lies in both, the higher of their first ones. -/
theorem windowsDisjoint_iff : WindowsDisjoint s ↔ ∀ f g, g < f → ¬ windowsMeet s f g := by
  simp only [WindowsDisjoint, windowsMeet_iff, selected_iff]
  constructor
  · rintro h f g hlt ⟨hf, hg, hfg, hgf⟩
    exact h f g (ne_of_gt hlt) hf hg (max (s.feed f).cfg.beginAddr (s.feed g).cfg.beginAddr)
      ⟨le_max_left .., max_le hf hgf, le_max_right .., max_le hfg hg⟩
  · rintro h f g hne hf hg a ⟨hfa, hae, hga, hag⟩
    rcases lt_or_gt_of_ne hne with hlt | hlt
    · exact h g f hlt ⟨hg, hf, hga.trans hae, hfa.trans hag⟩
    · exact h f g hlt ⟨hf, hg, hfa.trans hag, hga.trans hae⟩

theorem layoutFault_none_iff : layoutFault s = none ↔
    (∀ f, (s.feed f).cfg.selected = true → feedCheck s.storeSize (s.feed f).cfg = none) ∧ WindowsDisjoint s := by
  rw [layoutFault, Option.or_eq_none_iff, firstPass_none_iff, secondPass_none_iff, windowsDisjoint_iff]

theorem layoutFault_some_iff (b : FeedId × ConfigCheck × Option FeedId) :
    layoutFault s = some b ↔ firstPass s = some b ∨ (firstPass s = none ∧ secondPass s = some b) := by
  rw [layoutFault, Option.or_eq_some_iff]

/-! ## The feeds that start (R184) -/

/-- An update of the feeds of a list, each once, leaves at each of them its own update and changes nothing else. -/
theorem foldl_setFeed (u : Feed → Feed) (l : List FeedId) (hl : l.Nodup) (s : State) :
    l.foldl (fun acc f => acc.setFeed f (u (acc.feed f))) s =
      { s with feeds := (l.foldl (fun acc f => acc.setFeed f (u (acc.feed f))) s).feeds } ∧
    ∀ g, (l.foldl (fun acc f => acc.setFeed f (u (acc.feed f))) s).feed g =
      if g ∈ l then u (s.feed g) else s.feed g := by
  induction l generalizing s with
  | nil => exact ⟨rfl, fun g => rfl⟩
  | cons f l ih =>
    obtain ⟨hf, hl⟩ := List.nodup_cons.1 hl
    obtain ⟨hwhole, heach⟩ := ih hl (s.setFeed f (u (s.feed f)))
    refine ⟨hwhole, fun g => (heach g).trans ?_⟩
    by_cases hg : g = f
    · subst hg
      simp [hf]
    · simp [hg]

theorem engageFeeds_eq : engageFeeds s = { s with feeds := (engageFeeds s).feeds } :=
  (foldl_setFeed Feed.engage allFeeds (by decide) s).1

theorem engageFeeds_feed (f : FeedId) : (engageFeeds s).feed f = (s.feed f).engage :=
  ((foldl_setFeed Feed.engage allFeeds (by decide) s).2 f).trans (if_pos (mem_allFeeds f))

theorem exec_engage {s t : State} {st : Status} {result : List Byte} (hr : s.ready) (tag : Byte)
    (h : cmdEngage s = ⟨t, st, result⟩) : exec (.engage tag []) s = answers 7#8 tag t st result :=
  arrive_answers (act := fun _ : Unit => cmdEngage) hr ⟨7#8, tag, []⟩ rfl h

/-- Settles O13: the two passes of the checks, and the start of the selected feeds. -/
theorem engageChecksAndStartsTheFeeds : Obligations.EngageChecksAndStartsTheFeeds := by
  refine ⟨fun s => ⟨fun f => selected_iff _, ?_⟩, ?_, fun s tag hr => ⟨fun he => ?_, fun f check other he hl => ?_,
    fun he hl => ?_⟩⟩
  · simp only [layoutFault_none_iff, feedCheck_none_iff, Nat.not_le, Nat.not_lt]
  · intro s f check other c selected offStore tooSmall overGuard sound meet
    have hsound : ∀ g, feedCheck s.storeSize (s.feed g).cfg = none ↔ sound g := fun g => feedCheck_none_iff ..
    have hsel : ∀ g, (s.feed g).cfg.selected = true ↔ selected g := fun g => selected_iff _
    have hmeet : ∀ a b, windowsMeet s a b ↔ meet a b := windowsMeet_iff s
    rw [layoutFault_some_iff, firstPass_some_iff, firstPass_none_iff, secondPass_some_iff, feedCheck_some_iff]
    simp only [hsound, hsel, hmeet]
    refine or_congr Iff.rfl ⟨?_, ?_⟩
    · rintro ⟨hs, hc, hg⟩
      exact ⟨hc, hs, hg⟩
    · rintro ⟨hc, hs, hg⟩
      exact ⟨hs, hc, hg⟩
  · refine exec_engage hr tag ?_
    simp only [cmdEngage, if_pos he]
    rfl
  · refine exec_engage hr tag ?_
    simp only [cmdEngage, he, reduceCtorEq, if_false, hl]
    cases other <;> rfl
  · have hcmd : cmdEngage s = done { engageFeeds s with engaged := .engaged } false (leBytes 1 1 ++
        allFeeds.map fun f => byteOf ((engageFeeds s).feed f).state.code) := by
      simp only [cmdEngage, he, reduceCtorEq, if_false, hl]
      rfl
    refine ⟨_, exec_engage hr tag hcmd, ?_, fun f => (engageFeeds_feed s f).trans ?_⟩
    · rw [engageFeeds_eq s]
    · by_cases hsel : (s.feed f).cfg.beginAddr ≤ (s.feed f).cfg.endAddr
      · rw [Feed.engage, if_pos ((selected_iff _).2 hsel), if_pos hsel]
        rfl
      · rw [Feed.engage, if_neg fun h => hsel ((selected_iff _).1 h), if_neg hsel]

end Sys2Proof.Machine
end

section
/-!
PROOFS. DISENGAGE at the channels, the feeds and the rest of the part (R22, R104, R185, O14).
-/

-- Proofs checked in turn: side by side they need more threads than the memory limit of check.sh has room for.
set_option Elab.async false

namespace Sys2Proof.Machine

variable {s t : State}

/-! ## The channels (R47, R74, R104) -/

/-- From `m` to `m'` no clip has gone, and the use counts alone have changed. -/
def UseCountsAlone (m m' : SMap Clip) : Prop :=
  ∀ id c, m.find id = some c → ∃ u, m'.find id = some { c with useCount := u }

theorem UseCountsAlone.refl (m : SMap Clip) : UseCountsAlone m m := fun _ c hc => ⟨c.useCount, hc⟩

theorem UseCountsAlone.trans {m m' m'' : SMap Clip} (h : UseCountsAlone m m') (h' : UseCountsAlone m' m'') :
    UseCountsAlone m m'' := fun id c hc => by
  obtain ⟨u, hu⟩ := h id c hc
  obtain ⟨v, hv⟩ := h' id _ hu
  exact ⟨v, hv⟩

theorem UseCountsAlone.release (m : SMap Clip) (id : Nat) (g : Nat → Nat) :
    UseCountsAlone m (m.adjust id fun c => { c with useCount := g c.useCount }) := fun k c hc => by
  rw [SMap.find_adjust, hc]
  split
  · exact ⟨g c.useCount, rfl⟩
  · exact ⟨c.useCount, rfl⟩

/-- A channel that gives up its material changes the use counts of clips and its own record, and nothing else. -/
theorem changeMaterial_none (ch : ChanId) (s : State) : ∃ m qs, changeMaterial ch none s =
    { s with clips := m, chans := qs } ∧ UseCountsAlone s.clips m := by
  unfold changeMaterial takeMaterial releaseMaterial
  dsimp only
  split
  · exact ⟨_, _, rfl, .release s.clips _ (· - 1)⟩
  · exact ⟨_, _, rfl, .refl _⟩

/-- A channel as DISENGAGE leaves it (R104). -/
def Channel.stopped (x : Channel) : Channel := { Channel.reset with pos := x.pos, opts := x.opts }

theorem disengageChan_eq (ch : ChanId) (s : State) : ∃ m qs, disengageChan ch s = { s with clips := m, chans := qs } ∧
    UseCountsAlone s.clips m ∧ ∀ d, (disengageChan ch s).chan d = if d = ch then (s.chan ch).stopped else s.chan d := by
  obtain ⟨m, qs, heq, huse⟩ := changeMaterial_none ch s
  refine ⟨m, qs.set ch ((changeMaterial ch none s).chan ch).disengaged, ?_, huse, fun d => ?_⟩
  · unfold disengageChan
    rw [heq]
    rfl
  · simp only [disengageChan, State.chan_setChan, changeMaterial_chan, if_true]
    split <;> rfl

theorem foldl_disengageChan (l : List ChanId) (hl : l.Nodup) (s : State) : ∃ m qs,
    l.foldl (fun acc ch => disengageChan ch acc) s = { s with clips := m, chans := qs } ∧ UseCountsAlone s.clips m ∧
      ∀ d, (l.foldl (fun acc ch => disengageChan ch acc) s).chan d = if d ∈ l then (s.chan d).stopped else s.chan d := by
  induction l generalizing s with
  | nil => exact ⟨_, _, rfl, .refl _, fun d => rfl⟩
  | cons ch l ih =>
    obtain ⟨hch, hl⟩ := List.nodup_cons.1 hl
    obtain ⟨m, qs, heq, huse, hchan⟩ := disengageChan_eq ch s
    obtain ⟨m', qs', heq', huse', hchan'⟩ := ih hl (disengageChan ch s)
    refine ⟨m', qs', heq'.trans ?_, huse.trans ?_, fun d => (hchan' d).trans ?_⟩
    · rw [heq]
    · rwa [heq] at huse'
    · by_cases hd : d = ch
      · subst hd
        simp [hch, hchan]
      · simp [hd, hchan]

/-! ## The feeds (R10, R17, R22) -/

theorem afterFinish_nil {x : Feed} {l : List ClosedFrame} (h : x.closing = l) : x.afterFinish [] l = x := by
  subst h
  rfl

theorem afterFinish_append (x : Feed) (done done' mid left : List ClosedFrame) :
    (x.afterFinish done mid).afterFinish done' left = x.afterFinish (done ++ done') left := by
  simp only [Feed.afterFinish, List.getLast?_append, List.foldl_append]
  cases done'.getLast? <;> rfl

/-- A pending frame with TRUNCATED marked. -/
def ClosedFrame.cut (p : ClosedFrame) : ClosedFrame := { p with cause := some (p.cause.getD .truncated) }

theorem finishFront_eq (f : FeedId) (p : ClosedFrame) (s : State) : finishFront f p s =
    raiseFinished f [p] (s.setFeed f ((s.feed f).afterFinish [p] ((s.feed f).closing.drop 1))) := rfl

theorem finishTruncated_eq (f : FeedId) {l : List ClosedFrame} (h : (s.feed f).closing = l) :
    finishTruncated f l s =
      raiseFinished f (l.map .cut) (s.setFeed f ((s.feed f).afterFinish (l.map .cut) [])) := by
  induction l generalizing s with
  | nil =>
    show s = s.setFeed f _
    rw [List.map_nil, afterFinish_nil h, setFeed_eq]
  | cons p l ih =>
    have hcut : { p with cause := firstCause p.cause .truncated } = p.cut := by rw [firstCause_eq]; rfl
    have hdrop : (s.feed f).closing.drop 1 = l := by rw [h]; rfl
    have hfeed : (finishFront f p.cut s).feed f = (s.feed f).afterFinish [p.cut] l := by
      rw [finishFront_eq, raiseFinished_feed, State.feed_setFeed, if_pos rfl, hdrop]
    rw [finishTruncated, hcut, ih (by rw [hfeed]; rfl), hfeed, afterFinish_append, finishFront_eq, raiseFinished_setFeed,
      State.setFeed_setFeed]
    simp only [raiseFinished_eq_tell, ← tell_append, ← List.flatMap_append]
    rfl

theorem finishTruncated_after {f : FeedId} {left : List ClosedFrame} {y : Feed} (h : y.closing = left)
    (done : List ClosedFrame) (s : State) : finishTruncated f left (raiseFinished f done (s.setFeed f y)) =
      raiseFinished f (done ++ left.map .cut) (s.setFeed f (y.afterFinish (left.map .cut) [])) := by
  have hfeed : (raiseFinished f done (s.setFeed f y)).feed f = y := by
    rw [raiseFinished_feed, State.feed_setFeed, if_pos rfl]
  rw [finishTruncated_eq f (by rw [hfeed, h]), hfeed, raiseFinished_setFeed, State.setFeed_setFeed]
  simp only [raiseFinished_eq_tell, ← tell_append, ← List.flatMap_append]

/-- The frames that finish at a feed on DISENGAGE, in order: first those with all fragments written, then the rest with
TRUNCATED marked (R22). -/
def Feed.EndsWith (x : Feed) (all : List ClosedFrame) : Prop :=
  (x.openFrame = none ∧ all = x.closing.map .cut) ∨
    ∃ o done left, x.openFrame = some o ∧
      FinishSplit (x.closing ++ [o.closedWith (some .truncated) x.cfg.stride]) x.buffer done left ∧
      all = done ++ left.map .cut

theorem Feed.exists_endsWith (x : Feed) : ∃ all, x.EndsWith all := by
  cases ho : x.openFrame with
  | none => exact ⟨_, .inl ⟨ho, rfl⟩⟩
  | some o =>
    obtain ⟨done, left, hs⟩ := exists_finishSplit (x.closing ++ [o.closedWith (some .truncated) x.cfg.stride]) x.buffer
    exact ⟨_, .inr ⟨o, done, left, ho, hs, rfl⟩⟩

/-- A feed as DISENGAGE leaves it, once the frames `all` have finished (R22). -/
def Feed.stopped (x : Feed) (all : List ClosedFrame) : Feed :=
  { x.afterFinish all [] with openFrame := none, buffer := [], state := .off, urgent := false }

/-- The part of DISENGAGE at a feed that follows the close of its open frame. -/
theorem disengageFeed_after_close {f : FeedId} {done left : List ClosedFrame} {x : Feed}
    (h : closeFrame f (some .truncated) s = raiseFinished f done (s.setFeed f { x.afterFinish done left with
      openFrame := none })) :
    disengageFeed f s = raiseFinished f (done ++ left.map .cut) (s.setFeed f (x.stopped (done ++ left.map .cut))) := by
  have hfeed : (closeFrame f (some .truncated) s).feed f = { x.afterFinish done left with openFrame := none } := by
    rw [h, raiseFinished_feed, State.feed_setFeed, if_pos rfl]
  have hempty : (closeFrame f (some .truncated) s).setFeed f
      { (closeFrame f (some .truncated) s).feed f with buffer := [] } = raiseFinished f done (s.setFeed f
        { x.afterFinish done left with openFrame := none, buffer := [] }) := by
    rw [hfeed, h, raiseFinished_setFeed, State.setFeed_setFeed]
  have hstopped : x.stopped (done ++ left.map .cut) = { ({ x.afterFinish done left with
      openFrame := none, buffer := [] } : Feed).afterFinish (left.map .cut) [] with
      state := .off, urgent := false } := by
    rw [Feed.stopped, ← afterFinish_append (mid := left)]
    rfl
  unfold disengageFeed
  dsimp only
  rw [hempty, raiseFinished_feed, State.feed_setFeed, if_pos rfl]
  dsimp only [Feed.afterFinish]
  rw [finishTruncated_after (by rfl), raiseFinished_feed, State.feed_setFeed, if_pos rfl, raiseFinished_setFeed,
    State.setFeed_setFeed, hstopped]
  rfl

theorem disengageFeed_eq {f : FeedId} {all : List ClosedFrame} (h : (s.feed f).EndsWith all) :
    disengageFeed f s = raiseFinished f all (s.setFeed f ((s.feed f).stopped all)) := by
  rcases h with ⟨ho, rfl⟩ | ⟨o, done, left, ho, hs, rfl⟩
  · refine disengageFeed_after_close (done := []) (left := (s.feed f).closing) ?_
    have hx : { (s.feed f).afterFinish [] (s.feed f).closing with openFrame := none } = s.feed f := by
      simp only [Feed.afterFinish, List.getLast?_nil, List.foldl_nil, ← ho]
    rw [closeFrame_none ho, hx, setFeed_eq]
    rfl
  · exact disengageFeed_after_close (closeFrame_finishes ho _ hs)

/-! ## The cell of INGEST_DAMAGE (R17, R195) -/

theorem tell_cell_other {l : List (Nat × Detail)} {i : Nat} (h : ∀ p ∈ l, i ≠ cellIndex p.2.cls p.1) (s : State) :
    (tell l s).cell i = s.cell i := by
  induction l generalizing s with
  | nil => rfl
  | cons p l ih =>
    obtain ⟨hp, hl⟩ := List.forall_mem_cons.1 h
    exact (ih hl _).trans ((raise_cell ..).trans (if_neg fun e => hp e.1))

theorem tell_concat_cell (l : List (Nat × Detail)) (u : Nat) (d : Detail) {s : State}
    (h : cellIndex d.cls u < s.cells.length) :
    ((tell (l ++ [(u, d)]) s).cell (cellIndex d.cls u)).latch = true ∧
      ((tell (l ++ [(u, d)]) s).cell (cellIndex d.cls u)).detail = some d := by
  rw [tell_append]
  show ((raise u d (tell l s)).cell _).latch = true ∧ ((raise u d (tell l s)).cell _).detail = some d
  rw [raise_cell, if_pos ⟨rfl, by rwa [tell_cells_length]⟩]
  exact ⟨rfl, rfl⟩

/-- The cell `after` is `before` with the notices of the frames `all` taken: the last that finished DAMAGED stands. -/
def ShowsLast (all : List ClosedFrame) (before after : Cell) : Prop :=
  match (all.filter fun p => p.finalCause.isSome).getLast? with
  | none => after = before
  | some p => after.latch = true ∧ after.detail = p.finalCause.map (.ingestDamage p.number)

theorem flatMap_damageNotice (f : FeedId) (all : List ClosedFrame) :
    all.flatMap (damageNotice f) = (all.filter fun p => p.finalCause.isSome).flatMap (damageNotice f) := by
  induction all with
  | nil => rfl
  | cons p l ih =>
    rw [List.flatMap_cons, ih, List.filter_cons]
    cases h : p.finalCause with
    | none => simp [damageNotice, h]
    | some c => simp

theorem raiseFinished_showsLast (f : FeedId) (all : List ClosedFrame) (h : s.cells.length = 54) :
    ShowsLast all (s.cell (32 + f.val)) ((raiseFinished f all s).cell (32 + f.val)) := by
  rw [ShowsLast, raiseFinished_eq_tell, flatMap_damageNotice]
  rcases List.eq_nil_or_concat (all.filter fun p => p.finalCause.isSome) with hnil | ⟨l, p, hlast⟩
  · rw [hnil]
    rfl
  · have hp : p.finalCause.isSome = true := by
      have hmem : p ∈ all.filter fun p => p.finalCause.isSome := by rw [hlast]; simp
      exact (List.mem_filter.1 hmem).2
    rw [List.concat_eq_append] at hlast
    obtain ⟨c, hc⟩ := Option.isSome_iff_exists.1 hp
    have hnotice : damageNotice f p = [(f.val, .ingestDamage p.number c)] := by simp [damageNotice, hc]
    rw [hlast, List.flatMap_append, List.flatMap_singleton, hnotice]
    simp only [List.getLast?_append_of_ne_nil, List.getLast?_singleton, hc, ne_eq, List.cons_ne_nil, not_false_eq_true]
    refine tell_concat_cell (l.flatMap (damageNotice f)) f.val (.ingestDamage p.number c) ?_
    rw [h]
    show 32 + f.val < 54
    omega

theorem raiseFinished_cell_other {f : FeedId} {i : Nat} (h : i ≠ 32 + f.val) (all : List ClosedFrame) (s : State) :
    (raiseFinished f all s).cell i = s.cell i := by
  rw [raiseFinished_eq_tell]
  refine tell_cell_other (fun p hp => ?_) s
  obtain ⟨q, -, hq⟩ := List.mem_flatMap.1 hp
  obtain ⟨c, -, rfl⟩ := List.mem_map.1 hq
  exact h

/-! ## All feeds in turn (R185) -/

/-- What a state shows of a feed after DISENGAGE at it in state `s`: its record and its cell of INGEST_DAMAGE. -/
structure FeedStopped (f : FeedId) (s t : State) : Prop where
  feed : ∀ all, (s.feed f).EndsWith all → t.feed f = (s.feed f).stopped all
  cell : ∀ all, (s.feed f).EndsWith all → s.cells.length = 54 → ShowsLast all (s.cell (32 + f.val)) (t.cell (32 + f.val))

/-- A state shows of a feed, its record and its cell of INGEST_DAMAGE, what another shows. -/
structure FeedShown (f : FeedId) (s t : State) : Prop where
  feed : t.feed f = s.feed f
  cell : t.cell (32 + f.val) = s.cell (32 + f.val)

theorem FeedStopped.before {f : FeedId} {s s' t : State} (h : FeedStopped f s' t) (hs : FeedShown f s s')
    (hl : s'.cells.length = s.cells.length) : FeedStopped f s t where
  feed all ha := (h.feed all (by rwa [hs.feed])).trans (by rw [hs.feed])
  cell all ha hc := by
    rw [← hs.cell]
    exact h.cell all (by rwa [hs.feed]) (hl.trans hc)

theorem FeedStopped.after {f : FeedId} {s t t' : State} (h : FeedStopped f s t) (ht : FeedShown f t t') :
    FeedStopped f s t' where
  feed all ha := ht.feed.trans (h.feed all ha)
  cell all ha hc := by
    rw [ht.cell]
    exact h.cell all ha hc

theorem disengageFeed_stopped (f : FeedId) (s : State) : FeedStopped f s (disengageFeed f s) where
  feed all ha := by rw [disengageFeed_eq ha, raiseFinished_feed, State.feed_setFeed, if_pos rfl]
  cell all ha hc := by
    rw [disengageFeed_eq ha]
    exact raiseFinished_showsLast f all hc

theorem disengageFeed_ingested (f : FeedId) (s : State) : Ingested f s (disengageFeed f s) := by
  obtain ⟨all, ha⟩ := (s.feed f).exists_endsWith
  rw [disengageFeed_eq ha, raiseFinished_eq_tell]
  exact ((Ingested.refl f s).setFeed _).tell _

theorem disengageFeed_shown {f g : FeedId} (h : g ≠ f) (s : State) : FeedShown g s (disengageFeed f s) where
  feed := (disengageFeed_ingested f s).others g h
  cell := by
    obtain ⟨all, ha⟩ := (s.feed f).exists_endsWith
    rw [disengageFeed_eq ha]
    exact raiseFinished_cell_other (fun e => h (Fin.ext (by omega))) all _

theorem foldl_disengageFeed (l : List FeedId) (hl : l.Nodup) (s : State) :
    let t := l.foldl (fun acc f => disengageFeed f acc) s
    (∃ fs cs k, t = { s with feeds := fs, cells := cs, link := k }) ∧ t.cells.length = s.cells.length ∧
      (∀ f, f ∉ l → FeedShown f s t) ∧ ∀ f, f ∈ l → FeedStopped f s t := by
  induction l generalizing s with
  | nil => exact ⟨⟨_, _, _, rfl⟩, rfl, fun f _ => ⟨rfl, rfl⟩, by simp⟩
  | cons f l ih =>
    obtain ⟨hf, hl⟩ := List.nodup_cons.1 hl
    have hi := disengageFeed_ingested f s
    obtain ⟨⟨fs, cs, k, hwhole⟩, hlen, hout, hin⟩ := ih hl (disengageFeed f s)
    refine ⟨⟨fs, cs, k, hwhole.trans ?_⟩, hlen.trans hi.length, fun g hg => ?_, fun g hg => ?_⟩
    · rw [hi.eq]
    · obtain ⟨hgf, hgl⟩ := not_or.1 (List.mem_cons.not.1 hg)
      have h := disengageFeed_shown hgf s
      have h' := hout g hgl
      exact ⟨h'.feed.trans h.feed, h'.cell.trans h.cell⟩
    · by_cases hgf : g = f
      · subst hgf
        exact (disengageFeed_stopped g s).after (hout g hf)
      · exact (hin g ((List.mem_cons.1 hg).resolve_left hgf)).before (disengageFeed_shown hgf s) hi.length

theorem exec_disengage {result : List Byte} {st : Status} (hr : s.ready) (tag : Byte)
    (h : cmdDisengage s = ⟨t, st, result⟩) : exec (.disengage tag []) s = answers 8#8 tag t st result :=
  arrive_answers (act := fun _ : Unit => cmdDisengage) hr ⟨8#8, tag, []⟩ rfl h

theorem mem_allChans : ∀ ch : ChanId, ch ∈ allChans := by decide

/-- DISENGAGE at the channels, then at the feeds, then at the rest of the part (R185). -/
theorem disengageAll_parts (s : State) : ∃ u v : State,
    disengageAll s = { v with cache := v.cache.disengage, arbiter := Arbiter.reset, engaged := .disengaged } ∧
      (∃ m qs, u = { s with gangs := Quad.all [], clips := m, chans := qs } ∧ UseCountsAlone s.clips m) ∧
      (∀ ch, u.chan ch = (s.chan ch).stopped) ∧
      (∃ fs cs k, v = { u with feeds := fs, cells := cs, link := k }) ∧ ∀ f, FeedStopped f u v := by
  obtain ⟨m, qs, hchans, huse, hchan⟩ := foldl_disengageChan allChans (by decide) (dissolveAll s)
  obtain ⟨hwhole, -, -, hfeed⟩ := foldl_disengageFeed allFeeds (by decide)
    (allChans.foldl (fun acc ch => disengageChan ch acc) (dissolveAll s))
  exact ⟨_, _, rfl, ⟨m, qs, hchans, huse⟩, fun ch => (hchan ch).trans (if_pos (mem_allChans ch)), hwhole,
    fun f => hfeed f (mem_allFeeds f)⟩

/-- Settles O14, from what each part of DISENGAGE leaves. -/
theorem disengageStopsEveryBlock : Obligations.DisengageStopsEveryBlock := by
  intro s tag hr
  refine ⟨fun he => exec_disengage hr tag ?_, fun he => ?_⟩
  · simp only [cmdDisengage, he, reduceCtorEq, if_false]
    rfl
  · obtain ⟨u, v, hall, ⟨m, qs, rfl, huse⟩, hchan, ⟨fs, cs, k, rfl⟩, hfeed⟩ := disengageAll_parts s
    have hcmd : cmdDisengage s = ⟨disengageAll s, .ok, [0#8]⟩ := by
      simp only [cmdDisengage, if_pos he, hall]
      rfl
    rw [hall] at hcmd
    refine ⟨_, exec_disengage hr tag hcmd, rfl, fun g => Quad.get_all .., hchan, fun f => ?_, rfl, rfl, rfl,
      fun ch => Quad.get_all .., rfl, rfl, rfl, rfl, rfl, rfl, rfl, rfl, huse, fun f => ⟨fun ho => ?_, ?_⟩⟩
    · obtain ⟨all, ha⟩ := (s.feed f).exists_endsWith
      have hx : fs.get f = (s.feed f).stopped all := (hfeed f).feed all ha
      simp only [State.feed, hx]
      exact ⟨rfl, rfl, rfl, rfl, rfl, rfl, rfl⟩
    · have ha : (s.feed f).EndsWith ((s.feed f).closing.map .cut) := .inl ⟨ho, rfl⟩
      exact ⟨(hfeed f).feed _ ha, (hfeed f).cell _ ha⟩
    · intro o done left ho last hs
      have ha : (s.feed f).EndsWith (done ++ left.map .cut) := .inr ⟨o, done, left, ho, hs, rfl⟩
      exact ⟨(hfeed f).feed _ ha, (hfeed f).cell _ ha⟩

end Sys2Proof.Machine
end

section
/-!
PROOFS. The records that the reads answer with (R23, R24, R93, R101, R202): every record as the list of its fields, and
the field that stands at an offset.
-/

-- Proofs checked in turn: side by side they need more threads than the memory limit of check.sh has room for.
set_option Elab.async false

namespace Sys2Proof.Machine

/-! ## Fields at their offsets (R200) -/

/-- Of a record made of fields of known lengths, the field that stands at an offset. -/
theorem field_at {r : List Byte} {fields : List (List Byte)} {lengths : List Nat} (hr : r = fields.flatten)
    (hl : fields.map List.length = lengths) (k : Nat) {o w : Nat} {v : List Byte} (hv : fields[k]? = some v)
    (ho : (lengths.take k).sum = o) (hw : lengths[k]? = some w) : (r.drop o).take w = v := by
  subst hr hl ho
  induction fields generalizing k with
  | nil => simp at hv
  | cons x xs ih =>
    cases k with
    | zero =>
      simp only [List.getElem?_cons_zero, Option.some.injEq] at hv
      simp only [List.map_cons, List.getElem?_cons_zero, Option.some.injEq] at hw
      subst hv hw
      simp
    | succ k =>
      have h := ih k hv hw
      rw [List.flatten_cons, List.map_cons, List.take_succ_cons, List.sum_cons, List.drop_append,
        List.drop_eq_nil_of_le (Nat.le_add_right ..), Nat.add_sub_cancel_left]
      exact h

theorem length_of_fields {r : List Byte} {fields : List (List Byte)} {lengths : List Nat} (hr : r = fields.flatten)
    (hl : fields.map List.length = lengths) : r.length = lengths.sum := by
  subst hr hl
  exact List.length_flatten

/-- A part of a part of a record. -/
theorem part_of_part (r : List Byte) {o w a b : Nat} (h : a + b ≤ w) :
    (((r.drop o).take w).drop a).take b = (r.drop (o + a)).take b := by
  rw [List.drop_take, List.drop_drop, List.take_take, Nat.min_eq_left (by omega)]

@[simp] theorem optBytes_length (w : Nat) (v : Option Nat) : (optBytes w v).length = w + 1 := by
  cases v <;> simp [optBytes]

/-- The numbers of the bits that are set, by their places. -/
theorem flagByte_eq_sum (l : List Bool) : flagByte l = (l.zipIdx.map fun p => if p.1 then 2 ^ p.2 else 0).sum := by
  have key : ∀ (l : List Bool) (k : Nat),
      2 ^ k * flagByte l = ((l.zipIdx k).map fun p => if p.1 then 2 ^ p.2 else 0).sum := by
    intro l
    induction l with
    | nil => intro k; rfl
    | cons b l ih =>
      intro k
      rw [List.zipIdx_cons, List.map_cons, List.sum_cons, ← ih (k + 1), flagByte, pow_succ]
      cases b <;> simp <;> ring
  simpa using key l 0

/-! ## The clip record (R24, 44 bytes) -/

/-- The angle list of a clip record: five bytes for each of three angles. -/
def angleBytes (l : List Angle) : List Byte :=
  ((l.flatMap fun a => leBytes 1 a.feed.val ++ leInt 4 a.offset) ++ List.replicate 15 0#8).take 15

theorem angleBytes_length (l : List Angle) : (angleBytes l).length = 15 := by simp [angleBytes]

theorem angleBytes_at {l : List Angle} (hl : l.length ≤ 3) {i : Nat} (hi : i < 3) :
    ((angleBytes l).drop (5 * i)).take 5 =
      match l[i]? with
      | none => List.replicate 5 0#8
      | some a => byteOf a.feed.val :: leInt 4 a.offset := by
  match l, hl with
  | [], _ => interval_cases i <;> rfl
  | [_], _ => interval_cases i <;> rfl
  | [_, _], _ => interval_cases i <;> rfl
  | [_, _, _], _ => interval_cases i <;> rfl

def clipFields (id : Nat) (c : Clip) : List (List Byte) :=
  [leBytes 2 id, leBytes 1 c.state.code, leBytes 1 c.feed.val, leBytes 4 c.markIn, optBytes 4 c.markOut,
   optBytes 4 c.prevIn, leBytes 1 (flagByte [c.swapped, c.defaulted, c.clampedFlag, c.warned]), leInt 4 c.nominal,
   leBytes 1 c.endMode.code, [boolByte c.watch], leBytes 2 c.label, leBytes 1 c.angles.length, angleBytes c.angles,
   leBytes 1 c.useCount]

def clipLengths : List Nat := [2, 1, 1, 4, 5, 5, 1, 4, 1, 1, 2, 1, 15, 1]

theorem clip_bytes_eq (id : Nat) (c : Clip) : c.bytes id = (clipFields id c).flatten := by
  simp [Clip.bytes, clipFields, angleBytes]

theorem clipFields_lengths (id : Nat) (c : Clip) : (clipFields id c).map List.length = clipLengths := by
  simp [clipFields, clipLengths, angleBytes_length]

/-- Field `k` of the clip record, at its offset. -/
theorem clip_field_at (id : Nat) (c : Clip) (k : Nat) {o w : Nat} {v : List Byte} (hv : (clipFields id c)[k]? = some v)
    (ho : (clipLengths.take k).sum = o) (hw : clipLengths[k]? = some w) : ((c.bytes id).drop o).take w = v :=
  field_at (clip_bytes_eq id c) (clipFields_lengths id c) k hv ho hw

/-! ## The feed status record (R23, 57 bytes) -/

def feedFields (x : Feed) : List (List Byte) :=
  [leBytes 1 x.state.code, [boolByte x.cfg.selected], leBytes 4 x.cfg.beginAddr, leBytes 4 x.cfg.endAddr,
   leBytes 4 x.cfg.depth, leBytes 1 x.cfg.stride, leBytes 1 x.cfg.guard, leBytes 2 x.cfg.warn, leBytes 8 x.nextFrame,
   optBytes 4 x.head, leBytes 8 x.tail, optBytes 4 (if x.nextFrame = 0 then none else some x.oldest),
   leBytes 1 x.buffer.length, [boolByte x.urgent], optBytes 4 (x.openFrame.map (·.number)),
   leBytes 4 x.closing.length, optBytes 1 (x.lastCause.map (·.code))]

def feedLengths : List Nat := [1, 1, 4, 4, 4, 1, 1, 2, 8, 5, 8, 5, 1, 1, 5, 4, 2]

theorem feed_bytes_eq (x : Feed) : x.bytes = (feedFields x).flatten := by
  simp [Feed.bytes, feedFields]

theorem feedFields_lengths (x : Feed) : (feedFields x).map List.length = feedLengths := by
  simp [feedFields, feedLengths]

/-- Field `k` of the feed status record, at its offset. -/
theorem feed_field_at (x : Feed) (k : Nat) {o w : Nat} {v : List Byte} (hv : (feedFields x)[k]? = some v)
    (ho : (feedLengths.take k).sum = o) (hw : feedLengths[k]? = some w) : (x.bytes.drop o).take w = v :=
  field_at (feed_bytes_eq x) (feedFields_lengths x) k hv ho hw

/-! ## The channel status record (R101, 76 bytes) -/

/-- The shown frame of the last record (R93). -/
def shownBytes : Option Shown → List Byte
  | none => List.replicate 11 0#8
  | some x => leBytes 1 x.feed.val ++ leBytes 4 x.frame ++ optBytes 4 x.partner ++ leBytes 1 x.weight

/-- The cause of a repeated record, 0 for none (R93). -/
def repeatCode : Option RepeatCause → Nat
  | none => 0
  | some k => k.code

def channelFields (s : State) (ch : ChanId) : List (List Byte) :=
  let x := s.chan ch
  let o := x.opts
  [leBytes 1 x.state.code, materialBytes x.material, leBytes 8 x.pos, leInt 4 x.speed, leInt 4 x.target,
   leInt 2 x.lever, windowBytes x.window,
   leBytes 1 (flagByte [x.atLive, x.atTail, x.slaveClamped, s.panel.glitch && s.panel.bound == ch, x.preload]),
   leInt 2 x.jog, optBytes 4 (x.cueWait.map (·.frame)),
   leBytes 1 (flagByte [x.lastRec.shown.isSome, x.lastRec.repeated.isSome, x.lastRec.blendDropped]),
   shownBytes x.lastRec.shown, leBytes 1 (repeatCode x.lastRec.repeated),
   optBytes 2 (x.lastRec.shown.bind (·.clip)), leBytes 1 (s.cache.activeFills ch), leBytes 1 o.level,
   leBytes 1 (flagByte [o.burst, o.fairness, o.blend, o.followLive, o.fetchMode == .and]),
   leBytes 1 o.lookahead ++ leBytes 1 o.preloadDepth ++ leBytes 1 o.idlePicture.code ++ leBytes 1 o.idleFeed.val ++
     leBytes 2 o.ramp ++ leBytes 2 o.jogStep,
   gangBytes s ch]

def channelLengths : List Nat := [1, 3, 8, 4, 4, 2, 9, 1, 2, 5, 1, 11, 1, 3, 1, 1, 1, 8, 10]

theorem record_bytes_eq (r : PresRecord) :
    r.bytes = leBytes 1 (flagByte [r.shown.isSome, r.repeated.isSome, r.blendDropped]) ++
      shownBytes r.shown ++ leBytes 1 (repeatCode r.repeated) ++ optBytes 2 (r.shown.bind (·.clip)) := by
  obtain ⟨shown, repeated, dropped⟩ := r
  cases shown <;> cases repeated <;> rfl

theorem channel_bytes_eq (s : State) (ch : ChanId) : channelBytes s ch = (channelFields s ch).flatten := by
  unfold channelBytes channelFields
  simp only [record_bytes_eq, List.flatten_cons, List.flatten_nil, List.append_nil]
  simp only [List.append_assoc]

theorem materialBytes_length (m : Option Material) : (materialBytes m).length = 3 := by
  rcases m with _ | _ | _ <;> simp [materialBytes]

theorem windowBytes_length (w : Option Window) : (windowBytes w).length = 9 := by
  cases w <;> simp [windowBytes]

theorem shownBytes_length (x : Option Shown) : (shownBytes x).length = 11 := by
  cases x <;> simp [shownBytes]

theorem gangBytes_length (s : State) (ch : ChanId) : (gangBytes s ch).length = 10 := by
  unfold gangBytes
  split <;> simp

theorem channelFields_lengths (s : State) (ch : ChanId) : (channelFields s ch).map List.length = channelLengths := by
  simp [channelFields, channelLengths, materialBytes_length, windowBytes_length, shownBytes_length, gangBytes_length]

/-- Field `k` of the channel status record, at its offset. -/
theorem channel_field_at (s : State) (ch : ChanId) (k : Nat) {o w : Nat} {v : List Byte}
    (hv : (channelFields s ch)[k]? = some v) (ho : (channelLengths.take k).sum = o) (hw : channelLengths[k]? = some w) :
    ((channelBytes s ch).drop o).take w = v :=
  field_at (channel_bytes_eq s ch) (channelFields_lengths s ch) k hv ho hw

/-! ## The gang fields of the channel record (R105) -/

theorem gangBytes_slave {s : State} {ch m : ChanId} {g : GangSlave} (h : masterOf s ch = some (m, g)) :
    gangBytes s ch = [2#8, byteOf m.val] ++ leInt 4 g.offset ++ List.replicate 4 0#8 := by
  simp only [gangBytes, h]
  rfl

theorem gangBytes_alone {s : State} {ch : ChanId} (h : masterOf s ch = none) (hs : s.gangs.get ch = []) :
    gangBytes s ch = List.replicate 10 0#8 := by
  simp only [gangBytes, h, hs]
  rfl

theorem gangBytes_master {s : State} {ch : ChanId} (h : masterOf s ch = none) (hs : s.gangs.get ch ≠ [])
    (hl : (s.gangs.get ch).length ≤ 3) : gangBytes s ch =
      [1#8, 0#8, 0#8, 0#8, 0#8, 0#8, byteOf (s.gangs.get ch).length] ++ (s.gangs.get ch).map (fun g => byteOf g.ch.val) ++
        List.replicate (3 - (s.gangs.get ch).length) 0#8 := by
  have htake : (((s.gangs.get ch).map fun g => byteOf g.ch.val) ++ List.replicate 3 0#8).take 3 =
      (s.gangs.get ch).map (fun g => byteOf g.ch.val) ++ List.replicate (3 - (s.gangs.get ch).length) 0#8 := by
    rw [List.take_append, List.take_of_length_le (by simpa using hl), List.take_replicate, List.length_map,
      Nat.min_eq_left (Nat.sub_le ..)]
  simp only [gangBytes, h, if_neg hs, htake]
  rfl

end Sys2Proof.Machine
end

section
/-!
PROOFS. The reads and their answers (R41, R42, R124, R23, R101, R199, O34).
-/

-- Proofs checked in turn: side by side they need more threads than the memory limit of check.sh has room for.
set_option Elab.async false

namespace Sys2Proof.Machine

variable {s t : State} {st : Status} {result : List Byte}

/-! ## The bodies of the reads (R200, R201) -/

theorem parseClipId_leBytes {id : Nat} (h : id < 65536) : parseClipId (leBytes 2 id) = some id := by
  have hid : takeU 2 (leBytes 2 id) = some (id, []) := by simpa using takeU_leBytes 2 id [] (by simpa using h)
  simp only [parseClipId, hid, Option.bind_eq_bind, Option.bind_some, bodyEnd_nil]

theorem parseListClips_body {id : Nat} (h : id < 65536) (count : Byte) :
    parseListClips (leBytes 2 id ++ [count]) = some (id, count.toNat) := by
  simp only [parseListClips, takeU_leBytes 2 id [count] (by simpa using h), takeU_one, Option.bind_eq_bind,
    Option.bind_some, bodyEnd_nil]

theorem exec_readClip (hr : s.ready) (tag : Byte) {id : Nat} (hid : id < 65536)
    (h : cmdReadClip id s = ⟨t, st, result⟩) :
    exec (.readClip tag (leBytes 2 id)) s = answers 27#8 tag t st result :=
  arrive_answers (act := cmdReadClip) hr ⟨27#8, tag, leBytes 2 id⟩ (parseClipId_leBytes hid) h

theorem exec_listClips (hr : s.ready) (tag : Byte) {id : Nat} (hid : id < 65536) (count : Byte)
    (h : cmdListClips id count.toNat s = ⟨t, st, result⟩) :
    exec (.listClips tag (leBytes 2 id ++ [count])) s = answers 28#8 tag t st result :=
  arrive_answers (act := fun a : Nat × Nat => cmdListClips a.1 a.2) hr ⟨28#8, tag, leBytes 2 id ++ [count]⟩
    (parseListClips_body hid count) h

theorem exec_readList (hr : s.ready) (tag n : Byte) (h : cmdReadList n.toNat s = ⟨t, st, result⟩) :
    exec (.readList tag [n]) s = answers 33#8 tag t st result :=
  arrive_answers (act := cmdReadList) hr ⟨33#8, tag, [n]⟩ rfl h

theorem exec_readChannel (hr : s.ready) (tag n : Byte) (h : cmdReadChannel n.toNat s = ⟨t, st, result⟩) :
    exec (.readChannel tag [n]) s = answers 34#8 tag t st result :=
  arrive_answers (act := cmdReadChannel) hr ⟨34#8, tag, [n]⟩ rfl h

theorem exec_readFeed (hr : s.ready) (tag n : Byte) (h : cmdReadFeed n.toNat s = ⟨t, st, result⟩) :
    exec (.readFeed tag [n]) s = answers 35#8 tag t st result :=
  arrive_answers (act := cmdReadFeed) hr ⟨35#8, tag, [n]⟩ rfl h

theorem exec_readNotices (hr : s.ready) (tag n : Byte) (h : cmdReadNotices n.toNat s = ⟨t, st, result⟩) :
    exec (.readNotices tag [n]) s = answers 36#8 tag t st result :=
  arrive_answers (act := cmdReadNotices) hr ⟨36#8, tag, [n]⟩ rfl h

theorem byteOf_toNat_of_lt {n : Nat} (h : n < 256) : (byteOf n).toNat = n := by
  rw [byteOf_toNat, Nat.mod_eq_of_lt h]

/-! ## READ_CLIP and LIST_CLIPS (R41, R42) -/

theorem cmdReadClip_found {id : Nat} {c : Clip} (h : id < 1024) (hc : SMap.find s.clips id = some c) :
    cmdReadClip id s = done s false (c.bytes id) := by
  simp only [cmdReadClip, Config.clipRecords, if_neg (Nat.not_le_of_lt h), hc]

theorem cmdReadClip_free {id : Nat} (h : id < 1024) (hc : SMap.find s.clips id = none) :
    cmdReadClip id s = refuse s .notFound := by
  simp only [cmdReadClip, Config.clipRecords, if_neg (Nat.not_le_of_lt h), hc]

theorem clampNat_ne_iff {lo hi : Nat} (h : lo ≤ hi) (n : Nat) :
    (clampNat lo hi n != n) = decide (n < lo ∨ hi < n) := by
  rw [Bool.eq_iff_iff, bne_iff_ne, decide_eq_true_iff, clampNat]
  omega

theorem continueId_bytes (found : List (Nat × Clip)) (n : Nat) : optBytes 2 (continueId found n) =
    match found.getLast? with
    | some r => if found.length = n ∧ r.1 < 1023 then 1#8 :: leBytes 2 (r.1 + 1) else [0#8, 0#8, 0#8]
    | none => [0#8, 0#8, 0#8] := by
  unfold continueId
  cases found.getLast? with
  | none => rfl
  | some r =>
    have hand : (found.length = n && decide (r.1 < 1023)) = true ↔ found.length = n ∧ r.1 < 1023 := by simp
    by_cases h : found.length = n ∧ r.1 < 1023
    · dsimp only
      rw [if_pos h, if_pos (hand.2 h)]
      rfl
    · dsimp only
      rw [if_neg h, if_neg fun e => h (hand.1 e)]
      rfl

/-! ## READ_LIST (R124) -/

theorem cue_bytes (s : State) (e : CueEntry) : e.bytes (clipState s e.clip) =
    leBytes 2 e.clip ++
      (match e.speed with | none => [0#8, 0#8, 0#8, 0#8, 0#8] | some v => 1#8 :: leInt 4 v) ++
      [byteOf (match SMap.find s.clips e.clip with | none => 0 | some c => c.state.code)] := by
  obtain ⟨clip, speed⟩ := e
  unfold clipState CueEntry.bytes
  cases speed <;> cases SMap.find s.clips clip <;> rfl

theorem cmdReadList_eq (s : State) (ch : ChanId) : cmdReadList ch.val s = done s false
    (leBytes 1 (s.lists.get ch).length ++ (s.lists.get ch).flatMap fun e => e.bytes (clipState s e.clip)) := by
  simp only [cmdReadList, chanOf?_val]

/-! ## READ_FEED and READ_CHANNEL (R23, R101, R175) -/

theorem cmdReadFeed_eq (s : State) (f : FeedId) : cmdReadFeed f.val s = done s false (s.feed f).bytes := by
  simp only [cmdReadFeed, feedOf?_val]

theorem cmdReadChannel_eq (s : State) (ch : ChanId) : cmdReadChannel ch.val s = done
    { s with panel := { s.panel with glitch := if s.panel.bound = ch then false else s.panel.glitch } } false
    (channelBytes s ch) := by
  simp only [cmdReadChannel, chanOf?_val]
  by_cases hb : s.panel.bound = ch
  · simp only [if_pos hb]
  · simp only [if_neg hb]

/-! ## READ_NOTICES (R199) -/

theorem cell_bytes (s : State) (k : NoticeClass × Nat) : cellBytes s k =
    [byteOf k.1.number, byteOf k.2, boolByte (s.cell (cellIndex k.1 k.2)).enable,
      byteOf (s.cell (cellIndex k.1 k.2)).count] ++
      (match (s.cell (cellIndex k.1 k.2)).detail with | none => [] | some d => d.bytes) := by
  unfold cellBytes
  dsimp only
  cases (s.cell (cellIndex k.1 k.2)).detail <;> rfl

theorem continuePosition_bytes (ks : List (NoticeClass × Nat)) : optBytes 1 (continuePosition ks) =
    match ks.getLast? with
    | some k => if ks.length = 8 ∧ cellIndex k.1 k.2 < 53 then [1#8, byteOf (cellIndex k.1 k.2 + 1)] else [0#8, 0#8]
    | none => [0#8, 0#8] := by
  unfold continuePosition
  cases ks.getLast? with
  | none => rfl
  | some k =>
    by_cases h : ks.length = 8 ∧ cellIndex k.1 k.2 < 53
    · dsimp only
      rw [if_pos h, if_pos h]
      rfl
    · dsimp only
      rw [if_neg h, if_neg h]
      rfl

/-! ## The answers (O34) -/

/-- Settles O34: the answer of every read, and every field of the three records at its offset. -/
theorem readsReportAndChangeNothing : Obligations.ReadsReportAndChangeNothing := by
  refine ⟨fun s tag hr => ⟨?_, ?_, ?_, ?_, ?_, ?_, ?_, ?_, ?_, ?_⟩, fun s tag n hr => ⟨?_, ?_⟩, ?_⟩
  · intro id c hid hc
    exact exec_readClip hr tag (by omega) (cmdReadClip_found hid hc)
  · intro id hid hc
    exact exec_readClip hr tag (by omega) (cmdReadClip_free hid hc)
  · intro first count hfirst n found
    refine exec_listClips hr tag (by omega) count ?_
    have hcmd : cmdListClips first count.toNat s = done s (clampNat 1 16 count.toNat != count.toNat)
        (leBytes 1 found.length ++ (found.flatMap fun r => r.2.bytes r.1) ++ optBytes 2 (continueId found n)) :=
      if_neg (Nat.not_le_of_lt hfirst)
    rw [hcmd, clampNat_ne_iff (by decide), continueId_bytes]
    rfl
  · intro ch
    refine exec_readList hr tag _ ?_
    have hbytes : (fun e : CueEntry => e.bytes (clipState s e.clip)) = _ := funext (cue_bytes s)
    rw [byteOf_toNat_of_lt (show ch.val < 256 by omega), cmdReadList_eq, hbytes]
    rfl
  · intro f
    refine exec_readFeed hr tag _ ?_
    rw [byteOf_toNat_of_lt (show f.val < 256 by omega), cmdReadFeed_eq]
    rfl
  · intro start hstart shown
    refine exec_readNotices hr tag _ ?_
    have hcmd : cmdReadNotices start.toNat s = done s false
        (packBits 7 (s.cells.map (·.latch)) ++ leBytes 1 shown.length ++
          shown.flatMap (cellBytes s) ++ optBytes 1 (continuePosition shown)) := if_neg (Nat.not_le_of_lt hstart)
    have hbytes : cellBytes s = _ := funext (cell_bytes s)
    rw [hcmd, continuePosition_bytes, hbytes, List.append_assoc (packBits 7 _)]
    rfl
  · intro id hlow hid
    refine ⟨exec_readClip hr tag hid ?_, fun count => exec_listClips hr tag hid count ?_⟩
    · exact if_pos hlow
    · exact if_pos hlow
  · intro n hn
    refine exec_readList hr tag n ?_
    simp only [cmdReadList, chanOf?_none hn]
    rfl
  · intro n hn
    refine exec_readFeed hr tag n ?_
    simp only [cmdReadFeed, feedOf?_none hn]
    rfl
  · intro start hstart
    exact exec_readNotices hr tag start (if_pos hstart)
  · intro hn
    refine exec_readChannel hr tag n ?_
    simp only [cmdReadChannel, chanOf?_none hn]
    rfl
  · intro ch hn
    refine exec_readChannel hr tag n ?_
    rw [hn, cmdReadChannel_eq]
    rfl
  · intro s ch f id c part opt bits
    have hbits : ∀ l, leBytes 1 (flagByte l) = [bits l] := fun l => by rw [flagByte_eq_sum]; rfl
    refine ⟨?_, ?_, ?_⟩
    · intro r
      have hat := @clip_field_at id c
      refine ⟨length_of_fields (clip_bytes_eq id c) (clipFields_lengths id c), hat 0 rfl rfl rfl, hat 1 rfl rfl rfl,
        hat 2 rfl rfl rfl, hat 3 rfl rfl rfl, hat 4 rfl rfl rfl, hat 5 rfl rfl rfl, (hat 6 rfl rfl rfl).trans (hbits _),
        hat 7 rfl rfl rfl, hat 8 rfl rfl rfl, hat 9 rfl rfl rfl, hat 10 rfl rfl rfl, hat 11 rfl rfl rfl, hat 13 rfl rfl rfl,
        fun hl i hi => ?_⟩
      have hangles : (r.drop 28).take 15 = angleBytes c.angles := hat 12 rfl rfl rfl
      show (r.drop (28 + 5 * i)).take 5 = _
      rw [← part_of_part r (show 5 * i + 5 ≤ 15 by omega), hangles]
      exact angleBytes_at hl hi
    · intro x r
      have hat := @feed_field_at x
      exact ⟨length_of_fields (feed_bytes_eq x) (feedFields_lengths x), hat 0 rfl rfl rfl, hat 1 rfl rfl rfl,
        hat 2 rfl rfl rfl, hat 3 rfl rfl rfl, hat 4 rfl rfl rfl, hat 5 rfl rfl rfl, hat 6 rfl rfl rfl,
        hat 7 rfl rfl rfl, hat 8 rfl rfl rfl, hat 9 rfl rfl rfl, hat 10 rfl rfl rfl, hat 11 rfl rfl rfl, hat 12 rfl rfl rfl,
        hat 13 rfl rfl rfl, hat 14 rfl rfl rfl, hat 15 rfl rfl rfl, hat 16 rfl rfl rfl⟩
    · intro x r
      have hat := @channel_field_at s ch
      have hgang : (r.drop 66).take 10 = gangBytes s ch := hat 18 rfl rfl rfl
      exact ⟨length_of_fields (channel_bytes_eq s ch) (channelFields_lengths s ch), hat 0 rfl rfl rfl, hat 1 rfl rfl rfl,
        hat 2 rfl rfl rfl, hat 3 rfl rfl rfl, hat 4 rfl rfl rfl, hat 5 rfl rfl rfl, hat 6 rfl rfl rfl,
        (hat 7 rfl rfl rfl).trans (hbits _), hat 8 rfl rfl rfl, hat 9 rfl rfl rfl, (hat 10 rfl rfl rfl).trans (hbits _),
        hat 11 rfl rfl rfl, hat 12 rfl rfl rfl, hat 13 rfl rfl rfl, hat 14 rfl rfl rfl, hat 15 rfl rfl rfl,
        (hat 16 rfl rfl rfl).trans (hbits _), hat 17 rfl rfl rfl, fun m g h => hgang.trans (gangBytes_slave h),
        fun h hs => hgang.trans (gangBytes_alone h hs), fun h hs hl => hgang.trans (gangBytes_master h hs hl)⟩

end Sys2Proof.Machine
end

section
/-!
PROOFS. What holds clips (R47): the material of a channel and the entries of its list, how a change at one channel moves
the count of the holdings, and which operations leave the Clip Table and every holding as they are.
-/

-- Proofs checked in turn: side by side they need more threads than the memory limit of check.sh has room for.
set_option Elab.async false

namespace Sys2Proof.Machine

/-! ## The holdings, channel by channel -/

/-- The clip a material holds, if any. -/
def materialHold (m : Option Material) : List Nat := (materialId m).toList

/-- The clips that a channel holds: its material's, and one for each entry of its list (R47). -/
def State.held (s : State) (ch : ChanId) : List Nat :=
  materialHold (s.chan ch).material ++ (s.lists.get ch).map (·.clip)

theorem count_materialHold (m : Option Material) (id : Nat) :
    (materialHold m).count id = if m = some (.clip id) then 1 else 0 := by
  cases m with
  | none => rfl
  | some m =>
    cases m with
    | feed f => rfl
    | clip k => simp [materialHold, materialId, List.count_singleton]

theorem sum_allChans (g : ChanId → Nat) : (allChans.map g).sum = ∑ ch, g ch := by
  simp [allChans, Fin.sum_univ_four, add_assoc]

theorem holdings_eq (s : State) (id : Nat) : s.holdings id = ∑ ch, (s.held ch).count id := by
  have hmaterial : (allChans.countP fun ch => (s.chan ch).material == some (.clip id)) =
      ∑ ch, (materialHold (s.chan ch).material).count id := by
    rw [← sum_allChans]
    generalize allChans = l
    induction l with
    | nil => rfl
    | cons ch l ih => simp [List.countP_cons, ih, count_materialHold, add_comm]
  have hlist : ∀ ch, (s.lists.get ch).countP (fun e => e.clip == id) = ((s.lists.get ch).map (·.clip)).count id :=
    fun ch => by rw [List.count, List.countP_map]; rfl
  simp only [State.holdings, hmaterial, hlist, sum_allChans, State.held, List.count_append, Finset.sum_add_distrib]

/-- A change of what one channel holds changes the holdings of a clip by the difference there. -/
theorem holdings_update {s t : State} (c : ChanId) (h : ∀ d, d ≠ c → t.held d = s.held d) (id : Nat) :
    t.holdings id + (s.held c).count id = s.holdings id + (t.held c).count id := by
  have hrest : ∑ d ∈ Finset.univ.erase c, (t.held d).count id = ∑ d ∈ Finset.univ.erase c, (s.held d).count id :=
    Finset.sum_congr rfl fun d hd => by rw [h d (Finset.ne_of_mem_erase hd)]
  rw [holdings_eq, holdings_eq, ← Finset.add_sum_erase _ _ (Finset.mem_univ c),
    ← Finset.add_sum_erase _ (fun d => (s.held d).count id) (Finset.mem_univ c), hrest]
  omega

theorem held_setChan (s : State) (c d : ChanId) (x : Channel) : (s.setChan c x).held d =
    if d = c then materialHold x.material ++ (s.lists.get c).map (·.clip) else s.held d := by
  unfold State.held
  rw [State.chan_setChan]
  split
  · subst d; rfl
  · rfl

theorem held_setList (s : State) (c d : ChanId) (l : List CueEntry) : (s.setList c l).held d =
    if d = c then materialHold (s.chan c).material ++ l.map (·.clip) else s.held d := by
  unfold State.held
  rw [State.lists_setList, Quad.get_set]
  split
  · subst d; rfl
  · rfl

/-! ## Custody: the Clip Table and what is held -/

/-- The Clip Table and the clips that each channel holds. -/
def State.custody (s : State) : SMap Clip × (ChanId → List Nat) := (s.clips, s.held)

variable (s : State)

@[simp] theorem custody_raise (u : Nat) (d : Detail) : (raise u d s).custody = s.custody := rfl
@[simp] theorem custody_setFeed (f : FeedId) (x : Feed) : (s.setFeed f x).custody = s.custody := rfl
@[simp] theorem custody_setRx (r : RxState) : (s.setRx r).custody = s.custody := rfl
@[simp] theorem custody_setPhase (c : ChanId) (p : TickPhase) : (s.setPhase c p).custody = s.custody := rfl
@[simp] theorem custody_cache (c : Cache) : ({ s with cache := c } : State).custody = s.custody := rfl
@[simp] theorem custody_cells (cs : List Cell) : ({ s with cells := cs } : State).custody = s.custody := rfl
@[simp] theorem custody_link (l : Link) : ({ s with link := l } : State).custody = s.custody := rfl
@[simp] theorem custody_gangs (g : Quad (List GangSlave)) : ({ s with gangs := g } : State).custody = s.custody := rfl
@[simp] theorem custody_panel (p : Panel) : ({ s with panel := p } : State).custody = s.custody := rfl

@[simp] theorem custody_pending (q : List Instr) : ({ s with pending := q } : State).custody = s.custody := rfl
@[simp] theorem custody_engagement (e : Engagement) (c : Cache) (a : Arbiter) :
    ({ s with engaged := e, cache := c, arbiter := a } : State).custody = s.custody := rfl

/-- A channel that keeps its material. -/
@[simp] theorem custody_setChan (c : ChanId) {x : Channel} (hm : x.material = (s.chan c).material) :
    (s.setChan c x).custody = s.custody := by
  refine Prod.ext rfl (funext fun d => ?_)
  show (s.setChan c x).held d = s.held d
  rw [held_setChan, hm]
  split
  · subst d; rfl
  · rfl

/-! ## Ingest and the Frame Cache -/

variable {s} in
theorem Ingested.custody {f : FeedId} {t : State} (h : Ingested f s t) : t.custody = s.custody := by rw [h.eq]; rfl

theorem custody_closeFrame (f : FeedId) (m : Option DamageCause) : (closeFrame f m s).custody = s.custody :=
  ((Ingested.refl f s).closeFrame m).custody

theorem custody_exhaust (f : FeedId) : (exhaust f s).custody = s.custody :=
  ((((Ingested.refl f s).closeFrame _).setFeed _).raise _ _).custody

theorem custody_frameStart (f : FeedId) : (frameStart f s).custody = s.custody := by
  have hstart := (startFrame_ingested f s).custody
  unfold frameStart
  dsimp only
  split
  · rfl
  · rfl
  · split <;> [exact hstart; rfl]
  · split <;> [exact hstart; exact custody_exhaust s f]

theorem custody_fragment (f : FeedId) (d : Fragment) : (fragment f d s).custody = s.custody := by
  unfold fragment
  dsimp only
  split
  · rfl
  · split
    · rfl
    · split <;> rfl

theorem custody_storeWrite (f : FeedId) (r : StoreResult) : (storeWrite f r s).custody = s.custody := by
  unfold storeWrite
  dsimp only
  split
  · rfl
  · exact (Ingested.refl f _).finishFrames.custody

theorem custody_damageArrives (f : FeedId) (n : Nat) : (damageArrives f n s).custody = s.custody := by
  unfold damageArrives damageTaken
  dsimp only
  split
  · split
    · rfl
    · split <;> rfl
  · rfl

theorem custody_enterError (f : FeedId) (n : Nat) (i : Option Nat) (c : StoreErrorCause) :
    (enterError f n i c s).custody = s.custody := by unfold enterError; split <;> rfl

theorem custody_fillAccept (k : Nat) (f : Fill) (x : Slot) (d : Fragment) :
    (fillAccept k f x d s).custody = s.custody := by
  unfold fillAccept
  dsimp only
  split
  · split <;> [rfl; exact custody_enterError ..]
  · rfl

theorem custody_fillError (k : Nat) (f : Fill) (x : Slot) : (fillError k f x s).custody = s.custody := by
  unfold fillError
  dsimp only
  split <;> exact custody_enterError ..

theorem custody_fillBeat (k : Nat) (r : StoreResult) (d : Fragment) : (fillBeat k r d s).custody = s.custody := by
  unfold fillBeat
  split
  · rfl
  · split
    · rfl
    · dsimp only
      split
      · exact custody_fillAccept ..
      · exact custody_fillError ..

theorem custody_beat (r : StoreResult) (d : Fragment) : (beat r d s).custody = s.custody := by
  unfold beat moveFragment
  dsimp only
  split
  · rfl
  · exact custody_storeWrite _ _ r
  · split
    · rfl
    · exact custody_fillBeat ..

theorem custody_timeOut (c : ChanId) (k : Nat) : (timeOut c k s).custody = s.custody := by
  unfold timeOut
  split
  · rfl
  · dsimp only
    split <;> exact custody_setChan { s with cache := _ } c rfl

@[simp] theorem custody_countTick (c : ChanId) : (countTick c s).custody = s.custody :=
  foldl_keeps State.custody _ (fun u k => custody_timeOut u c k) _ _

theorem custody_tickCounted (c : ChanId) : (tickCounted c s).custody = s.custody := by
  unfold tickCounted
  split <;> simp

theorem custody_cacheNotice (f : FeedId) : (cacheNotice f s).custody = s.custody := by
  unfold cacheNotice
  split <;> rfl

/-! ## Lookups, selections, presentations -/

@[simp] theorem custody_lookup (c : ChanId) (f : FeedId) (n : Nat) : (lookup c f n s).1.custody = s.custody := by
  rw [lookup_keeps]
  rfl

@[simp] theorem custody_frameReady (c : ChanId) (f : FeedId) (n : Nat) : (frameReady c f n s).custody = s.custody := by
  unfold frameReady
  dsimp only
  split <;> simp

@[simp] theorem custody_frameFailed (c : ChanId) (f : FeedId) (n : Nat) (r : Reason) :
    (frameFailed c f n r s).custody = s.custody := by
  unfold frameFailed
  dsimp only
  split <;> simp

@[simp] theorem custody_sendLookup (c : ChanId) (f : FeedId) (n : Nat) : (sendLookup c f n s).custody = s.custody := by
  unfold sendLookup handleAnswer
  dsimp only
  split <;> simp

@[simp] theorem custody_sendLookups (c : ChanId) (f : FeedId) (l : List Nat) :
    (sendLookups c f l s).custody = s.custody :=
  foldl_keeps State.custody _ (fun u n => by split <;> simp) l s

theorem custody_reportArrives (c : ChanId) (f : FeedId) (n : Nat) : (reportArrives c f n s).custody = s.custody := by
  unfold reportArrives
  split
  · rfl
  · dsimp only
    split <;> simp

@[simp] theorem custody_releasePins (c : ChanId) : (releasePins c s).custody = s.custody := rfl

@[simp] theorem custody_leaveGang (m c : ChanId) : (leaveGang m c s).custody = s.custody := by simp [leaveGang]

@[simp] theorem custody_selectSlave (g : GangSlave) : (selectSlave g s).custody = s.custody := by
  unfold selectSlave
  dsimp only
  split <;> simp

@[simp] theorem custody_fetchSlave (how : SlaveFetch) (g : GangSlave) : (fetchSlave how g s).custody = s.custody := by
  unfold fetchSlave
  dsimp only
  split
  · split <;> simp
  · rfl

@[simp] theorem custody_preload (c : ChanId) (f : FeedId) (w : Window) (e : Nat) (r : Bool) :
    (preload c f w e r s).custody = s.custody := custody_sendLookups ..

@[simp] theorem custody_sendRecord (c : ChanId) (r : PresRecord) : (sendRecord c r s).custody = s.custody := by
  simp [sendRecord]

@[simp] theorem custody_repeatLast (c : ChanId) (f : FeedId) (n : Option Nat) (r : RepeatCause) :
    (repeatLast c f n r s).custody = s.custody := by simp [repeatLast]

@[simp] theorem custody_presentSelection (c : ChanId) (x : Selection) (r : RepeatCause) :
    (presentSelection c x r s).custody = s.custody := by
  unfold presentSelection
  split <;> simp

@[simp] theorem custody_presentActive (c : ChanId) : (presentActive c s).custody = s.custody := by
  unfold presentActive
  dsimp only
  split <;> simp

@[simp] theorem custody_presentIdle (c : ChanId) : (presentIdle c s).custody = s.custody := by
  unfold presentIdle
  dsimp only
  split
  · simp
  · simp
  · split <;> simp

@[simp] theorem custody_stepIdle (c : ChanId) : (stepIdle c s).custody = s.custody := by
  unfold stepIdle
  dsimp only
  split
  · split <;> simp
  · simp

/-! ## The bound stage of a tick (R60 to R67) -/

@[simp] theorem custody_stopEnd (c : ChanId) (w : Window) (e : WindowEnd) : (stopEnd c w e s).custody = s.custody := by
  simp [stopEnd]

@[simp] theorem custody_setAtLive (c : ChanId) (n : Nat) : (setAtLive c n s).custody = s.custody := by
  unfold setAtLive
  dsimp only
  split <;> simp

@[simp] theorem custody_setAtTail (c : ChanId) (n : Nat) : (setAtTail c n s).custody = s.custody := by
  unfold setAtTail
  dsimp only
  split <;> simp

@[simp] theorem custody_settleInside (c : ChanId) (w : Window) (q : Int) :
    (settleInside c w q s).custody = s.custody := by
  unfold settleInside
  dsimp only
  split <;> simp

@[simp] theorem custody_liveBoundEnd (c : ChanId) (w : Window) : (liveBoundEnd c w s).custody = s.custody := by
  simp [liveBoundEnd]

@[simp] theorem custody_tailBoundEnd (c : ChanId) (w : Window) : (tailBoundEnd c w s).custody = s.custody := by
  simp [tailBoundEnd]

theorem rawStep_material (curve : List Int) (x : Channel) (head : Nat) :
    (rawStep curve x head).1.material = x.material := by
  unfold rawStep
  split <;> rfl

/-! ## Panel lines -/

theorem takeCount_material (x : Channel) (takeover : Bool) (n : Int) :
    (x.takeCount takeover n).material = x.material := by
  unfold Channel.takeCount
  split
  · rfl
  · rfl
  · rfl
  · split <;> rfl

theorem custody_jogLines (a b : Level) : (jogLines a b s).custody = s.custody := by
  unfold jogLines
  dsimp only
  rw [custody_panel]
  split
  · rfl
  · exact custody_setChan s _ (takeCount_material ..)

end Sys2Proof.Machine
end

section
/-!
PROOFS. The use counts in balance with the holdings, block by block: an operation that takes clips out of a list or a
channel before it sends their releases owes these holds in between (R47, R74, R125).
-/

-- Proofs checked in turn: side by side they need more threads than the memory limit of check.sh has room for.
set_option Elab.async false

namespace Sys2Proof.Machine

variable {s t : State} {owed : List Nat}

/-! ## The balance -/

/-- The use count of a clip; 0 for a FREE record. -/
def State.uses (s : State) (id : Nat) : Nat := ((SMap.find s.clips id).map (·.useCount)).getD 0

/-- Every use count is the number of the clip's holdings and of the holds of it still owed to the Clip Table. -/
structure Balanced (owed : List Nat) (s : State) : Prop where
  clips : SMap.wf s.clips = true
  count : ∀ id, s.holdings id + owed.count id = s.uses id

/-- With nothing owed the balance is the invariant of R47. -/
theorem balanced_nil_iff : Balanced [] s ↔ UseCountsRight s := ⟨fun h => ⟨h.clips, h.count⟩, fun h => ⟨h.clips, h.count⟩⟩

theorem uses_of_find {id : Nat} {c : Clip} (hc : SMap.find s.clips id = some c) : s.uses id = c.useCount := by
  rw [State.uses, hc]
  rfl

theorem uses_of_free {id : Nat} (hc : SMap.find s.clips id = none) : s.uses id = 0 := by
  rw [State.uses, hc]
  rfl

theorem uses_put (id : Nat) (c : Clip) (k : Nat) :
    State.uses { s with clips := s.clips.put id c } k = if k = id then c.useCount else s.uses k := by
  unfold State.uses
  rw [SMap.find_put]
  split <;> rfl

theorem uses_adjust (id : Nat) (g : Nat → Nat) (k : Nat) :
    State.uses { s with clips := s.clips.adjust id fun c => { c with useCount := g c.useCount } } k =
      if k = id ∧ (SMap.find s.clips k).isSome then g (s.uses k) else s.uses k := by
  unfold State.uses
  rw [SMap.find_adjust]
  cases hk : SMap.find s.clips k <;> by_cases h : k = id <;> simp [h]

/-- The lowest FREE id is FREE (R26). -/
theorem freeFrom_free {α : Type} {m : SMap α} {n k id : Nat} (h : m.freeFrom n k = some id) : m.find id = none := by
  induction n generalizing k with
  | zero => cases h
  | succ n ih =>
    unfold SMap.freeFrom at h
    split at h
    · cases h; exact Option.isNone_iff_eq_none.1 ‹_›
    · exact ih h

theorem freeClip_free {id : Nat} (h : freeClip s = some id) : SMap.find s.clips id = none := freeFrom_free h

namespace Balanced

theorem congr (h : Balanced owed s) (e : t.custody = s.custody) : Balanced owed t := by
  obtain ⟨hclips, hheld⟩ := Prod.mk.inj e
  refine ⟨hclips ▸ h.clips, fun id => ?_⟩
  rw [State.uses, hclips, holdings_eq, hheld, ← holdings_eq]
  exact h.count id

/-- A channel that keeps its material. -/
theorem setChan_sameMaterial (h : Balanced owed s) (c : ChanId) {x : Channel}
    (hm : x.material = (s.chan c).material := by rfl) : Balanced owed (s.setChan c x) :=
  h.congr (custody_setChan s c hm)

/-- A Clip Table in canonical form with the same use counts. -/
theorem withClips (h : Balanced owed s) {m : SMap Clip} (hm : SMap.wf m = true)
    (hu : ∀ id, State.uses { s with clips := m } id = s.uses id) : Balanced owed { s with clips := m } :=
  ⟨hm, fun id => (h.count id).trans (hu id).symm⟩

/-- A record written with the use count of its id: a FREE id's is 0. -/
theorem putClip (h : Balanced owed s) (id : Nat) {c : Clip} (hu : c.useCount = s.uses id) :
    Balanced owed { s with clips := s.clips.put id c } :=
  h.withClips (SMap.wf_put h.clips id c) fun k => by
    rw [uses_put]
    split
    · subst k; exact hu
    · rfl

/-- A record of the table changed, with its use count kept. -/
theorem rewriteClip (h : Balanced owed s) {id : Nat} {c c' : Clip} (hc : SMap.find s.clips id = some c)
    (hu : c'.useCount = c.useCount := by rfl) : Balanced owed { s with clips := s.clips.put id c' } :=
  h.putClip id (hu.trans (uses_of_find hc).symm)

/-- A FREE record made a clip that nothing holds. -/
theorem createClip (h : Balanced owed s) {id : Nat} {c : Clip} (hfree : freeClip s = some id)
    (hu : c.useCount = 0 := by rfl) : Balanced owed { s with clips := s.clips.put id c } :=
  h.putClip id (hu.trans (uses_of_free (freeClip_free hfree)).symm)

/-- Every record changed, each with its use count kept. -/
theorem mapClips (h : Balanced owed s) (g : Clip → Clip) (hg : ∀ c, (g c).useCount = c.useCount) :
    Balanced owed { s with clips := s.clips.map fun r => (r.1, g r.2) } :=
  h.withClips (SMap.wf_map h.clips _ fun _ => rfl) fun id => by
    unfold State.uses
    rw [SMap.find_map]
    cases SMap.find s.clips id with
    | none => rfl
    | some c => exact hg c

theorem delClip (h : Balanced owed s) (id : Nat) (hu : s.uses id = 0) :
    Balanced owed { s with clips := s.clips.del id } :=
  h.withClips (SMap.wf_del h.clips id) fun k => by
    unfold State.uses
    rw [SMap.find_del h.clips]
    split
    · subst k; exact hu.symm
    · rfl

/-- A clip of which a hold is owed stands in the table. -/
theorem find_of_owed (h : Balanced owed s) {id : Nat} (hid : id ∈ owed) : ∃ c, SMap.find s.clips id = some c := by
  cases hc : SMap.find s.clips id with
  | some c => exact ⟨c, rfl⟩
  | none =>
    have hcount := h.count id
    have howed := List.count_pos_iff.2 hid
    rw [uses_of_free hc] at hcount
    omega

/-- What one channel holds gives way to other holds, and the difference is owed. -/
theorem exchange (h : Balanced owed s) (c : ChanId) {owed' : List Nat} (hclips : t.clips = s.clips)
    (hrest : ∀ d, d ≠ c → t.held d = s.held d) (hperm : (t.held c ++ owed').Perm (s.held c ++ owed)) :
    Balanced owed' t := by
  refine ⟨hclips ▸ h.clips, fun id => ?_⟩
  have hcount := h.count id
  have hheld := holdings_update c hrest id
  have hsum := hperm.count_eq id
  rw [List.count_append, List.count_append] at hsum
  rw [State.uses, hclips, ← State.uses]
  omega

/-- A channel takes material of which a hold is owed, and owes the hold of its old material. -/
theorem setChan (h : Balanced owed s) (c : ChanId) {x : Channel} {rest : List Nat}
    (ho : owed = materialHold x.material ++ rest) :
    Balanced (materialHold (s.chan c).material ++ rest) (s.setChan c x) := by
  refine h.exchange c rfl (fun d hd => by rw [held_setChan, if_neg hd]) (List.perm_iff_count.2 fun id => ?_)
  rw [held_setChan, if_pos rfl, ho]
  simp only [State.held, List.count_append]
  omega

/-- A channel's list becomes `l`, and the holds of the entries that went are owed. -/
theorem setList (h : Balanced owed s) (c : ChanId) {l : List CueEntry} {owed' : List Nat}
    (hl : (l.map (·.clip) ++ owed').Perm ((s.lists.get c).map (·.clip) ++ owed)) :
    Balanced owed' (s.setList c l) := by
  refine h.exchange c rfl (fun d hd => by rw [held_setList, if_neg hd]) ?_
  rw [held_setList, if_pos rfl]
  simpa only [State.held, List.append_assoc] using hl.append_left (materialHold (s.chan c).material)

/-- A fold of operations that keep the balance keeps it. -/
theorem foldl {α : Type} (h : Balanced owed s) (l : List α) (op : State → α → State)
    (hop : ∀ u, Balanced owed u → ∀ a, Balanced owed (op u a)) : Balanced owed (l.foldl op s) :=
  List.foldlRecOn l op h fun u hu a _ => hop u hu a

/-! ## Takes and releases (R47, R74) -/

theorem takeClip (h : Balanced owed s) {id : Nat} {c : Clip} (hc : SMap.find s.clips id = some c) :
    Balanced (id :: owed) (takeClip id s) := by
  refine ⟨SMap.wf_adjust h.clips id _, fun k => ?_⟩
  have hcount : s.holdings k + owed.count k = s.uses k := h.count k
  show s.holdings k + _ = State.uses { s with clips := _ } k
  rw [uses_adjust id (· + 1), List.count_cons]
  by_cases hk : k = id
  · subst k; simp [hc]; omega
  · simpa [hk, Ne.symm hk] using hcount

theorem releaseClip {id : Nat} (h : Balanced (id :: owed) s) : Balanced owed (releaseClip id s) := by
  obtain ⟨c, hc⟩ := h.find_of_owed List.mem_cons_self
  refine ⟨SMap.wf_adjust h.clips id _, fun k => ?_⟩
  have hcount : s.holdings k + (id :: owed).count k = s.uses k := h.count k
  show s.holdings k + _ = State.uses { s with clips := _ } k
  rw [List.count_cons] at hcount
  rw [uses_adjust id (· - 1)]
  by_cases hk : k = id
  · subst k; simp [hc] at hcount ⊢; omega
  · simpa [hk, Ne.symm hk] using hcount

theorem takeMaterial (h : Balanced owed s) {m : Option Material}
    (hm : ∀ id, m = some (.clip id) → ∃ c, SMap.find s.clips id = some c) :
    Balanced (materialHold m ++ owed) (takeMaterial m s) := by
  match m with
  | none => exact h
  | some (.feed _) => exact h
  | some (.clip id) =>
    obtain ⟨c, hc⟩ := hm id rfl
    exact h.takeClip hc

theorem releaseMaterial {m : Option Material} (h : Balanced (materialHold m ++ owed) s) :
    Balanced owed (releaseMaterial m s) := by
  match m with
  | none => exact h
  | some (.feed _) => exact h
  | some (.clip _) => exact h.releaseClip

end Balanced

theorem changeMaterial_eq (ch : ChanId) (m : Option Material) (s : State) : changeMaterial ch m s =
    releaseMaterial (s.chan ch).material
      ((takeMaterial m s).setChan ch { (takeMaterial m s).chan ch with material := m }) := by
  unfold changeMaterial releaseMaterial
  dsimp only
  split <;> rfl

theorem takeMaterial_chan (m : Option Material) (ch : ChanId) (s : State) :
    (takeMaterial m s).chan ch = s.chan ch := by
  unfold takeMaterial
  split <;> rfl

namespace Balanced

/-- New material that is no clip, or a clip of the table. -/
theorem changeMaterial (h : Balanced owed s) (ch : ChanId) {m : Option Material}
    (hm : ∀ id, m = some (.clip id) → ∃ c, SMap.find s.clips id = some c) :
    Balanced owed (changeMaterial ch m s) := by
  rw [changeMaterial_eq]
  refine Balanced.releaseMaterial ?_
  rw [← takeMaterial_chan m ch s]
  exact (h.takeMaterial hm).setChan ch rfl

theorem changeToClip (h : Balanced owed s) (ch : ChanId) {id : Nat} {c : Clip} (hc : SMap.find s.clips id = some c) :
    Balanced owed (Machine.changeMaterial ch (some (.clip id)) s) :=
  h.changeMaterial ch fun k hk => by cases hk; exact ⟨c, hc⟩

theorem changeToFeed (h : Balanced owed s) (ch : ChanId) (f : FeedId) :
    Balanced owed (Machine.changeMaterial ch (some (.feed f)) s) := h.changeMaterial ch fun _ hk => by cases hk

theorem dropMaterial (h : Balanced owed s) (ch : ChanId) : Balanced owed (dropMaterial ch s) :=
  (h.changeMaterial ch (m := none) fun _ hk => by cases hk).setChan_sameMaterial ch

theorem enterIdle (h : Balanced owed s) (ch : ChanId) : Balanced owed (enterIdle ch s) := by
  have hd := h.dropMaterial ch
  unfold Machine.enterIdle
  dsimp only
  split
  · exact (hd.congr (custody_releasePins _ ch)).setChan_sameMaterial ch
  · exact hd

theorem loseWindow (h : Balanced owed s) (ch : ChanId) : Balanced owed (loseWindow ch s) := h.dropMaterial ch |>.congr rfl

/-! ## Clips (R43 to R46) -/

theorem takeTail (h : Balanced owed s) (f : FeedId) (n : Nat) : Balanced owed (takeTail f n s) := by
  rw [takeTail_eq h.clips]
  refine (h.mapClips (Clip.afterTail f n (s.feed f).cfg.warn) fun c => ?_).congr rfl
  unfold Clip.afterTail
  split
  · rfl
  · split <;> rfl

theorem expireWhere (h : Balanced owed s) (f : FeedId) (hit : Clip → Bool) (n : Option Nat) :
    Balanced owed (expireWhere f hit n s) := by
  have hclips := expireWhere_clips h.clips f hit n
  rw [expireWhere_frame] at hclips ⊢
  refine (h.mapClips (fun c => if expires f hit c then { c with state := .expired } else c) fun c => ?_).congr
    (Prod.ext hclips rfl)
  split <;> rfl

theorem clipNotice (h : Balanced owed s) (f : FeedId) : Balanced owed (clipNotice f s) := by
  unfold Machine.clipNotice
  split
  · exact h
  · exact (h.congr (custody_setFeed s f _)).takeTail f _

/-! ## Gangs (R105 to R115) -/

theorem slaveToIdle (h : Balanced owed s) (m ch : ChanId) : Balanced owed (slaveToIdle m ch s) :=
  (h.congr (custody_leaveGang s m ch)).enterIdle ch

theorem loseSlave (h : Balanced owed s) (m : ChanId) (g : GangSlave) : Balanced owed (loseSlave m g s) :=
  (h.slaveToIdle m g.ch).congr rfl

theorem windowLost (h : Balanced owed s) (ch : ChanId) : Balanced owed (windowLost ch s) :=
  (h.loseWindow ch).foldl _ _ fun _ hu g => hu.loseSlave ch g

theorem deriveSlave (h : Balanced owed s) (m : ChanId) (g : GangSlave) : Balanced owed (deriveSlave m g s) := by
  unfold Machine.deriveSlave
  split
  · exact h.loseSlave m g
  · split
    · exact h
    · exact h.setChan_sameMaterial g.ch

theorem derive (h : Balanced owed s) (m : ChanId) : Balanced owed (derive m s) :=
  h.foldl _ _ fun _ hu g => hu.deriveSlave m g

theorem followMaster (h : Balanced owed s) (m : ChanId) (how : SlaveFetch) : Balanced owed (followMaster m how s) :=
  (h.derive m).foldl _ _ fun _ hu g => hu.congr (by simp)

theorem adoptAngle (h : Balanced owed s) (g : GangSlave) : Balanced owed (adoptAngle g s) := by
  unfold Machine.adoptAngle
  split
  · exact h
  · exact (h.changeToFeed g.ch g.feed).setChan_sameMaterial g.ch

theorem assignOwnAngles (h : Balanced owed s) (ch : ChanId) : Balanced owed (assignOwnAngles ch s) := by
  unfold Machine.assignOwnAngles
  split
  · exact h
  · unfold assignAngles
    split
    · exact h
    · exact (h.congr (custody_gangs s _)).foldl _ _ fun _ hu g => hu.adoptAngle g

theorem joinGang (h : Balanced owed s) (m : ChanId) (g : GangSlave) : Balanced owed (joinGang m g s) := by
  have hd := ((h.changeToFeed g.ch g.feed).setChan_sameMaterial g.ch (x :=
    { (Machine.changeMaterial g.ch (some (.feed g.feed)) s).chan g.ch with
      state := .slave, cueWait := none, atLive := false, atTail := false, damaged := false, idleSel := none
      })).deriveSlave m g
  unfold Machine.joinGang
  dsimp only
  split
  · exact hd.congr (by simp)
  · exact hd

theorem ungangSlave (h : Balanced owed s) (m : ChanId) (g : GangSlave) : Balanced owed (ungangSlave m g s) := by
  have hl := h.congr (custody_leaveGang s m g.ch)
  unfold Machine.ungangSlave
  dsimp only
  split
  · exact hl.loseWindow g.ch
  · exact hl.setChan_sameMaterial g.ch

/-! ## Cues and cue lists (R75 to R87, R118 to R130) -/

theorem cue (h : Balanced owed s) (ch : ChanId) (f : FeedId) (w : Window) (e : Nat) (r : Bool) :
    Balanced owed (cue ch f w e r s) := by
  have hc := h.setChan_sameMaterial ch (x := (s.chan ch).cued f w e)
  exact ((hc.congr (custody_preload _ ch f w e r)).assignOwnAngles ch).followMaster ch _

theorem eject (h : Balanced owed s) (ch : ChanId) : Balanced owed (eject ch s) := by
  unfold Machine.eject
  split
  · exact h
  · split
    · exact h.slaveToIdle _ ch
    · exact h.enterIdle ch
  · exact (h.enterIdle ch).foldl _ _ fun _ hu g => hu.slaveToIdle ch g.ch

theorem passAll {l : List CueEntry} (ch : ChanId) (h : Balanced (l.map (·.clip) ++ owed) s) :
    Balanced owed (passAll ch l s) := by
  induction l generalizing s with
  | nil => exact h
  | cons e l ih =>
    refine ih (s := passOver ch e s) ?_
    have hr : Balanced (l.map (·.clip) ++ owed) (Machine.releaseClip e.clip s) := h.releaseClip
    unfold passOver
    dsimp only
    split
    · exact hr
    · exact hr.congr (custody_raise ..)

/-- The entry taken gives its hold to the channel, and the entries passed over are released (R125). -/
theorem takeEntry (h : Balanced owed s) (ch : ChanId) {passed rest : List CueEntry} {e : CueEntry}
    (hl : s.lists.get ch = passed ++ e :: rest) : Balanced owed (takeEntry ch passed e rest s) := by
  have hlist : Balanced (passed.map (·.clip) ++ e.clip :: owed) (s.setList ch rest) := by
    refine h.setList ch (List.perm_iff_count.2 fun id => ?_)
    rw [hl]
    simp only [List.map_append, List.map_cons, List.count_append, List.count_cons]
    omega
  have hpassed := hlist.passAll ch
  obtain ⟨c, hc⟩ := hpassed.find_of_owed List.mem_cons_self
  exact (hpassed.changeToClip ch hc).releaseClip

theorem passWhole (h : Balanced owed s) (ch : ChanId) : Balanced owed (passWhole ch s) :=
  (h.setList ch (l := []) (List.Perm.refl _)).passAll ch

theorem advanceNext (h : Balanced owed s) (ch : ChanId) (b : WindowEnd) {passed rest : List CueEntry} {e : CueEntry}
    (c : Clip) (hl : s.lists.get ch = passed ++ e :: rest) : Balanced owed (advanceNext ch b passed e c rest s) := by
  have ha := (h.takeEntry ch hl).assignOwnAngles ch
  unfold Machine.advanceNext
  dsimp only
  split
  · exact ha.windowLost ch
  · exact (ha.setChan_sameMaterial ch).congr (custody_raise ..)

theorem takeCue (h : Balanced owed s) (ch : ChanId) {passed rest : List CueEntry} {e : CueEntry} (c : Clip)
    (hl : s.lists.get ch = passed ++ e :: rest) (w : Window) :
    Balanced owed (takeCue ch passed e c rest w s).state :=
  ((h.takeEntry ch hl).congr (custody_raise ..)).cue ch _ _ _ _

theorem takeRunning (h : Balanced owed s) (ch : ChanId) {passed rest : List CueEntry} {e : CueEntry} (c : Clip)
    (hl : s.lists.get ch = passed ++ e :: rest) (w : Window) :
    Balanced owed (takeRunning ch passed e c rest w s).state := by
  have hj := fun n => (h.takeEntry ch hl).setChan_sameMaterial ch
    (x := ((Machine.takeEntry ch passed e rest s).chan ch).jumped c.feed w n (e.target c))
  exact ((hj _).assignOwnAngles ch).congr ((custody_raise ..).trans (custody_preload ..))

/-! ## The tick (R51, R60 to R70) -/

theorem nextEnd (h : Balanced owed s) (ch : ChanId) (w : Window) (e : WindowEnd) : Balanced owed (nextEnd ch w e s) := by
  unfold Machine.nextEnd
  split
  · exact h.advanceNext ch e _ (searchList_parts ‹_›).1
  · exact (h.passWhole ch).congr (custody_stopEnd ..)

theorem clipBoundEnd (h : Balanced owed s) (ch : ChanId) (w : Window) (e : WindowEnd) (q : Int) (m : EndMode) :
    Balanced owed (clipBoundEnd ch w e q m s) := by
  have hstop := h.congr (custody_stopEnd s ch w e)
  have hrun : Balanced owed (match m with
      | .stop => Machine.stopEnd ch w e s
      | .loop => s.setChan ch { s.chan ch with pos := w.wrap q }
      | .next => Machine.nextEnd ch w e s) := by
    cases m with
    | stop => exact hstop
    | loop => exact h.setChan_sameMaterial ch
    | next => exact h.nextEnd ch w e
  unfold Machine.clipBoundEnd
  dsimp only
  split
  · exact hrun
  · exact hrun
  · exact hstop
  · exact h.setChan_sameMaterial ch

theorem settle (h : Balanced owed s) (ch : ChanId) (w : Window) (q : Int) : Balanced owed (settle ch w q s) := by
  unfold Machine.settle
  split
  · exact h.congr (custody_settleInside ..)
  · split
    · exact h.clipBoundEnd ch w _ q _
    · split
      · exact h.congr (custody_liveBoundEnd ..)
      · exact h.congr (custody_tailBoundEnd ..)

theorem selectAndFetch (h : Balanced owed s) (ch : ChanId) (w : Window) : Balanced owed (selectAndFetch ch w s) :=
  ((h.setChan_sameMaterial ch).derive ch).congr (custody_sendLookups ..)

theorem stepActive (h : Balanced owed s) (ch : ChanId) : Balanced owed (stepActive ch s) := by
  unfold Machine.stepActive
  split
  · exact h.windowLost ch
  · have hs := (h.setChan_sameMaterial ch (x := { (rawStep s.curve (s.chan ch)
      ((s.feed (feedOfChannel s ch)).head.getD 0)).1 with window := some ‹Window› }) (rawStep_material ..)).settle ch
      ‹Window› (rawStep s.curve (s.chan ch) ((s.feed (feedOfChannel s ch)).head.getD 0)).2
    dsimp only
    split
    · exact hs
    · exact (hs.setChan_sameMaterial ch).selectAndFetch ch _

theorem stepSlave (h : Balanced owed s) (ch : ChanId) : Balanced owed (stepSlave ch s) := by
  have hj := h.setChan_sameMaterial ch (x := { s.chan ch with jog := 0 })
  unfold Machine.stepSlave
  dsimp only
  split
  · exact hj
  · exact hj.selectAndFetch ch _

theorem presentAndStep (h : Balanced owed s) (ch : ChanId) : Balanced owed (presentAndStep ch s) := by
  unfold Machine.presentAndStep
  split
  · exact h.setChan_sameMaterial ch
  · split
    · exact h.congr (by simp)
    · exact (h.congr (custody_presentActive s ch)).stepSlave ch
    · exact (h.congr (custody_presentActive s ch)).stepActive ch

theorem outputTick (h : Balanced owed s) (ch : ChanId) : Balanced owed (outputTick ch s) := by
  have hb : (beforeTick ch s).custody = s.custody := by
    unfold beforeTick
    split <;> simp
  have ht : Balanced owed (tickPanel ch (Machine.presentAndStep ch (beforeTick ch s))) := by
    unfold tickPanel
    split
    · exact ((h.congr hb).presentAndStep ch).congr (custody_panel ..)
    · exact (h.congr hb).presentAndStep ch
  exact ht

end Balanced
end Sys2Proof.Machine
end

section
/-!
PROOFS. The use counts through the commands, the decoder, the link and the step: every step keeps each clip's use count
equal to its holdings (R47, O59).
-/

-- Proofs checked in turn: side by side they need more threads than the memory limit of check.sh has room for.
set_option Elab.async false

namespace Sys2Proof.Machine

variable {s t : State} {owed : List Nat}

namespace Balanced

/-! ## The reply and the checks of a command (R76, R191, R192) -/

theorem replyWith (kind tag : Byte) {r : CmdResult} (h : Balanced owed r.state) : Balanced owed (replyWith kind tag r) :=
  h.congr rfl

theorem runCommand (h : Balanced owed s) {α : Type} (kind tag : Byte) {parsed : Option α} {act : α → State → CmdResult}
    (ha : ∀ a, Balanced owed (act a s).state) : Balanced owed (runCommand kind tag parsed act s) := by
  unfold Machine.runCommand
  refine Balanced.replyWith kind tag ?_
  split
  · exact h
  · exact ha _

theorem withEngaged (h : Balanced owed s) (n : Nat) {act : ChanId → CmdResult}
    (ha : ∀ ch, Balanced owed (act ch).state) : Balanced owed (withEngaged n s act).state := by
  unfold Machine.withEngaged
  split
  · exact h
  · split <;> [exact h; exact ha _]

theorem withFreeChannel (h : Balanced owed s) (n : Nat) {act : ChanId → CmdResult}
    (ha : ∀ ch, Balanced owed (act ch).state) : Balanced owed (withFreeChannel n s act).state :=
  h.withEngaged n fun ch => by split <;> [exact h; exact ha ch]

theorem withMaterial (h : Balanced owed s) (n : Nat) {act : ChanId → CmdResult}
    (ha : ∀ ch, Balanced owed (act ch).state) : Balanced owed (withMaterial n s act).state :=
  h.withFreeChannel n fun ch => by split <;> [exact h; exact ha ch]

/-! ## Engagement (R180 to R187) -/

theorem cmdSetStore (h : Balanced owed s) (size mode : Option Nat) : Balanced owed (cmdSetStore size mode s).state := by
  unfold Machine.cmdSetStore
  split
  · exact h
  · split
    · exact h
    · exact h.congr rfl

theorem cmdSetFeed (h : Balanced owed s) (n : Nat) (x : FeedFields) : Balanced owed (cmdSetFeed n x s).state := by
  unfold Machine.cmdSetFeed
  split
  · exact h
  · rename_i f _
    dsimp only
    split
    · exact h
    · split
      · exact h
      · have hw := h.congr (custody_setFeed s f { s.feed f with cfg := x.write (s.feed f).cfg })
        show Balanced owed (handTail f _ _)
        unfold handTail
        split
        · exact hw
        · exact hw.takeTail f _

theorem cmdEngage (h : Balanced owed s) : Balanced owed (cmdEngage s).state := by
  have hf : (engageFeeds s).custody = s.custody := foldl_keeps State.custody
    (fun acc f => acc.setFeed f (acc.feed f).engage) (fun _ _ => rfl) allFeeds s
  unfold Machine.cmdEngage
  split
  · exact h
  · split
    · exact h
    · exact h.congr (t := { engageFeeds s with engaged := .engaged }) hf

theorem disengageAll (h : Balanced owed s) : Balanced owed (disengageAll s) := by
  have hd : Balanced owed (dissolveAll s) := h.congr rfl
  have hc := hd.foldl allChans (fun acc ch => disengageChan ch acc) fun _ hu ch =>
    (hu.changeMaterial ch (m := none) fun _ hk => by cases hk).setChan_sameMaterial ch
  have hf := hc.foldl allFeeds (fun acc f => disengageFeed f acc) fun u hu f => hu.congr (disengageFeed_ingested f u).custody
  exact hf.congr (custody_engagement ..)

theorem cmdDisengage (h : Balanced owed s) : Balanced owed (cmdDisengage s).state := by
  unfold Machine.cmdDisengage
  dsimp only [done_state]
  split
  · exact h.disengageAll
  · exact h

/-- After hardware reset no clip stands in the table and nothing holds one (R187). -/
theorem hardwareReset (l : PanelLevels) (s : State) : Balanced [] (hardwareReset l s) where
  clips := rfl
  count id := by
    have hheld : ∀ ch, (Machine.hardwareReset l s).held ch = [] := fun ch => by
      have hchan : (Machine.hardwareReset l s).chan ch = Channel.reset := Quad.get_all _ _
      have hlist : (Machine.hardwareReset l s).lists.get ch = [] := Quad.get_all _ _
      rw [State.held, hchan, hlist]
      rfl
    rw [holdings_eq]
    simp only [hheld, List.count_nil, Finset.sum_const_zero]
    rfl

/-! ## Clips and marks (R31 to R40) -/

theorem markRefused (h : Balanced owed s) (n : Nat) (side : MarkSide) (st : Status) :
    Balanced owed (markRefused n side st s).state := h.congr rfl

/-- A mark that has written the Clip Table may change the references (R31). -/
theorem markDone {m : SMap Clip} (h : Balanced owed { s with clips := m }) (refs : SMap Nat) (id n : Nat) (a : MarkAction)
    (frame : Nat) (clamped : Bool) :
    Balanced owed (markDone id n a frame clamped { s with clips := m, markRefs := refs }).state := h.congr rfl

theorem cmdMarkIn (h : Balanced owed s) (n : Nat) : Balanced owed (cmdMarkIn n s).state := by
  unfold Machine.cmdMarkIn
  split
  · exact h
  · split
    · have hc := Bounded.find_of_pendingClip ‹_›
      unfold markInAgain
      split
      · exact h.markRefused _ _ _
      · exact (h.rewriteClip hc).markDone s.markRefs _ _ _ _ _
    · unfold markInNew
      split
      · exact h.markRefused _ _ _
      · split
        · exact h.markRefused _ _ _
        · exact (h.createClip ‹_›).markDone _ _ _ _ _ _

theorem cmdMarkOut (h : Balanced owed s) (n : Nat) : Balanced owed (cmdMarkOut n s).state := by
  unfold Machine.cmdMarkOut
  split
  · exact h
  · split
    · have hc := Bounded.find_of_pendingClip ‹_›
      unfold markOutClose
      split
      · exact h.markRefused _ _ _
      · exact (h.rewriteClip hc).markDone _ _ _ _ _ _
    · unfold markOutNew
      split
      · exact h.markRefused _ _ _
      · split
        · exact h.markRefused _ _ _
        · exact (h.createClip ‹_›).markDone _ _ _ _ _ _

theorem cmdMakeClip (h : Balanced owed s) (n i o : Nat) : Balanced owed (cmdMakeClip n i o s).state := by
  unfold Machine.cmdMakeClip
  split
  · exact h
  · split
    · exact h
    · split
      · exact h
      · exact h.createClip ‹_›

theorem cmdTrimClip (h : Balanced owed s) (id : Nat) (i o : Option Nat) :
    Balanced owed (cmdTrimClip id i o s).state := by
  unfold Machine.cmdTrimClip
  split
  · exact h
  · split
    · exact h
    · rename_i hc
      split
      · exact h
      · split
        · exact h
        · unfold trimClip
          dsimp only
          split
          · exact h.rewriteClip hc
          · dsimp only [done_state]
            split
            · exact (h.rewriteClip hc).congr rfl
            · exact h.rewriteClip hc

theorem cmdSetClip (h : Balanced owed s) (id : Nat) (x : ClipFields) : Balanced owed (cmdSetClip id x s).state := by
  unfold Machine.cmdSetClip
  split
  · exact h
  · split
    · split
      · exact h
      · rename_i hc
        exact h.rewriteClip hc
    · exact h

/-- A record that is freed has no holdings (R40). -/
theorem cmdDeleteClip (h : Balanced owed s) (id : Nat) : Balanced owed (cmdDeleteClip id s).state := by
  unfold Machine.cmdDeleteClip
  split
  · exact h
  · split
    · exact h
    · rename_i hc
      split
      · exact h
      · rename_i hu
        exact (h.delClip id ((uses_of_find hc).trans (Nat.eq_zero_of_not_pos hu))).congr rfl

theorem cmdRestartFeed (h : Balanced owed s) (n : Nat) : Balanced owed (cmdRestartFeed n s).state := by
  unfold Machine.cmdRestartFeed
  split
  · exact h
  · rename_i f _
    split
    · exact h
    · exact (h.congr (custody_setFeed s f (s.feed f).restarted)).expireWhere f (fun _ => true) none

/-! ## Notices, options and reads -/

theorem cmdSetNotices (h : Balanced owed s) (c u on : Nat) : Balanced owed (cmdSetNotices c u on s).state := by
  unfold Machine.cmdSetNotices
  split
  · refine h.foldl _ _ fun v hv p => hv.congr ?_
    unfold enableCell
    dsimp only
    split
    · rfl
    · split <;> rfl
  · exact h

theorem cmdAckNotice (h : Balanced owed s) (c u : Nat) : Balanced owed (cmdAckNotice c u s).state := by
  unfold Machine.cmdAckNotice
  split
  · exact h
  · exact h.foldl _ _ fun _ hv _ => hv.congr rfl

theorem cmdSetPanel (h : Balanced owed s) (x : PanelFields) : Balanced owed (cmdSetPanel x s).state := by
  unfold Machine.cmdSetPanel
  split
  · exact h
  · exact h.congr rfl

theorem cmdSetChannel (h : Balanced owed s) (n : Nat) (x : ChanFields) : Balanced owed (cmdSetChannel n x s).state := by
  unfold Machine.cmdSetChannel
  split
  · exact h
  · split
    · exact h
    · split
      · exact h
      · exact h.setChan_sameMaterial _

theorem cmdReadClip (h : Balanced owed s) (id : Nat) : Balanced owed (cmdReadClip id s).state := by
  unfold Machine.cmdReadClip
  split
  · exact h
  · split <;> exact h

theorem cmdListClips (h : Balanced owed s) (first n : Nat) : Balanced owed (cmdListClips first n s).state := by
  unfold Machine.cmdListClips
  split <;> exact h

theorem cmdReadList (h : Balanced owed s) (n : Nat) : Balanced owed (cmdReadList n s).state := by
  unfold Machine.cmdReadList
  split <;> exact h

theorem cmdReadFeed (h : Balanced owed s) (n : Nat) : Balanced owed (cmdReadFeed n s).state := by
  unfold Machine.cmdReadFeed
  split <;> exact h

theorem cmdReadNotices (h : Balanced owed s) (n : Nat) : Balanced owed (cmdReadNotices n s).state := by
  unfold Machine.cmdReadNotices
  split <;> exact h

theorem cmdReadChannel (h : Balanced owed s) (n : Nat) : Balanced owed (cmdReadChannel n s).state := by
  unfold Machine.cmdReadChannel
  split
  · exact h
  · dsimp only [done_state]
    split
    · exact h.congr rfl
    · exact h

/-! ## Channels and gangs (R76 to R88, R106, R115) -/

theorem cmdPlay (h : Balanced owed s) (n : Nat) (v : Option Int) : Balanced owed (cmdPlay n v s).state :=
  h.withMaterial n fun ch => h.setChan_sameMaterial ch

theorem cmdShuttle (h : Balanced owed s) (n : Nat) (l : Int) : Balanced owed (cmdShuttle n l s).state :=
  h.withMaterial n fun ch => h.setChan_sameMaterial ch

theorem cmdStill (h : Balanced owed s) (n : Nat) : Balanced owed (cmdStill n s).state :=
  h.withMaterial n fun ch => h.setChan_sameMaterial ch

theorem cmdStep (h : Balanced owed s) (n : Nat) (c : Int) : Balanced owed (cmdStep n c s).state :=
  h.withMaterial n fun ch => h.setChan_sameMaterial ch

theorem cmdCueClip (h : Balanced owed s) (n id : Nat) : Balanced owed (cmdCueClip n id s).state :=
  h.withFreeChannel n fun ch => by
    split
    · exact h
    · split
      · exact h
      · rename_i hc
        split
        · exact h
        · split
          · exact h
          · exact (h.changeToClip ch hc).cue ch _ _ _ _

theorem cmdCueFeed (h : Balanced owed s) (n f r v : Nat) : Balanced owed (cmdCueFeed n f r v s).state :=
  h.withFreeChannel n fun ch => by
    split
    · split
      · exact h
      · exact (h.changeToFeed ch _).cue ch _ _ _ _
    · exact h

theorem goLive (h : Balanced owed s) (ch : ChanId) (f : FeedId) (w : Window) : Balanced owed (goLive ch f w s).state := by
  have hl := (h.changeToFeed ch f).setChan_sameMaterial ch
    (x := ((Machine.changeMaterial ch (some (.feed f)) s).chan ch).goneLive f w)
  exact (hl.congr (custody_sendLookups ..)).followMaster ch _

theorem cmdGoLive (h : Balanced owed s) (n : Nat) (f : Option Nat) : Balanced owed (cmdGoLive n f s).state :=
  h.withFreeChannel n fun ch => by
    split
    · exact h
    · split
      · exact h
      · split
        · exact h
        · exact h.goLive ch _ _

theorem cmdEject (h : Balanced owed s) (n : Nat) : Balanced owed (cmdEject n s).state :=
  h.withEngaged n fun ch => h.eject ch

theorem cmdTakeNext (h : Balanced owed s) (n : Nat) : Balanced owed (cmdTakeNext n s).state :=
  h.withMaterial n fun ch => by
    split
    · exact h
    · have hl := (searchList_parts ‹_›).1
      split
      · exact h
      · split
        · exact h.takeRunning ch _ hl _
        · exact h.takeRunning ch _ hl _
        · exact h.takeCue ch _ hl _

theorem cmdGang (h : Balanced owed s) (n : Nat) (l : List (Nat × Nat × Int)) : Balanced owed (cmdGang n l s).state := by
  unfold Machine.cmdGang
  split
  · split
    · exact h
    · split
      · exact h
      · split
        · exact h
        · split
          · exact h
          · split
            · exact h
            · split
              · exact h
              · exact (h.congr (custody_gangs s _)).foldl _ _ fun _ hu g => hu.joinGang _ g
  · exact h

theorem cmdUngang (h : Balanced owed s) (n : Nat) : Balanced owed (cmdUngang n s).state :=
  h.withEngaged n fun ch => by
    split
    · exact h
    · exact h.foldl _ _ fun _ hu g => hu.ungangSlave _ g

/-! ## Cue lists (R119 to R123) -/

/-- A new entry of a clip that passes the checks of R120 takes the clip. -/
theorem insertEntry (h : Balanced owed s) (ch : ChanId) {pos id : Nat} (v : Option Int) (hc : listCheck s ch id = none)
    (hpos : pos ≤ (s.lists.get ch).length) : Balanced owed (insertEntry ch pos id v s).state := by
  obtain ⟨c, hfind⟩ : ∃ c, SMap.find s.clips id = some c := by
    unfold listCheck at hc
    split at hc
    · cases hc
    · split at hc
      · cases hc
      · exact ⟨_, ‹_›⟩
  refine Balanced.setList (h.takeClip hfind) ch (((List.perm_insertIdx _ _ hpos).map CueEntry.clip).append_right owed
    |>.trans ?_)
  exact List.perm_middle.symm

theorem cmdListAppend (h : Balanced owed s) (n id : Nat) (v : Option Int) :
    Balanced owed (cmdListAppend n id v s).state := by
  unfold Machine.cmdListAppend
  split
  · exact h
  · split
    · exact h
    · split
      · exact h
      · exact h.insertEntry _ v ‹_› le_rfl

theorem cmdListInsert (h : Balanced owed s) (n pos id : Nat) (v : Option Int) :
    Balanced owed (cmdListInsert n pos id v s).state := by
  unfold Machine.cmdListInsert
  split
  · exact h
  · split
    · exact h
    · rename_i hpos
      split
      · exact h
      · exact h.insertEntry _ v ‹_› (Nat.le_of_not_lt fun hlt => hpos (.inr hlt))

theorem cmdListRemove (h : Balanced owed s) (n pos : Nat) : Balanced owed (cmdListRemove n pos s).state := by
  unfold Machine.cmdListRemove
  split
  · exact h
  · rename_i ch _
    split
    · exact h
    · rename_i e he
      obtain ⟨hpos, rfl⟩ := List.getElem?_eq_some_iff.1 he
      refine Balanced.releaseClip (h.setList ch ?_)
      exact List.perm_middle.trans (((List.getElem_cons_eraseIdx_perm hpos).map CueEntry.clip).append_right owed)

theorem releaseEntries {l : List CueEntry} (h : Balanced (l.map (·.clip) ++ owed) s) :
    Balanced owed (releaseEntries l s) := by
  induction l generalizing s with
  | nil => exact h
  | cons e l ih => exact ih (s := Machine.releaseClip e.clip s) h.releaseClip

theorem cmdListClear (h : Balanced owed s) (n : Nat) : Balanced owed (cmdListClear n s).state := by
  unfold Machine.cmdListClear
  split
  · exact h
  · exact (h.setList _ (l := []) (List.Perm.refl _)).releaseEntries

/-! ## The push lines (R177, R178) -/

theorem pushEdge (h : Balanced owed s) (l : PushLine) : Balanced owed (pushEdge l s) := by
  have hp : ∀ p, Balanced owed { s with panel := p } := fun p => h.congr (custody_panel s p)
  unfold Machine.pushEdge
  dsimp only
  split
  · exact h
  · split
    · exact hp _
    · unfold edgeAction
      split
      · exact (hp _).cmdMarkIn _
      · exact (hp _).cmdMarkOut _
      · split
        · exact (hp _).cmdPlay _ _
        · exact (hp _).cmdTakeNext _

/-! ## The decoder and the link (R189 to R193) -/

theorem runUnknownKind (h : Balanced owed s) (kind tag : Byte) : Balanced owed (runUnknownKind kind tag s) :=
  Balanced.replyWith kind tag h

/-- Every command the decoder takes keeps the balance. -/
theorem runFrame (h : Balanced owed s) (f : LinkFrame) : Balanced owed (runFrame f s) := by
  unfold Machine.runFrame
  split
  · exact h.runCommand _ _ fun _ => h.cmdSetStore _ _
  · exact h.runCommand _ _ fun _ => h.cmdSetFeed _ _
  · exact h.runCommand _ _ fun _ => h.cmdSetChannel _ _
  · exact h.runCommand _ _ fun _ => h.congr rfl
  · exact h.runCommand _ _ fun _ => h.cmdSetPanel _
  · exact h.runCommand _ _ fun _ => h.cmdSetNotices _ _ _
  · exact h.runCommand _ _ fun _ => h.cmdEngage
  · exact h.runCommand _ _ fun _ => h.cmdDisengage
  · exact h.runCommand _ _ fun _ => h.cmdRestartFeed _
  · exact h.runCommand _ _ fun _ => h.cmdCueClip _ _
  · exact h.runCommand _ _ fun _ => h.cmdCueFeed _ _ _ _
  · exact h.runCommand _ _ fun _ => h.cmdPlay _ _
  · exact h.runCommand _ _ fun _ => h.cmdShuttle _ _
  · exact h.runCommand _ _ fun _ => h.cmdStill _
  · exact h.runCommand _ _ fun _ => h.cmdStep _ _
  · exact h.runCommand _ _ fun _ => h.cmdGoLive _ _
  · exact h.runCommand _ _ fun _ => h.cmdEject _
  · exact h.runCommand _ _ fun _ => h.cmdTakeNext _
  · exact h.runCommand _ _ fun _ => h.cmdGang _ _
  · exact h.runCommand _ _ fun _ => h.cmdUngang _
  · exact h.runCommand _ _ fun _ => h.cmdMarkIn _
  · exact h.runCommand _ _ fun _ => h.cmdMarkOut _
  · exact h.runCommand _ _ fun _ => h.cmdMakeClip _ _ _
  · exact h.runCommand _ _ fun _ => h.cmdTrimClip _ _ _
  · exact h.runCommand _ _ fun _ => h.cmdSetClip _ _
  · exact h.runCommand _ _ fun _ => h.cmdDeleteClip _
  · exact h.runCommand _ _ fun _ => h.cmdReadClip _
  · exact h.runCommand _ _ fun _ => h.cmdListClips _ _
  · exact h.runCommand _ _ fun _ => h.cmdListAppend _ _ _
  · exact h.runCommand _ _ fun _ => h.cmdListInsert _ _ _ _
  · exact h.runCommand _ _ fun _ => h.cmdListRemove _ _
  · exact h.runCommand _ _ fun _ => h.cmdListClear _
  · exact h.runCommand _ _ fun _ => h.cmdReadList _
  · exact h.runCommand _ _ fun _ => h.cmdReadChannel _
  · exact h.runCommand _ _ fun _ => h.cmdReadFeed _
  · exact h.runCommand _ _ fun _ => h.cmdReadNotices _
  · exact h.runCommand _ _ fun _ => h.cmdAckNotice _ _
  · exact h.runCommand _ _ fun _ => h
  · exact h.runCommand _ _ fun _ => h.congr (custody_cache s _)
  · exact h.runUnknownKind _ _

theorem serviceDecoder (h : Balanced owed s) : Balanced owed (serviceDecoder s) := by
  unfold Machine.serviceDecoder
  split
  · exact h
  · split
    · exact (h.congr (custody_link s _)).runFrame _
    · exact h

theorem offer (h : Balanced owed s) (f : LinkFrame) : Balanced owed (offer f s) := by
  unfold Machine.offer
  split <;> exact h.congr rfl

theorem setRx (h : Balanced owed s) (r : RxState) : Balanced owed (s.setRx r) := h.congr (custody_setRx s r)

theorem linkError (h : Balanced owed s) (c : LinkErrorCause) : Balanced owed (linkError c s) := h.congr (custody_raise ..)

theorem frameHolds (h : Balanced owed s) (bytes : List Byte) : Balanced owed (frameHolds bytes s) := by
  unfold Machine.frameHolds
  split
  · exact h.setRx _
  · split
    · exact (h.setRx _).linkError _
    · split
      · unfold completeFrame
        dsimp only
        split
        · split
          · exact ((h.setRx _).offer _).serviceDecoder
          · exact h.setRx _
        · exact (h.setRx _).linkError _
      · exact h.setRx _

theorem escapedByte (h : Balanced owed s) (bytes : List Byte) (b : Byte) : Balanced owed (escapedByte bytes b s) := by
  unfold Machine.escapedByte
  split
  · exact h.frameHolds _
  · split
    · exact h.frameHolds _
    · split <;> exact (h.setRx _).linkError _

theorem plainByte (h : Balanced owed s) (bytes : List Byte) (b : Byte) : Balanced owed (plainByte bytes b s) := by
  unfold Machine.plainByte
  split
  · split
    · exact h
    · exact (h.setRx _).linkError _
  · split
    · exact h.setRx _
    · exact h.frameHolds _

theorem receiveByte (h : Balanced owed s) (b : Byte) : Balanced owed (receiveByte s b) := by
  unfold Machine.receiveByte
  split
  · split
    · exact h.setRx _
    · exact h
  · exact h.escapedByte _ b
  · exact h.plainByte _ b

theorem recordSent (h : Balanced owed s) : Balanced owed (recordSent s) := by
  unfold Machine.recordSent
  split
  · exact h
  · exact (h.congr (custody_link s _)).serviceDecoder

theorem arrive (h : Balanced owed s) (f : LinkFrame) {run : State → State} (hr : Balanced owed (run s)) :
    Balanced owed (arrive f run s) := by
  unfold Machine.arrive
  split
  · exact hr
  · exact (h.offer f).serviceDecoder

/-! ## The step -/

theorem of_next (h : Balanced owed s) (e : (.next s : Host.Outcome State Fault Refusal) = .next t) : Balanced owed t :=
  Host.Outcome.next.inj e ▸ h

/-- Every command and every event keeps the balance. -/
theorem exec (h : Balanced [] s) (c : Instr) (ht : exec c s = .next t) : Balanced [] t := by
  cases hf : c.frame? with
  | some f =>
    rcases exec_hostCommand hf s with he | he
    · exact (h.arrive f (h.runFrame f)).of_next (he.symm.trans ht)
    · exact (h.arrive f (h.runUnknownKind _ _)).of_next (he.symm.trans ht)
  | none =>
    cases c with
    | frameStartMark f => exact (h.congr (custody_frameStart s f)).of_next ht
    | fragmentArrival f d => exact (h.congr (custody_fragment s f d)).of_next ht
    | frameEndMark f => exact (h.congr (custody_closeFrame s f none)).of_next ht
    | beat r d => exact (h.congr (custody_beat s r d)).of_next ht
    | outputTick ch => exact (h.outputTick ch).of_next ht
    | fetchTimeout ch => exact (h.congr (custody_tickCounted s ch)).of_next ht
    | cacheOverwriteNotice f => exact (h.congr (custody_cacheNotice s f)).of_next ht
    | clipOverwriteNotice f => exact (h.clipNotice f).of_next ht
    | damageReport f n => exact (h.congr (custody_damageArrives s f n)).of_next ht
    | fillReport ch f n => exact (h.congr (custody_reportArrives s ch f n)).of_next ht
    | jogLineChange a b => exact (h.congr (custody_jogLines s a b)).of_next ht
    | markinEdge => exact (h.pushEdge .markin).of_next ht
    | markoutEdge => exact (h.pushEdge .markout).of_next ht
    | takeEdge => exact (h.pushEdge .take).of_next ht
    | pushLineFall l => exact (h.congr (custody_panel s _)).of_next ht
    | hardwareReset l => exact (Balanced.hardwareReset l s).of_next ht
    | linkFrameReceived bytes => exact (h.foldl bytes Machine.receiveByte fun _ hu b => hu.receiveByte b).of_next ht
    | recordSent => exact h.recordSent.of_next ht
    | _ => cases hf

theorem step (h : Balanced [] s) (ht : step s = .next t) : Balanced [] t := by
  unfold Machine.step at ht
  split at ht
  · exact h.of_next ht
  · exact (h.congr (custody_pending s _)).exec _ ht

end Balanced

/-- Settles O59: the use counts stay in balance with the holdings, and nothing is owed after a whole step. -/
theorem everyStepKeepsTheUseCounts : Obligations.EveryStepKeepsTheUseCounts := fun _ _ ht h =>
  balanced_nil_iff.1 ((balanced_nil_iff.2 h).step ht)

end Sys2Proof.Machine
end

section
/-!
PROOFS. The mark commands: what a mark captures, MARK_IN, MARK_OUT and the refusal of a mark (R29 to R35, O27, O28, O29).
-/

-- Proofs checked in turn: side by side they need more threads than the memory limit of check.sh has room for.
set_option Elab.async false

namespace Sys2Proof.Machine

variable {s t : State} {st : Status} {result : List Byte}

/-! ## Pairs, flags and answers of a mark (R31, R34, R46) -/

theorem orderPair_eq (i o : Nat) : orderPair i o = (min i o, max i o, decide (o < i)) := by
  unfold orderPair
  split
  · rw [Nat.min_eq_right (by omega), Nat.max_eq_left (by omega), decide_eq_true ‹_›]
  · rw [Nat.min_eq_left (by omega), Nat.max_eq_right (by omega), decide_eq_false ‹_›]

theorem warnedAfter_eq (flag : Bool) (i j : Nat) : warnedAfter flag i j = if i = j then flag else false := by
  unfold warnedAfter
  split <;> simp [*]

theorem markDone_eq (id : Nat) (n : Byte) (a : MarkAction) (frame : Nat) (clamped : Bool) (s : State) :
    markDone id n.toNat a frame clamped s = ⟨raise 0 (.mark id n.toNat a frame) s, takenAs clamped,
      leBytes 2 id ++ [n, byteOf a.code] ++ leBytes 4 frame⟩ := by
  have hn : leBytes 1 n.toNat = [n] := by simp [leBytes]
  simp only [markDone, done, takenAs, Detail.markBytes, hn, List.append_assoc]
  rfl

theorem exec_markIn (hr : s.ready) (tag n : Byte) (h : cmdMarkIn n.toNat s = ⟨t, st, result⟩) :
    exec (.markIn tag [n]) s = answers 21#8 tag t st result :=
  arrive_answers (act := cmdMarkIn) hr ⟨21#8, tag, [n]⟩ rfl h

theorem exec_markOut (hr : s.ready) (tag n : Byte) (h : cmdMarkOut n.toNat s = ⟨t, st, result⟩) :
    exec (.markOut tag [n]) s = answers 22#8 tag t st result :=
  arrive_answers (act := cmdMarkOut) hr ⟨22#8, tag, [n]⟩ rfl h

theorem sourceAngles_eq (s : State) (src : MarkSource) : sourceAngles s src = match src with
    | .chan m => (s.gangs.get m).map fun g => ⟨g.feed, g.offset⟩
    | .feed _ => [] := by
  cases src <;> rfl

/-! ## The commands, case by case -/

section Cases

variable {n id : Nat} {src : MarkSource} {c : Clip} {cap : Capture}

theorem cmdMarkIn_new (hs : markSource? n = some src) (hp : pendingClip s n src = none) :
    cmdMarkIn n s = markInNew n src s := by simp only [cmdMarkIn, hs, hp]

theorem cmdMarkIn_again (hs : markSource? n = some src) (hp : pendingClip s n src = some (id, c)) :
    cmdMarkIn n s = markInAgain n src id c s := by simp only [cmdMarkIn, hs, hp]

theorem cmdMarkOut_new (hs : markSource? n = some src) (hp : pendingClip s n src = none) :
    cmdMarkOut n s = markOutNew n src s := by simp only [cmdMarkOut, hs, hp]

theorem cmdMarkOut_close (hs : markSource? n = some src) (hp : pendingClip s n src = some (id, c)) :
    cmdMarkOut n s = markOutClose n src id c s := by simp only [cmdMarkOut, hs, hp]

theorem markInNew_ok (hc : capture s src = .ok cap) (hf : freeClip s = some id) : markInNew n src s =
    markDone id n .newIn cap.frame cap.clamped { s with
      clips := s.clips.put id { Clip.create .opened cap.feed cap.frame none with
        clampedFlag := cap.clamped, angles := sourceAngles s src }
      markRefs := s.markRefs.put n id } := by simp only [markInNew, hc, hf]

theorem markInAgain_ok (hc : capture s src = .ok cap) : markInAgain n src id c s =
    markDone id n .remark cap.frame cap.clamped { s with
      clips := s.clips.put id { c with
        markIn := cap.frame, prevIn := some c.markIn, clampedFlag := cap.clamped
        warned := if c.markIn = cap.frame then c.warned else false } } := by
  simp only [markInAgain, hc, warnedAfter_eq]

/-- The mark-in of a clip of the default length that ends at a frame, cut by the tail (R35). -/
theorem defaultIn_eq (tail frame len : Nat) :
    (max (tail : Int) ((frame : Int) - len + 1)).toNat = max tail (frame + 1 - len) := by omega

theorem markOutNew_ok (hc : capture s src = .ok cap) (hf : freeClip s = some id) : markOutNew n src s =
    markDone id n .newOut cap.frame cap.clamped { s with
      clips := s.clips.put id
        { Clip.create .closed cap.feed (max cap.tail (cap.frame + 1 - s.defaultLen)) (some cap.frame) with
          defaulted := true, clampedFlag := cap.clamped, angles := sourceAngles s src }
      markRefs := s.markRefs.del n } := by simp only [markOutNew, hc, hf, defaultIn_eq]

theorem markOutClose_ok (hc : capture s src = .ok cap) : markOutClose n src id c s =
    markDone id n .close (max c.markIn cap.frame) cap.clamped { s with
      clips := s.clips.put id { c with
        state := .closed, markIn := min c.markIn cap.frame, markOut := some (max c.markIn cap.frame)
        swapped := decide (cap.frame < c.markIn), clampedFlag := cap.clamped
        warned := if c.markIn = min c.markIn cap.frame then c.warned else false }
      markRefs := s.markRefs.del n } := by simp only [markOutClose, hc, orderPair_eq, warnedAfter_eq]

/-- A mark with no capture, or with no FREE id for the clip it would make, is refused (R31). -/
theorem mark_refused (hs : markSource? n = some src)
    (h : capture s src = .error st ∨ (∃ cap, capture s src = .ok cap ∧ freeClip s = none ∧
      pendingClip s n src = none ∧ st = .tableFull)) :
    cmdMarkIn n s = markRefused n .into st s ∧ cmdMarkOut n s = markRefused n .out st s := by
  rcases h with hc | ⟨cap, hc, hf, hp, rfl⟩
  · cases hp : pendingClip s n src with
    | none =>
      rw [cmdMarkIn_new hs hp, cmdMarkOut_new hs hp]
      constructor
      · simp only [markInNew, hc]
      · simp only [markOutNew, hc]
    | some r =>
      rw [cmdMarkIn_again hs hp, cmdMarkOut_close hs hp]
      constructor
      · simp only [markInAgain, hc]
      · simp only [markOutClose, hc]
  · rw [cmdMarkIn_new hs hp, cmdMarkOut_new hs hp]
    constructor
    · simp only [markInNew, hc, hf]
    · simp only [markOutNew, hc, hf]

end Cases

/-- Settles O27: the two meanings of MARK_IN, by whether the source has a pending clip on its feed. -/
theorem markInOpensOrReMarks : Obligations.MarkInOpensOrReMarks := by
  constructor
  · intro s tag n src cap id hr hs hp hc hf c
    refine exec_markIn hr tag n ?_
    rw [cmdMarkIn_new hs hp, markInNew_ok hc hf, markDone_eq, sourceAngles_eq]
    rfl
  · intro s tag n src cap id c hr hs hp hc
    refine exec_markIn hr tag n ?_
    rw [cmdMarkIn_again hs hp, markInAgain_ok hc, markDone_eq]
    rfl

/-- Settles O28: the two meanings of MARK_OUT, by whether the source has a pending clip on its feed. -/
theorem markOutClosesOrMakesAClip : Obligations.MarkOutClosesOrMakesAClip := by
  constructor
  · intro s tag n src cap id c hr hs hp hc i o
    refine exec_markOut hr tag n ?_
    rw [cmdMarkOut_close hs hp, markOutClose_ok hc, markDone_eq]
    rfl
  · intro s tag n src cap id hr hs hp hc hf c
    refine exec_markOut hr tag n ?_
    rw [cmdMarkOut_new hs hp, markOutNew_ok hc hf, markDone_eq, sourceAngles_eq]
    rfl

/-! ## What a mark captures (R29, R30) -/

theorem markSource?_none {n : Nat} (h : 11 < n) : markSource? n = none := by
  simp only [markSource?, chanOf?_none (show 4 ≤ n by omega), feedOf?_none (show 8 ≤ n - 4 by omega), Option.map_none]

theorem sourceFeed_active {ch : ChanId} (h : (s.chan ch).state ≠ .idle) :
    sourceFeed s (.chan ch) = channelFeed s ch := if_neg h

theorem capture_idle {ch : ChanId} (h : (s.chan ch).state = .idle) : capture s (.chan ch) = .error .noMaterial := by
  have hs : sourceFeed s (.chan ch) = none := if_pos h
  simp only [capture, hs]

theorem capture_noHead {src : MarkSource} {f : FeedId} (hs : sourceFeed s src = some f) (h : (s.feed f).range = none) :
    capture s src = .error .noHead := by
  simp only [capture, hs, h]

theorem capture_feed {f : FeedId} {w : Window} (h : (s.feed f).range = some w) :
    capture s (.feed f) = .ok ⟨f, w.lo, w.hi, false⟩ := by
  simp only [capture, sourceFeed, h]

theorem capture_chan {ch : ChanId} {f : FeedId} (hs : sourceFeed s (.chan ch) = some f) {w : Window}
    (h : (s.feed f).range = some w) : capture s (.chan ch) = .ok ⟨f, w.lo,
      clampNat w.lo w.hi ((s.chan ch).pos / 1024),
      clampNat w.lo w.hi ((s.chan ch).pos / 1024) != (s.chan ch).pos / 1024⟩ := by
  simp only [capture, hs, h]

theorem bne_eq_decide {α : Type} [DecidableEq α] (a b : α) : (a != b) = decide (a ≠ b) := by
  rw [Bool.eq_iff_iff, bne_iff_ne, decide_eq_true_iff]

/-- Settles O29: the captures of each source, and the refusals of both mark commands. -/
theorem marksCaptureOrAreRefused : Obligations.MarksCaptureOrAreRefused := by
  refine ⟨fun s => ⟨fun f => ?_, fun ch => capture_idle, fun ch f hact hfeed => ⟨?_, fun w hw => ?_⟩⟩, fun s tag n hr => ?_⟩
  · cases hw : (s.feed f).range with
    | none => exact capture_noHead rfl hw
    | some w => exact capture_feed hw
  · exact capture_noHead ((sourceFeed_active hact).trans hfeed)
  · intro frame got
    rw [capture_chan ((sourceFeed_active hact).trans hfeed) hw, bne_eq_decide]
    rfl
  · constructor
    · intro hn
      have hs := markSource?_none hn
      constructor
      · exact exec_markIn hr tag n (by simp only [cmdMarkIn, hs, refuse])
      · exact exec_markOut hr tag n (by simp only [cmdMarkOut, hs, refuse])
    · intro src st hs h
      obtain ⟨hin, hout⟩ := mark_refused hs h
      exact ⟨exec_markIn hr tag n hin, exec_markOut hr tag n hout⟩

end Sys2Proof.Machine
end

section
/-!
PROOFS. The fields a command body carries, read back and checked against their sets (R192, R200), and SET_PANEL (R28,
R172, O18).
-/

-- Proofs checked in turn: side by side they need more threads than the memory limit of check.sh has room for.
set_option Elab.async false

namespace Sys2Proof.Machine

variable {s t : State} {st : Status} {result : List Byte}

/-! ## Fields read back (R200) -/

/-- An unsigned number at the end of a body is read back. -/
theorem takeU_leBytes_end (w : Nat) {n : Nat} (h : n < 256 ^ w) : takeU w (leBytes w n) = some (n, []) := by
  simpa using takeU_leBytes w n [] h

/-- An optional unsigned field at the end of a body is read back. -/
theorem takeOpt_packU_end {w : Nat} {v : Option Nat} (h : ∀ n, v = some n → n < 256 ^ w) :
    takeOpt (takeU w) (packU w v) = some (v, []) := by
  simpa using takeOpt_packU h []

/-- An optional byte is read back as its number. -/
theorem takeOpt_byte (v : Option Byte) (rest : List Byte) :
    takeOpt (takeU 1) (packU 1 (v.map (·.toNat)) ++ rest) = some (v.map (·.toNat), rest) :=
  takeOpt_packU (fun n hn => by
    obtain ⟨b, -, rfl⟩ := Option.map_eq_some_iff.1 hn
    exact b.isLt) rest

/-! ## Enumerated values (R192, R200) -/

section Codes

variable {α : Type} {code : Nat → Option α} {k : Nat} {value : Nat → α} {v : Option Byte}

/-- A value above the last of its set is refused. -/
theorem optCode?_outside (h : ∀ n, code n = if k < n then none else some (value n))
    (hv : ∃ b, v = some b ∧ k < b.toNat) : optCode? code (v.map (·.toNat)) = none := by
  obtain ⟨b, rfl, hb⟩ := hv
  simp only [Option.map_some, optCode?, h, if_pos hb, Option.map_none]

/-- A value of its set, or none, is taken. -/
theorem optCode?_inside (h : ∀ n, code n = if k < n then none else some (value n))
    (hv : ¬ ∃ b, v = some b ∧ k < b.toNat) :
    optCode? code (v.map (·.toNat)) = some (v.map fun b => value b.toNat) := by
  cases v with
  | none => rfl
  | some b =>
    have hb : ¬ k < b.toNat := fun hb => hv ⟨b, rfl, hb⟩
    simp only [Option.map_some, optCode?, h, if_neg hb]

end Codes

theorem onOff?_eq (n : Nat) : onOff? n = if 1 < n then none else some (n == 1) := by
  match n with
  | 0 => rfl
  | 1 => rfl
  | n + 2 => rw [if_pos (by omega)]; rfl

theorem chanOf?_eq (n : Nat) : chanOf? n = if 3 < n then none else some (Fin.ofNat 4 n) := by
  unfold chanOf?
  split
  · rw [if_neg (by omega)]
    exact congrArg some (Fin.ext (Nat.mod_eq_of_lt ‹_›).symm)
  · rw [if_pos (by omega)]

theorem feedOf?_eq (n : Nat) : feedOf? n = if 7 < n then none else some (Fin.ofNat 8 n) := by
  unfold feedOf?
  split
  · rw [if_neg (by omega)]
    exact congrArg some (Fin.ext (Nat.mod_eq_of_lt ‹_›).symm)
  · rw [if_pos (by omega)]

theorem source?_eq (n : Nat) : source? n = if 11 < n then none else some n := by
  unfold source?
  split
  · rw [if_neg (by omega)]
  · rw [if_pos (by omega)]

theorem decodeMode?_eq (n : Nat) : decodeMode? n = if 3 < n then none else
    some (if n = 0 then .x1 else if n = 1 then .x2 else if n = 2 then .x4 else .dirstep) := by
  match n with
  | 0 => rfl
  | 1 => rfl
  | 2 => rfl
  | 3 => rfl
  | n + 4 => rw [if_pos (by omega)]; rfl

theorem takeAction?_eq (n : Nat) : takeAction? n = if 1 < n then none else
    some (if n = 1 then .takeNext else .play) := by
  match n with
  | 0 => rfl
  | 1 => rfl
  | n + 2 => rw [if_pos (by omega)]; rfl

theorem endMode?_eq (n : Nat) : endMode? n = if 2 < n then none else
    some (if n = 0 then .stop else if n = 1 then .loop else .next) := by
  match n with
  | 0 => rfl
  | 1 => rfl
  | 2 => rfl
  | n + 3 => rw [if_pos (by omega)]; rfl

/-! ## SET_PANEL -/

/-- A byte carried for a field whose last value is `k` lies outside its set. -/
def carriesAbove (v : Option Byte) (k : Nat) : Prop := ∃ b, v = some b ∧ k < b.toNat

section Panel

variable (bound source decode takeover action : Option Byte) (len : Option Nat)

/-- The fields of a SET_PANEL whose body carries these bytes. -/
def panelFields : PanelFields :=
  { bound := bound.map (·.toNat), source := source.map (·.toNat), decode := decode.map (·.toNat)
    takeover := takeover.map (·.toNat), takeAction := action.map (·.toNat), defaultLen := len }

/-- A value of a SET_PANEL lies outside its set (R172). -/
def panelOutside : Prop :=
  carriesAbove bound 3 ∨ carriesAbove source 11 ∨ carriesAbove decode 3 ∨ carriesAbove takeover 1 ∨ carriesAbove action 1

theorem parseSetPanel_body (hlen : ∀ v, len = some v → v < 2 ^ 32) :
    parseSetPanel (packU 1 (bound.map (·.toNat)) ++ packU 1 (source.map (·.toNat)) ++
      packU 1 (decode.map (·.toNat)) ++ packU 1 (takeover.map (·.toNat)) ++ packU 1 (action.map (·.toNat)) ++
      packU 4 len) = some (panelFields bound source decode takeover action len) := by
  simp only [parseSetPanel, panelFields, List.append_assoc, takeOpt_byte, takeOpt_packU_end (w := 4) hlen,
    Option.bind_eq_bind, Option.bind_some, bodyEnd_nil]

variable {bound source decode takeover action}

theorem panelWrite_outside (p : Panel) (h : panelOutside bound source decode takeover action) :
    (panelFields bound source decode takeover action len).write? p = none := by
  unfold PanelFields.write? panelFields
  rcases h with h | h | h | h | h
  · simp only [optCode?_outside chanOf?_eq h, Option.bind_eq_bind, Option.bind_none]
  · simp only [optCode?_outside source?_eq h, Option.bind_eq_bind, Option.bind_none, Option.bind_fun_none]
  · simp only [optCode?_outside decodeMode?_eq h, Option.bind_eq_bind, Option.bind_none, Option.bind_fun_none]
  · simp only [optCode?_outside onOff?_eq h, Option.bind_eq_bind, Option.bind_none, Option.bind_fun_none]
  · simp only [optCode?_outside takeAction?_eq h, Option.bind_eq_bind, Option.bind_none, Option.bind_fun_none]

theorem panelWrite_inside (p : Panel) (h : ¬ panelOutside bound source decode takeover action) :
    (panelFields bound source decode takeover action len).write? p = some { p with
      bound := (bound.map fun b => Fin.ofNat 4 b.toNat).getD p.bound
      source := (source.map (·.toNat)).getD p.source
      decode := (decode.map fun b => if b.toNat = 0 then .x1 else if b.toNat = 1 then .x2 else
        if b.toNat = 2 then .x4 else .dirstep).getD p.decode
      takeover := (takeover.map fun b => b.toNat == 1).getD p.takeover
      takeAction := (action.map fun b => if b.toNat = 1 then .takeNext else .play).getD p.takeAction } := by
  simp only [panelOutside, not_or] at h
  obtain ⟨hb, hs, hd, ht, ha⟩ := h
  simp only [PanelFields.write?, panelFields, optCode?_inside chanOf?_eq hb, optCode?_inside source?_eq hs,
    optCode?_inside decodeMode?_eq hd, optCode?_inside onOff?_eq ht, optCode?_inside takeAction?_eq ha,
    Option.bind_eq_bind, Option.bind_some]
  rfl

end Panel

theorem cmdSetPanel_writes {x : PanelFields} {q : Panel} (h : x.write? s.panel = some q) : cmdSetPanel x s =
    done { s with panel := q, defaultLen := (x.defaultLen.map (clampNat 1 65535)).getD s.defaultLen }
      (x.defaultLen.any fun v => clampNat 1 65535 v != v)
      (panelBytes q ((x.defaultLen.map (clampNat 1 65535)).getD s.defaultLen)) := by
  simp only [cmdSetPanel, h]

theorem lengthClamped_eq (len : Option Nat) : (len.any fun v => clampNat 1 65535 v != v) =
    match len with | none => false | some v => v < 1 || 65535 < v := by
  cases len with
  | none => rfl
  | some v => simp only [Option.any_some, clampNat_ne_iff (show 1 ≤ 65535 by decide), Bool.decide_or]

theorem exec_setPanel (hr : s.ready) (tag : Byte) {body : List Byte} {x : PanelFields} (hx : parseSetPanel body = some x)
    (h : cmdSetPanel x s = ⟨t, st, result⟩) : exec (.setPanel tag body) s = answers 5#8 tag t st result :=
  arrive_answers (act := cmdSetPanel) hr ⟨5#8, tag, body⟩ hx h

/-- Settles O18: the whole command is refused for one value outside its set, and else every field carried is written. -/
theorem setPanelWritesTheBinding : Obligations.SetPanelWritesTheBinding := by
  intro s tag bound source decode takeover action len hr hlen one body bad outside p q n
  have hbody : parseSetPanel body = some (panelFields bound source decode takeover action len) :=
    parseSetPanel_body _ _ _ _ _ _ hlen
  constructor
  · intro hout
    refine exec_setPanel hr tag hbody ?_
    simp only [cmdSetPanel, panelWrite_outside len s.panel hout]
    rfl
  · intro hin
    have hbound : (bound.map fun b => Fin.ofNat 4 b.toNat).getD p.bound = q.bound := by cases bound <;> rfl
    have hsource : (source.map (·.toNat)).getD p.source = q.source := by cases source <;> rfl
    have hdecode : (decode.map fun b => if b.toNat = 0 then .x1 else if b.toNat = 1 then .x2 else
        if b.toNat = 2 then .x4 else .dirstep).getD p.decode = q.decode := by cases decode <;> rfl
    have htakeover : (takeover.map fun b => b.toNat == 1).getD p.takeover = q.takeover := by cases takeover <;> rfl
    have haction : (action.map fun b => if b.toNat = 1 then .takeNext else .play).getD p.takeAction = q.takeAction := by
      cases action <;> rfl
    have hwrite : (panelFields bound source decode takeover action len).write? s.panel = some q := by
      rw [panelWrite_inside len p hin, hbound, hsource, hdecode, htakeover, haction]
    have hn : (len.map (clampNat 1 65535)).getD s.defaultLen = n := by
      cases len with
      | none => rfl
      | some v => exact congrArg (max 1) (Nat.min_comm 65535 v)
    refine exec_setPanel hr tag hbody ((cmdSetPanel_writes hwrite).trans ?_)
    simp only [panelFields, hn, lengthClamped_eq]
    rfl

end Sys2Proof.Machine
end

section
/-!
PROOFS. The clips that the host makes, trims and deletes: MAKE_CLIP (R36, O30), TRIM_CLIP (R37, R38, O31) and DELETE_CLIP
(R40, O33).
-/

-- Proofs checked in turn: side by side they need more threads than the memory limit of check.sh has room for.
set_option Elab.async false

namespace Sys2Proof.Machine

variable {s t : State} {st : Status} {result : List Byte}

/-! ## MAKE_CLIP (R36) -/

theorem parseMakeClip_body (n : Byte) {i o : Nat} (hi : i < 2 ^ 32) (ho : o < 2 ^ 32) :
    parseMakeClip (n :: (leBytes 4 i ++ leBytes 4 o)) = some (n.toNat, i, o) := by
  simp only [parseMakeClip, takeU_one, takeU_leBytes 4 i _ hi, takeU_leBytes_end 4 ho, Option.bind_eq_bind,
    Option.bind_some, bodyEnd_nil]

theorem exec_makeClip (hr : s.ready) (tag n : Byte) {i o : Nat} (hi : i < 2 ^ 32) (ho : o < 2 ^ 32)
    (h : cmdMakeClip n.toNat i o s = ⟨t, st, result⟩) :
    exec (.makeClip tag (n :: (leBytes 4 i ++ leBytes 4 o))) s = answers 23#8 tag t st result :=
  arrive_answers (act := fun a : Nat × Nat × Nat => cmdMakeClip a.1 a.2.1 a.2.2) hr ⟨23#8, tag, _⟩
    (parseMakeClip_body n hi ho) h

/-- MAKE_CLIP of a feed with the playable range `w`, into the lowest FREE id. -/
theorem cmdMakeClip_makes {f : FeedId} {w : Window} {id : Nat} (i o : Nat) (hw : (s.feed f).range = some w)
    (hid : freeClip s = some id) : cmdMakeClip f.val i o s =
    (let a := clampNat w.lo w.hi i
     let b := clampNat w.lo w.hi o
     done { s with clips := s.clips.put id { Clip.create .closed f (min a b) (some (max a b)) with
              swapped := decide (b < a), clampedFlag := decide (a ≠ i ∨ b ≠ o) } }
       (decide (a ≠ i ∨ b ≠ o)) (leBytes 2 id ++ leBytes 4 (min a b) ++ leBytes 4 (max a b))) := by
  simp only [cmdMakeClip, feedOf?_val, hw, hid, orderPair_eq, bne_eq_decide, Bool.decide_or]

/-- Settles O30: the refusals in their order, and the clip made. -/
theorem makeClipMakesAClosedClip : Obligations.MakeClipMakesAClosedClip := by
  intro s tag n i o hr hi ho body
  refine ⟨fun hn => exec_makeClip hr tag n hi ho ?_, fun f hf => ⟨fun hw => exec_makeClip hr tag n hi ho ?_, fun w hw =>
    ⟨fun hid => exec_makeClip hr tag n hi ho ?_, fun id hid => exec_makeClip hr tag n hi ho ?_⟩⟩⟩
  · simp only [cmdMakeClip, feedOf?_none hn, refuse]
  · simp only [cmdMakeClip, hf, feedOf?_val, hw, refuse]
  · simp only [cmdMakeClip, hf, feedOf?_val, hw, hid, refuse]
  · rw [hf, cmdMakeClip_makes i o hw hid]
    rfl

/-! ## TRIM_CLIP (R37, R38) -/

theorem parseTrimClip_body {id : Nat} {i o : Option Nat} (hid : id < 65536) (hi : ∀ v, i = some v → v < 2 ^ 32)
    (ho : ∀ v, o = some v → v < 2 ^ 32) :
    parseTrimClip (leBytes 2 id ++ packU 4 i ++ packU 4 o) = some (id, i, o) := by
  simp only [parseTrimClip, List.append_assoc, takeU_leBytes 2 id _ hid, takeOpt_packU (w := 4) hi,
    takeOpt_packU_end (w := 4) ho, Option.bind_eq_bind, Option.bind_some, bodyEnd_nil]

theorem exec_trimClip (hr : s.ready) (tag : Byte) {id : Nat} {i o : Option Nat} (hid : id < 65536)
    (hi : ∀ v, i = some v → v < 2 ^ 32) (ho : ∀ v, o = some v → v < 2 ^ 32)
    (h : cmdTrimClip id i o s = ⟨t, st, result⟩) :
    exec (.trimClip tag (leBytes 2 id ++ packU 4 i ++ packU 4 o)) s = answers 24#8 tag t st result :=
  arrive_answers (act := fun a : Nat × Option Nat × Option Nat => cmdTrimClip a.1 a.2.1 a.2.2) hr ⟨24#8, tag, _⟩
    (parseTrimClip_body hid hi ho) h

section Trim

variable {id : Nat} {i o : Option Nat} {c : Clip} {w : Window}

theorem trimArgument_iff (id : Nat) (i o : Option Nat) :
    (decide (Config.clipRecords ≤ id) || (i.isNone && o.isNone)) = true ↔ 1023 < id ∨ (i = none ∧ o = none) := by
  simp only [Bool.or_eq_true, Bool.and_eq_true, decide_eq_true_iff, Option.isNone_iff_eq_none]
  exact Iff.rfl

theorem cmdTrimClip_badArgument (h : 1023 < id ∨ (i = none ∧ o = none)) :
    cmdTrimClip id i o s = refuse s .badArgument := if_pos ((trimArgument_iff id i o).2 h)

section InRange

variable (h : ¬ (1023 < id ∨ (i = none ∧ o = none)))

include h

theorem cmdTrimClip_notFound (hc : SMap.find s.clips id = none) : cmdTrimClip id i o s = refuse s .notFound := by
  simp only [cmdTrimClip, if_neg (mt (trimArgument_iff id i o).1 h), hc]

theorem cmdTrimClip_expired (hc : SMap.find s.clips id = some c) (he : c.state = .expired) :
    cmdTrimClip id i o s = refuse s .expired := by
  simp only [cmdTrimClip, if_neg (mt (trimArgument_iff id i o).1 h), hc, if_pos he]

theorem cmdTrimClip_noHead (hc : SMap.find s.clips id = some c) (he : c.state ≠ .expired)
    (hw : (s.feed c.feed).range = none) : cmdTrimClip id i o s = refuse s .noHead := by
  simp only [cmdTrimClip, if_neg (mt (trimArgument_iff id i o).1 h), hc, if_neg he, hw]

theorem cmdTrimClip_trims (hc : SMap.find s.clips id = some c) (he : c.state ≠ .expired)
    (hw : (s.feed c.feed).range = some w) : cmdTrimClip id i o s = trimClip id c w i o s := by
  simp only [cmdTrimClip, if_neg (mt (trimArgument_iff id i o).1 h), hc, if_neg he, hw]

end InRange

theorem some_clamp_ne (lo hi x : Nat) :
    (some (clampNat lo hi x) != some x) = decide (clampNat lo hi x ≠ x) := Bool.eq_iff_iff.2 (by simp)

/-- Whether a mark that is given is clamped. -/
theorem map_clamp_ne (v : Option Nat) (lo hi : Nat) :
    (v.map (clampNat lo hi) != v) = v.any fun x => decide (clampNat lo hi x ≠ x) := by
  cases v with
  | none => rfl
  | some x => exact some_clamp_ne lo hi x

/-- A trim that leaves a clip with both marks puts them in order and closes it (R37, R38). -/
theorem trimClip_pair {out : Nat} (hout : (o.map (clampNat w.lo w.hi)).or c.markOut = some out) :
    trimClip id c w i o s =
    (let a := (i.map (clampNat w.lo w.hi)).getD c.markIn
     let clamped := (i.any fun x => decide (clampNat w.lo w.hi x ≠ x)) || o.any fun x => decide (clampNat w.lo w.hi x ≠ x)
     let u : State := { s with clips := s.clips.put id { c with
       state := .closed, markIn := min a out, markOut := some (max a out), swapped := decide (out < a)
       clampedFlag := clamped, defaulted := c.defaulted && i.isNone
       warned := if c.markIn = min a out then c.warned else false } }
     done (if c.state = .opened then clearRefs id u else u) clamped (trimReply (min a out) (some (max a out)))) := by
  unfold trimClip
  cases o with
  | none =>
    have hkept : c.markOut = some out := hout
    simp only [Option.map_none, hkept, map_clamp_ne, orderPair_eq, warnedAfter_eq, bne_self_eq_false, Option.any_none]
  | some v =>
    obtain rfl := Option.some.inj hout
    simp only [Option.map_some, some_clamp_ne, Option.any_some, map_clamp_ne, orderPair_eq, warnedAfter_eq]

/-- An OPEN clip given a mark-in alone stays OPEN (R38). -/
theorem trimClip_markIn (v : Nat) (hout : c.markOut = none) : trimClip id c w (some v) none s =
    (let a := clampNat w.lo w.hi v
     done { s with clips := s.clips.put id { c with
              markIn := a, clampedFlag := decide (a ≠ v), defaulted := false
              warned := if c.markIn = a then c.warned else false } }
       (decide (a ≠ v)) (trimReply a none)) := by
  simp only [trimClip, Option.map_none, hout, Option.map_some, some_clamp_ne, bne_self_eq_false, Bool.or_false,
    Option.getD_some, warnedAfter_eq]

end Trim

/-- Settles O31: the refusals in their order, the pair of a CLOSED clip, and the two trims of an OPEN one. -/
theorem trimClipWritesThePair : Obligations.TrimClipWritesThePair := by
  refine ⟨fun s tag id i o st hr hid hi ho => ?_, ?_, ?_⟩
  · intro outside hcase
    refine exec_trimClip hr tag hid hi ho ?_
    rcases hcase with ⟨hout, rfl⟩ | ⟨hin, hc, rfl⟩ | ⟨c, hin, hc, ⟨he, rfl⟩ | ⟨he, hw, rfl⟩⟩
    · exact cmdTrimClip_badArgument hout
    · exact cmdTrimClip_notFound hin hc
    · exact cmdTrimClip_expired hin hc he
    · exact cmdTrimClip_noHead hin hc he hw
  · intro s tag id i o c w out hr hid hgiven hi ho hc hstate hout hw a b clamped
    have hin : ¬ (1023 < id ∨ (i = none ∧ o = none)) := by
      rintro (hlt | ⟨hi, ho⟩)
      · omega
      · exact hgiven.elim (· hi) (· ho)
    have ha : (i.map (clampNat w.lo w.hi)).getD c.markIn = a := by cases i <;> rfl
    have hb : (o.map (clampNat w.lo w.hi)).or c.markOut = some b := by cases o <;> [exact hout; rfl]
    have hclamped : ((i.any fun x => decide (clampNat w.lo w.hi x ≠ x)) ||
        o.any fun x => decide (clampNat w.lo w.hi x ≠ x)) = clamped := by cases i <;> cases o <;> rfl
    have hdefaulted : i.isNone = decide (i = none) := by cases i <;> rfl
    refine exec_trimClip hr tag (by omega) hi ho ?_
    rw [cmdTrimClip_trims hin hc (by simp [hstate]) hw, trimClip_pair hb]
    simp only [ha, hclamped, hdefaulted, hstate, reduceCtorEq, if_false]
    rfl
  · intro s tag id c w hr hid hc hstate hout hw
    have hlive : c.state ≠ .expired := by simp [hstate]
    constructor
    · intro v hv a
      have hin : ¬ (1023 < id ∨ (some v = none ∧ (none : Option Nat) = none)) := by simp; omega
      refine exec_trimClip hr tag (by omega) (by rintro _ ⟨⟩; exact hv) (by simp) ?_
      rw [cmdTrimClip_trims hin hc hlive hw, trimClip_markIn v hout]
      rfl
    · intro i v hi hv a b clamped
      have hin : ¬ (1023 < id ∨ (i = none ∧ some v = none)) := by simp; omega
      have ha : (i.map (clampNat w.lo w.hi)).getD c.markIn = a := by cases i <;> rfl
      have hclamped : ((i.any fun x => decide (clampNat w.lo w.hi x ≠ x)) ||
          (some v).any fun x => decide (clampNat w.lo w.hi x ≠ x)) = clamped := by cases i <;> rfl
      have hdefaulted : i.isNone = decide (i = none) := by cases i <;> rfl
      refine exec_trimClip hr tag (by omega) hi (by rintro _ ⟨⟩; exact hv) ?_
      rw [cmdTrimClip_trims hin hc hlive hw, trimClip_pair (out := b) rfl]
      simp only [ha, hclamped, hdefaulted, if_pos hstate]
      rfl

/-! ## DELETE_CLIP (R40) -/

theorem exec_deleteClip (hr : s.ready) (tag : Byte) {id : Nat} (hid : id < 65536)
    (h : cmdDeleteClip id s = ⟨t, st, result⟩) :
    exec (.deleteClip tag (leBytes 2 id)) s = answers 26#8 tag t st result :=
  arrive_answers (act := cmdDeleteClip) hr ⟨26#8, tag, leBytes 2 id⟩ (parseClipId_leBytes hid) h

section Delete

variable {id : Nat} (h : id ≤ 1023)

include h

theorem cmdDeleteClip_notFound (hc : SMap.find s.clips id = none) : cmdDeleteClip id s = refuse s .notFound := by
  simp only [cmdDeleteClip, Config.clipRecords, if_neg (Nat.not_le_of_lt (Nat.lt_succ_of_le h)), hc]

theorem cmdDeleteClip_inUse {c : Clip} (hc : SMap.find s.clips id = some c) (hu : 0 < c.useCount) :
    cmdDeleteClip id s = refuse s .inUse := by
  simp only [cmdDeleteClip, Config.clipRecords, if_neg (Nat.not_le_of_lt (Nat.lt_succ_of_le h)), hc, if_pos hu]

theorem cmdDeleteClip_frees {c : Clip} (hc : SMap.find s.clips id = some c) (hu : c.useCount = 0) :
    cmdDeleteClip id s = done (clearRefs id { s with clips := s.clips.del id }) false [] := by
  simp only [cmdDeleteClip, Config.clipRecords, if_neg (Nat.not_le_of_lt (Nat.lt_succ_of_le h)), hc, hu,
    Nat.lt_irrefl, if_false]

end Delete

/-- The references left after those that name a clip are dropped (R27). -/
theorem mem_clearRefs (id : Nat) (s : State) (r : Nat × Nat) :
    r ∈ (clearRefs id s).markRefs ↔ r ∈ s.markRefs ∧ r.2 ≠ id := by
  simp only [clearRefs, List.mem_filter, bne_iff_ne]

/-- Settles O33: the refusals in their order, and the record freed. -/
theorem deleteClipFreesTheRecord : Obligations.DeleteClipFreesTheRecord := by
  intro s tag id hr hid
  refine ⟨fun hout => exec_deleteClip hr tag hid (if_pos hout), fun hin hc =>
    exec_deleteClip hr tag hid (cmdDeleteClip_notFound hin hc), fun c hin hc =>
    ⟨fun hu => exec_deleteClip hr tag hid (cmdDeleteClip_inUse hin hc hu), fun hu hwf =>
    ⟨_, exec_deleteClip hr tag hid (cmdDeleteClip_frees hin hc hu), ?_, fun k hk => ?_, mem_clearRefs id _, rfl⟩⟩⟩
  · exact (SMap.find_del hwf id id).trans (if_pos rfl)
  · exact (SMap.find_del hwf id k).trans (if_neg hk)

end Sys2Proof.Machine
end

section
/-!
PROOFS. SET_CLIP: its body with an angle list, its checks, and the fields it writes (R39, R46, O32).
-/

-- Proofs checked in turn: side by side they need more threads than the memory limit of check.sh has room for.
set_option Elab.async false

namespace Sys2Proof.Machine

variable {s t : State} {st : Status} {result : List Byte}

/-! ## Signed fields and lists read back (R200) -/

theorem takeS_fits {w : Nat} {x : Int} (h : fitsS w x) (rest : List Byte) :
    takeS w (leInt w x ++ rest) = some (x, rest) :=
  takeS_leInt w x rest (by push_cast; exact h.1) (by push_cast; exact h.2)

/-- An optional signed field is read back. -/
theorem takeOpt_packS {w : Nat} {v : Option Int} (h : ∀ x, v = some x → fitsS w x) (rest : List Byte) :
    takeOpt (takeS w) (packS w v ++ rest) = some (v, rest) := by
  cases v with
  | none => rfl
  | some x => exact takeOpt_present _ _ _ _ (takeS_fits (h x rfl) rest)

/-- Entries that are each read back are read back in a row. -/
theorem takeTimes_flatMap {α β : Type} {field : List Byte → Option (β × List Byte)} {bytes : α → List Byte}
    {value : α → β} {l : List α} (h : ∀ a ∈ l, ∀ rest, field (bytes a ++ rest) = some (value a, rest))
    (rest : List Byte) : takeTimes field l.length (l.flatMap bytes ++ rest) = some (l.map value, rest) := by
  induction l with
  | nil => rfl
  | cons a l ih =>
    obtain ⟨ha, hl⟩ := List.forall_mem_cons.1 h
    simp only [List.length_cons, takeTimes, List.flatMap_cons, List.append_assoc, ha, ih hl, List.map_cons]

/-- The bytes of an angle list entry (R200). -/
def angleEntry (a : Byte × Int) : List Byte := a.1 :: leInt 4 a.2

/-- The optional angle list of a SET_CLIP body (R39, R200). -/
def packAngles : Option (List (Byte × Int)) → List Byte
  | none => [0#8]
  | some l => 1#8 :: byteOf l.length :: l.flatMap angleEntry

/-- The numbers an angle list entry names. -/
def angleNumbers (a : Byte × Int) : Nat × Int := (a.1.toNat, a.2)

theorem takeAngle_entry {a : Byte × Int} (h : fitsS 4 a.2) (rest : List Byte) :
    takeAngle (angleEntry a ++ rest) = some (angleNumbers a, rest) := by
  simp only [takeAngle, angleEntry, List.cons_append, takeU_one, takeS_fits h, Option.bind_eq_bind, Option.bind_some]
  rfl

theorem takeOpt_packAngles {angles : Option (List (Byte × Int))}
    (h : ∀ l, angles = some l → l.length < 256 ∧ ∀ a ∈ l, fitsS 4 a.2) :
    takeOpt (takeList takeAngle) (packAngles angles) = some (angles.map (List.map angleNumbers), []) := by
  cases angles with
  | none => rfl
  | some l =>
    obtain ⟨hlen, hfits⟩ := h l rfl
    refine takeOpt_present _ _ _ _ ?_
    have hentries := takeTimes_flatMap (fun a ha rest => takeAngle_entry (hfits a ha) rest) []
    rw [List.append_nil] at hentries
    simp only [takeList, takeU_one, byteOf_toNat_of_lt hlen, hentries]

/-! ## The checks of an angle list (R39) -/

theorem mapM_eq_none {α β : Type} {g : α → Option β} {l : List α} (h : ∃ a ∈ l, g a = none) : l.mapM g = none := by
  induction l with
  | nil => simp at h
  | cons a l ih =>
    rw [List.mapM_cons]
    cases ha : g a with
    | none => rfl
    | some b =>
      have hl : ∃ a ∈ l, g a = none := by simpa [ha] using h
      rw [ih hl]
      rfl

theorem mapM_eq_some {α β : Type} {g : α → Option β} {value : α → β} {l : List α} (h : ∀ a ∈ l, g a = some (value a)) :
    l.mapM g = some (l.map value) := by
  induction l with
  | nil => rfl
  | cons a l ih =>
    obtain ⟨ha, hl⟩ := List.forall_mem_cons.1 h
    rw [List.mapM_cons, ha, ih hl]
    rfl

theorem angleList?_outside {l : List (Byte × Int)} (h : 3 < l.length ∨ ∃ a ∈ l, 7 < a.1.toNat) :
    angleList? (l.map angleNumbers) = none := by
  unfold angleList?
  split
  · rfl
  · rename_i hlen
    rw [List.length_map] at hlen
    obtain ⟨a, ha, hfeed⟩ := h.resolve_left hlen
    refine mapM_eq_none ⟨angleNumbers a, List.mem_map_of_mem ha, ?_⟩
    show (feedOf? a.1.toNat).map _ = none
    rw [feedOf?_none hfeed, Option.map_none]

/-- The angle that an entry of a SET_CLIP writes. -/
def angleOf (a : Byte × Int) : Angle := ⟨Fin.ofNat 8 a.1.toNat, clampOffset a.2⟩

theorem angleList?_inside {l : List (Byte × Int)} (h : ¬ (3 < l.length ∨ ∃ a ∈ l, 7 < a.1.toNat)) :
    angleList? (l.map angleNumbers) = some (l.map angleOf) := by
  obtain ⟨hlen, hfeeds⟩ := not_or.1 h
  unfold angleList?
  rw [if_neg (by rwa [List.length_map]), List.mapM_map]
  refine mapM_eq_some fun a ha => ?_
  show (feedOf? a.1.toNat).map _ = some (angleOf a)
  rw [feedOf?_eq, if_neg fun hfeed => hfeeds ⟨a, ha, hfeed⟩]
  rfl

/-! ## SET_CLIP (R39) -/

theorem clampInt_ne_iff {lo hi : Int} (h : lo ≤ hi) (x : Int) :
    (clampInt lo hi x != x) = decide (x < lo ∨ hi < x) := by
  rw [Bool.eq_iff_iff, bne_iff_ne, decide_eq_true_iff, clampInt]
  omega

section Body

variable (nominal : Option Int) (mode watch : Option Byte) (label : Option Nat) (angles : Option (List (Byte × Int)))

/-- The fields of a SET_CLIP whose body carries these. -/
def setClipFields : ClipFields :=
  { nominal := nominal, endMode := mode.map (·.toNat), watch := watch.map (·.toNat), label := label
    angles := angles.map (List.map angleNumbers) }

/-- A value of a SET_CLIP, its id apart, lies outside its set (R39). -/
def setClipOutside : Prop :=
  carriesAbove mode 2 ∨ carriesAbove watch 1 ∨ ∃ l, angles = some l ∧ (3 < l.length ∨ ∃ a ∈ l, 7 < a.1.toNat)

theorem parseSetClip_body {id : Nat} (hid : id < 65536) (hn : ∀ v, nominal = some v → fitsS 4 v)
    (hl : ∀ v, label = some v → v < 65536)
    (ha : ∀ l, angles = some l → l.length < 256 ∧ ∀ a ∈ l, fitsS 4 a.2) :
    parseSetClip (leBytes 2 id ++ packS 4 nominal ++ packU 1 (mode.map (·.toNat)) ++ packU 1 (watch.map (·.toNat)) ++
      packU 2 label ++ packAngles angles) = some (id, setClipFields nominal mode watch label angles) := by
  simp only [parseSetClip, setClipFields, List.append_assoc, takeU_leBytes 2 id _ hid, takeOpt_packS hn, takeOpt_byte,
    takeOpt_packU (w := 2) hl, takeOpt_packAngles ha, Option.bind_eq_bind, Option.bind_some, bodyEnd_nil]

theorem setClipFields_clamped :
    ((setClipFields nominal mode watch label angles).nominal.any (fun v => clampSpeed v != v) ||
      (setClipFields nominal mode watch label angles).angles.any
        fun l => l.any fun a => clampOffset a.2 != a.2) = true ↔
    (∃ v, nominal = some v ∧ (v < -32768 ∨ 32768 < v)) ∨
      (∃ l, angles = some l ∧ ∃ a ∈ l, a.2 < -65536 ∨ 65535 < a.2) := by
  simp only [setClipFields, clampSpeed, clampOffset, clampInt_ne_iff (show (-32768 : Int) ≤ 32768 by decide),
    clampInt_ne_iff (show (-65536 : Int) ≤ 65535 by decide), Bool.or_eq_true, Option.any_map, Option.any_eq_true,
    Function.comp_def, List.any_map, List.any_eq_true, decide_eq_true_eq]
  rfl

end Body

section Cases

variable {id : Nat} {x : ClipFields}

theorem cmdSetClip_badArgument (h : Config.clipRecords ≤ id ∨ optCode? endMode? x.endMode = none ∨
    optCode? onOff? x.watch = none ∨ x.angles.mapM angleList? = none) : cmdSetClip id x s = refuse s .badArgument := by
  unfold cmdSetClip
  split
  · rfl
  · rename_i hid
    split
    · rename_i hm hw ha
      simp [hid, hm, hw, ha] at h
    · rfl

variable {mode : Option EndMode} {watch : Option Bool} {angles : Option (List Angle)} (hid : id < 1024)
  (hm : optCode? endMode? x.endMode = some mode) (hw : optCode? onOff? x.watch = some watch)
  (ha : x.angles.mapM angleList? = some angles)

include hid hm hw ha

theorem cmdSetClip_notFound (hc : SMap.find s.clips id = none) : cmdSetClip id x s = refuse s .notFound := by
  simp only [cmdSetClip, Config.clipRecords, if_neg (Nat.not_le_of_lt hid), hm, hw, ha, hc]

theorem cmdSetClip_writes {c : Clip} (hc : SMap.find s.clips id = some c) : cmdSetClip id x s =
    done { s with clips := s.clips.put id { c with
      nominal := (x.nominal.map clampSpeed).getD c.nominal
      endMode := mode.getD c.endMode
      watch := watch.getD c.watch
      warned := c.warned && !(watch == some true && !c.watch)
      label := x.label.getD c.label
      angles := angles.getD c.angles } }
      (x.nominal.any (fun v => clampSpeed v != v) || x.angles.any fun l => l.any fun a => clampOffset a.2 != a.2) [] := by
  simp only [cmdSetClip, Config.clipRecords, if_neg (Nat.not_le_of_lt hid), hm, hw, ha, hc]

end Cases

/-- A watch turned on clears WARNED (R46). -/
theorem warnedAfterWatch_eq (warned before : Bool) (watch : Option Byte) :
    (warned && !((watch.map fun b => b.toNat == 1) == some true && !before)) =
      if watch = some 1#8 ∧ before = false then false else warned := by
  have hon : ((watch.map fun b => b.toNat == 1) == some true) = true ↔ watch = some 1#8 := by
    cases watch with
    | none => simp
    | some b => simp [← BitVec.toNat_inj]
  by_cases h : watch = some 1#8 ∧ before = false
  · rw [if_pos h, hon.2 h.1, h.2]
    simp
  · rw [if_neg h]
    cases before with
    | true => simp
    | false => rw [Bool.eq_false_iff.2 fun e => h ⟨hon.1 e, rfl⟩]; simp

/-- The speed that an optional field writes, against the bounds of the clamp. -/
theorem nominalWritten_eq (nominal : Option Int) (old : Int) : (nominal.map clampSpeed).getD old =
    match nominal with | none => old | some v => max (-32768) (min v 32768) := by
  cases nominal with
  | none => rfl
  | some v => exact congrArg (max (-32768)) (Int.min_comm 32768 v)

theorem angleOf_eq (a : Byte × Int) : angleOf a = ⟨Fin.ofNat 8 a.1.toNat, max (-65536) (min a.2 65535)⟩ :=
  congrArg (fun v => Angle.mk (Fin.ofNat 8 a.1.toNat) (max (-65536) v)) (Int.min_comm 65535 a.2)

theorem anglesWritten_eq (angles : Option (List (Byte × Int))) (old : List Angle) :
    (angles.map (List.map angleOf)).getD old = match angles with
      | none => old
      | some l => l.map fun a => ⟨Fin.ofNat 8 a.1.toNat, max (-65536) (min a.2 65535)⟩ := by
  cases angles with
  | none => rfl
  | some l => exact List.map_congr_left fun a _ => angleOf_eq a

theorem exec_setClip (hr : s.ready) (tag : Byte) {body : List Byte} {id : Nat} {x : ClipFields}
    (hx : parseSetClip body = some (id, x)) (h : cmdSetClip id x s = ⟨t, st, result⟩) :
    exec (.setClip tag body) s = answers 25#8 tag t st result :=
  arrive_answers (act := fun a : Nat × ClipFields => cmdSetClip a.1 a.2) hr ⟨25#8, tag, body⟩ hx h

theorem mapM_angleList?_outside {angles : Option (List (Byte × Int))}
    (h : ∃ l, angles = some l ∧ (3 < l.length ∨ ∃ a ∈ l, 7 < a.1.toNat)) :
    (angles.map (List.map angleNumbers)).mapM angleList? = none := by
  obtain ⟨l, rfl, hl⟩ := h
  rw [Option.map_some, Option.mapM_some, angleList?_outside hl]
  rfl

theorem mapM_angleList?_inside {angles : Option (List (Byte × Int))}
    (h : ¬ ∃ l, angles = some l ∧ (3 < l.length ∨ ∃ a ∈ l, 7 < a.1.toNat)) :
    (angles.map (List.map angleNumbers)).mapM angleList? = some (angles.map (List.map angleOf)) := by
  cases angles with
  | none => rfl
  | some l =>
    rw [Option.map_some, Option.mapM_some, angleList?_inside fun hl => h ⟨l, rfl, hl⟩]
    rfl

section Writes

variable (nominal : Option Int) (mode watch : Option Byte) (label : Option Nat) (angles : Option (List (Byte × Int)))

/-- The record of a clip after a SET_CLIP whose body carries these (R39, R46). -/
def clipWritten (c : Clip) : Clip :=
  { c with
    nominal := match nominal with | none => c.nominal | some v => max (-32768) (min v 32768)
    endMode := match mode with
      | none => c.endMode
      | some b => if b.toNat = 0 then .stop else if b.toNat = 1 then .loop else .next
    watch := match watch with | none => c.watch | some b => b.toNat == 1
    warned := if watch = some 1#8 ∧ c.watch = false then false else c.warned
    label := label.getD c.label
    angles := match angles with
      | none => c.angles
      | some l => l.map fun a => ⟨Fin.ofNat 8 a.1.toNat, max (-65536) (min a.2 65535)⟩ }

/-- The fields that the command writes are those of the record named by the body's values. -/
theorem clipWritten_eq (c : Clip) :
    { c with
      nominal := (nominal.map clampSpeed).getD c.nominal
      endMode := (mode.map fun b => if b.toNat = 0 then .stop else if b.toNat = 1 then .loop else .next).getD c.endMode
      watch := (watch.map fun b => b.toNat == 1).getD c.watch
      warned := c.warned && !((watch.map fun b => b.toNat == 1) == some true && !c.watch)
      label := label.getD c.label
      angles := (angles.map (List.map angleOf)).getD c.angles } = clipWritten nominal mode watch label angles c := by
  rw [warnedAfterWatch_eq, nominalWritten_eq, anglesWritten_eq]
  cases mode <;> cases watch <;> rfl

variable {nominal mode watch label angles} {id : Nat} (hid : ¬ 1023 < id) (hin : ¬ setClipOutside mode watch angles)

include hid hin

/-- With every value in its set, a FREE id is refused. -/
theorem cmdSetClip_free (hc : SMap.find s.clips id = none) :
    cmdSetClip id (setClipFields nominal mode watch label angles) s = refuse s .notFound := by
  obtain ⟨hm, hw, ha⟩ : _ ∧ _ ∧ _ := by simpa only [setClipOutside, not_or] using hin
  exact cmdSetClip_notFound (Nat.lt_succ_of_le (Nat.le_of_not_lt hid)) (optCode?_inside endMode?_eq hm)
    (optCode?_inside onOff?_eq hw) (mapM_angleList?_inside ha) hc

/-- With every value in its set, the record of the id is written. -/
theorem cmdSetClip_writesRecord {c : Clip} (hc : SMap.find s.clips id = some c) :
    cmdSetClip id (setClipFields nominal mode watch label angles) s =
      done { s with clips := s.clips.put id (clipWritten nominal mode watch label angles c) }
        ((setClipFields nominal mode watch label angles).nominal.any (fun v => clampSpeed v != v) ||
          (setClipFields nominal mode watch label angles).angles.any fun l => l.any fun a => clampOffset a.2 != a.2)
        [] := by
  obtain ⟨hm, hw, ha⟩ : _ ∧ _ ∧ _ := by simpa only [setClipOutside, not_or] using hin
  rw [← clipWritten_eq]
  exact cmdSetClip_writes (Nat.lt_succ_of_le (Nat.le_of_not_lt hid)) (optCode?_inside endMode?_eq hm)
    (optCode?_inside onOff?_eq hw) (mapM_angleList?_inside ha) hc

end Writes

/-- Settles O32: every value is checked before a FREE id is, and then each field carried is written. -/
theorem setClipWritesTheFields : Obligations.SetClipWritesTheFields := by
  intro s tag id nominal mode watch label angles hr hid hn hl ha one body outside clamped
  have hbody : parseSetClip body = some (id, setClipFields nominal mode watch label angles) :=
    parseSetClip_body nominal mode watch label angles hid hn hl ha
  have hclamp := setClipFields_clamped nominal mode watch label angles
  refine ⟨fun hout => exec_setClip hr tag hbody (cmdSetClip_badArgument ?_), fun hin hc => ?_, fun c hin hc => ?_⟩
  · rcases hout with h | h | h | h
    · exact .inl h
    · exact .inr (.inl (optCode?_outside endMode?_eq h))
    · exact .inr (.inr (.inl (optCode?_outside onOff?_eq h)))
    · exact .inr (.inr (.inr (mapM_angleList?_outside h)))
  · obtain ⟨hlast, hset⟩ := not_or.1 hin
    exact exec_setClip hr tag hbody (cmdSetClip_free hlast hset hc)
  · obtain ⟨hlast, hset⟩ := not_or.1 hin
    have hwrites := cmdSetClip_writesRecord (nominal := nominal) (label := label) hlast hset hc
    refine ⟨fun hclamped => ?_, fun hclamped => ?_⟩
    · rw [hclamp.2 hclamped] at hwrites
      exact exec_setClip hr tag hbody hwrites
    · rw [Bool.eq_false_iff.2 (mt hclamp.1 hclamped)] at hwrites
      exact exec_setClip hr tag hbody hwrites

end Sys2Proof.Machine
end

section
/-!
PROOFS. SET_CURVE (R55, R192, O17).
-/

-- Proofs checked in turn: side by side they need more threads than the memory limit of check.sh has room for.
set_option Elab.async false

namespace Sys2Proof.Machine

variable {s t : State} {st : Status} {result : List Byte}

/-! ## SET_CURVE (R55, R192) -/

/-- Fewer entries than asked for are not read. -/
theorem takeTimes_short {α β : Type} {field : List Byte → Option (β × List Byte)} {bytes : α → List Byte}
    {value : α → β} {l : List α} (h : ∀ a ∈ l, ∀ rest, field (bytes a ++ rest) = some (value a, rest))
    (hend : field [] = none) {n : Nat} (hn : l.length < n) : takeTimes field n (l.flatMap bytes) = none := by
  induction l generalizing n with
  | nil =>
    obtain ⟨n, rfl⟩ := Nat.exists_eq_succ_of_ne_zero (Nat.ne_of_gt hn)
    simp only [List.flatMap_nil, takeTimes, hend]
  | cons a l ih =>
    obtain ⟨ha, hl⟩ := List.forall_mem_cons.1 h
    obtain ⟨n, rfl⟩ := Nat.exists_eq_succ_of_ne_zero (Nat.ne_of_gt (Nat.zero_lt_of_lt hn))
    simp only [List.flatMap_cons, takeTimes, ha, ih hl (Nat.lt_of_succ_lt_succ hn)]

theorem parseSetCurve_body {pts : List Int} (hfits : ∀ x ∈ pts, fitsS 4 x) (hlen : pts.length = 17) :
    parseSetCurve (pts.flatMap (leInt 4)) = some pts := by
  have hread := takeTimes_flatMap (value := id) (fun x hx rest => takeS_fits (hfits x hx) rest) []
  rw [List.append_nil, List.map_id, hlen] at hread
  simp only [parseSetCurve, hread, Option.bind_eq_bind, Option.bind_some, bodyEnd_nil]

/-- A body with fewer points leaves the reader short, and one with more leaves bytes over (R192). -/
theorem parseSetCurve_badLength {pts : List Int} (hfits : ∀ x ∈ pts, fitsS 4 x) (hlen : pts.length ≠ 17) :
    parseSetCurve (pts.flatMap (leInt 4)) = none := by
  have hread : ∀ x ∈ pts, ∀ rest, takeS 4 (leInt 4 x ++ rest) = some (id x, rest) :=
    fun x hx rest => takeS_fits (hfits x hx) rest
  rcases Nat.lt_or_gt_of_ne hlen with hshort | hlong
  · simp only [parseSetCurve, takeTimes_short hread rfl hshort, Option.bind_eq_bind, Option.bind_none]
  · have hfirst := takeTimes_flatMap (l := pts.take 17) (fun x hx => hread x (List.mem_of_mem_take hx))
      ((pts.drop 17).flatMap (leInt 4))
    rw [← List.flatMap_append, List.take_append_drop, List.length_take_of_le (Nat.le_of_lt hlong)] at hfirst
    have hleft : (pts.drop 17).flatMap (leInt 4) ≠ [] := by
      rw [List.drop_eq_getElem_cons hlong, List.flatMap_cons]
      exact fun e => absurd (congrArg List.length e) (by simp)
    simp only [parseSetCurve, hfirst, Option.bind_eq_bind, Option.bind_some, bodyEnd, if_neg hleft]

theorem cmdSetCurve_eq (pts : List Int) (s : State) : cmdSetCurve pts s =
    ⟨{ s with curve := pts.map fun x => max (-32768) (min x 32768) },
      takenAs (pts.any fun x => decide (x < -32768 ∨ 32768 < x)), []⟩ := by
  have hclamp : pts.map clampSpeed = pts.map fun x => max (-32768) (min x 32768) :=
    List.map_congr_left fun x _ => by rw [clampSpeed, clampInt, min_comm]
  have hstatus : (pts.map clampSpeed != pts) = pts.any fun x => decide (x < -32768 ∨ 32768 < x) := by
    induction pts with
    | nil => rfl
    | cons x pts ih =>
      rw [List.map_cons, List.any_cons, ← clampInt_ne_iff (by decide), ← ih (List.cons_eq_cons.1 hclamp).2]
      simp only [clampSpeed, bne, List.cons_beq_cons, Bool.not_and]
  rw [hclamp] at hstatus
  simp only [cmdSetCurve, hclamp, hstatus]
  rfl

/-- Settles O17: a body of 17 points is read back whole, and any other is refused before the command acts. -/
theorem setCurveWritesAllPoints : Obligations.SetCurveWritesAllPoints := by
  intro s tag pts hr hfits
  refine ⟨fun hlen => ?_, fun hlen => ?_⟩
  · exact arrive_answers hr ⟨4#8, tag, _⟩ (parseSetCurve_body hfits hlen) (cmdSetCurve_eq pts s)
  · show Host.Outcome.next (arrive _ (runCommand 4#8 tag (parseSetCurve _) cmdSetCurve) s) = _
    rw [parseSetCurve_badLength hfits hlen, arrive_ready _ _ hr]
    rfl

end Sys2Proof.Machine
end

section
/-!
PROOFS. The arithmetic of a tick (R56 to R69, R108, R109, O26).
-/

-- Proofs checked in turn: side by side they need more threads than the memory limit of check.sh has room for.
set_option Elab.async false

namespace Sys2Proof.Machine

/-! ## The shuttle curve and the ramp (R56, R57) -/

/-- The rounded value lies within half a unit, and a half goes away from zero (R56). -/
theorem roundSixteenth_spec (p : Int) :
    -8 ≤ 16 * roundSixteenth p - p ∧ 16 * roundSixteenth p - p ≤ 8 ∧
      (16 * roundSixteenth p - p = 8 → 0 < p) ∧ (16 * roundSixteenth p - p = -8 → p < 0) := by
  unfold roundSixteenth
  split <;> omega

/-- A lever value names a curve point and the sixteenths past it; the target lies between that point and the next. -/
theorem curveTarget_eq {curve : List Int} {lever : Int} (hlen : curve.length = 17) (hlo : -128 ≤ lever)
    (hhi : lever ≤ 127) : ∃ (k u : Nat) (a b : Int), lever + 128 = 16 * k + u ∧ u < 16 ∧ curve[k]? = some a ∧
      curve[k + 1]? = some b ∧ curveTarget curve lever = a + roundSixteenth ((b - a) * u) := by
  have hk : (lever + 128).toNat / 16 + 1 < curve.length := by omega
  refine ⟨(lever + 128).toNat / 16, (lever + 128).toNat % 16, _, _, by omega, by omega,
    List.getElem?_eq_getElem (Nat.lt_of_succ_lt hk), List.getElem?_eq_getElem hk, ?_⟩
  simp only [curveTarget, List.getD_eq_getElem?_getD, List.getElem?_eq_getElem hk,
    List.getElem?_eq_getElem (Nat.lt_of_succ_lt hk), Option.getD_some]

theorem rampSpeed_spec (limit : Nat) (speed target : Int) :
    (limit = 0 → rampSpeed limit speed target = target) ∧
    (speed - limit ≤ target → target ≤ speed + limit → rampSpeed limit speed target = target) ∧
    (0 < limit → speed + limit < target → rampSpeed limit speed target = speed + limit) ∧
    (0 < limit → target < speed - limit → rampSpeed limit speed target = speed - limit) := by
  unfold rampSpeed clampInt
  refine ⟨fun h => if_pos h, fun h1 h2 => ?_, fun h1 h2 => ?_, fun h1 h2 => ?_⟩ <;> split <;> omega

/-! ## The LOOP wrap (R62) -/

/-- A wrapped position lies in the window, a whole number of spans from where it was. -/
theorem Window.wrap_spec {w : Window} (h : w.lo ≤ w.hi) (q : Int) :
    w.lo * 1024 ≤ w.wrap q ∧ w.wrap q ≤ w.hi * 1024 + 1023 ∧
      ∃ k : Int, q = w.wrap q + k * ((w.hi - w.lo + 1) * 1024 : Nat) := by
  have hspan : (((w.hi - w.lo + 1) * 1024 : Nat) : Int) = ((w.hi : Int) - w.lo + 1) * 1024 := by omega
  have hpos : (0 : Int) < ((w.hi : Int) - w.lo + 1) * 1024 := by omega
  have hnonneg := Int.emod_nonneg (q - (w.lo : Int) * 1024) (ne_of_gt hpos)
  have hlt := Int.emod_lt_of_pos (q - (w.lo : Int) * 1024) hpos
  have hdiv := Int.mul_ediv_add_emod (q - (w.lo : Int) * 1024) (((w.hi : Int) - w.lo + 1) * 1024)
  have hwrap : (w.wrap q : Int) =
      (w.lo : Int) * 1024 + (q - (w.lo : Int) * 1024) % (((w.hi : Int) - w.lo + 1) * 1024) :=
    Int.toNat_of_nonneg (by omega)
  refine ⟨by omega, by omega, (q - (w.lo : Int) * 1024) / (((w.hi : Int) - w.lo + 1) * 1024), ?_⟩
  rw [hspan, hwrap]
  linear_combination -hdiv

/-! ## Frame selection (R68) -/

theorem pickFrame_plain {blend : Bool} {hi p : Nat} (h : blend = false ∨ p / 1024 = hi) :
    pickFrame blend hi p = (p / 1024, none, 0) := by
  rcases h with rfl | rfl <;> simp [pickFrame]

/-- With blend on below the top frame, the weight decides between the frame, the next and both. -/
theorem pickFrame_blend {hi p : Nat} (h : p / 1024 ≠ hi) : pickFrame true hi p =
    if (p % 1024 + 32) / 64 = 16 then (p / 1024 + 1, none, 0)
    else if (p % 1024 + 32) / 64 = 0 then (p / 1024, none, 0)
    else (p / 1024, some (p / 1024 + 1), (p % 1024 + 32) / 64) := by
  simp [pickFrame, h]

theorem pickFrame_spec (blend : Bool) (hi p : Nat) :
    let f := p / 1024
    let weight := (p % 1024 + 32) / 64
    (blend = false ∨ f = hi → pickFrame blend hi p = (f, none, 0)) ∧
    (blend = true → f ≠ hi → weight = 0 → pickFrame blend hi p = (f, none, 0)) ∧
    (blend = true → f ≠ hi → weight = 16 → pickFrame blend hi p = (f + 1, none, 0)) ∧
    (blend = true → f ≠ hi → weight ≠ 0 → weight ≠ 16 → pickFrame blend hi p = (f, some (f + 1), weight)) := by
  refine ⟨pickFrame_plain, ?_, ?_, ?_⟩
  · rintro rfl hf hw
    rw [pickFrame_blend hf, hw]
    rfl
  · rintro rfl hf hw
    rw [pickFrame_blend hf, if_pos hw]
  · rintro rfl hf h0 h16
    rw [pickFrame_blend hf, if_neg h16, if_neg h0]

/-! ## Lookahead (R69) -/

theorem loopsAt_iff (s : State) (m : Option Material) (e : WindowEnd) :
    loopsAt s m e = true ↔ ∃ c, boundClip s m e = some c ∧ c.endMode = .loop := by
  unfold loopsAt
  cases boundClip s m e <;> simp

/-- A predicted position wraps beyond an end that loops, is clamped beyond any other, and stays inside the window. -/
theorem settlePrediction_eq (w : Window) (loops : WindowEnd → Bool) (q : Int) : settlePrediction w loops q =
    if ((w.hi : Int) + 1) * 1024 ≤ q ∧ loops .upper = true ∨
        q < ((w.hi : Int) + 1) * 1024 ∧ q < (w.lo : Int) * 1024 ∧ loops .lower = true then w.wrap q
    else if ((w.hi : Int) + 1) * 1024 ≤ q then w.hi * 1024 + 1023
    else if q < (w.lo : Int) * 1024 then w.lo * 1024
    else q.toNat := by
  unfold settlePrediction Window.overrun
  by_cases hu : ((w.hi : Int) + 1) * 1024 ≤ q
  · have hnot : ¬ q < ((w.hi : Int) + 1) * 1024 := not_lt.2 hu
    simp only [hu, hnot, if_true, true_and, false_and, or_false]
    rfl
  · have hbelow : q < ((w.hi : Int) + 1) * 1024 := not_le.1 hu
    by_cases hl : q < (w.lo : Int) * 1024
    · simp only [hu, hbelow, hl, if_true, if_false, true_and, false_and, false_or]
      rfl
    · simp only [hu, hl, if_false, false_and, and_false, or_false]

theorem lookahead_idle {s : State} {x : Channel} {w : Window} {sel : Selection}
    (h : ¬ (x.state.predicts = true ∧ x.speed ≠ 0)) : lookahead s x w sel = [] := by
  unfold lookahead
  rw [if_neg (by simpa using h)]

theorem predicts_iff (st : ChanState) :
    st.predicts = true ↔ st = .playing ∨ st = .shuttle ∨ st = .live ∨ st = .slave := by
  cases st <;> simp [ChanState.predicts]

theorem lookahead_runs {s : State} {x : Channel} {w : Window} {sel : Selection} (hp : x.state.predicts = true)
    (hs : x.speed ≠ 0) : lookahead s x w sel =
      (((List.range x.opts.lookahead).map fun i : Nat =>
        settlePrediction w (loopsAt s x.material) ((x.pos : Int) + (i + 1 : Nat) * x.speed) / 1024).filter
          fun n => n ≠ sel.frame ∧ sel.partner ≠ some n).eraseDups := by
  unfold lookahead
  rw [if_pos (by simp [hp, hs]), predictFrames_eq, List.map_map]
  congr 2
  funext n
  cases hpart : sel.partner <;> simp [Selection.frames, hpart, eq_comm]

/-! ## The window and the place of a slave (R108, R109) -/

theorem slaveWindow_spec {r : Window} {a b : Int} (hr : r.lo ≤ r.hi) (hab : a ≤ b) :
    let w := slaveWindow r a b
    r.lo ≤ w.lo ∧ w.lo ≤ w.hi ∧ w.hi ≤ r.hi ∧ (b < r.lo → w = ⟨r.lo, r.lo⟩) ∧
      ((r.hi : Int) < a → w = ⟨r.hi, r.hi⟩) ∧
      ((r.lo : Int) ≤ b → a ≤ r.hi → (w.lo : Int) = max a r.lo ∧ (w.hi : Int) = min b r.hi) := by
  by_cases hbelow : b < r.lo
  · have hw : slaveWindow r a b = ⟨r.lo, r.lo⟩ := if_pos hbelow
    simp only [hw]
    refine ⟨le_rfl, le_rfl, hr, fun _ => trivial, fun h => ?_, fun h => ?_⟩ <;> omega
  · by_cases habove : (r.hi : Int) < a
    · have hw : slaveWindow r a b = ⟨r.hi, r.hi⟩ := (if_neg hbelow).trans (if_pos habove)
      simp only [hw]
      refine ⟨hr, le_rfl, le_rfl, fun h => ?_, fun _ => trivial, fun _ h => ?_⟩ <;> omega
    · have hw : slaveWindow r a b = ⟨(max a r.lo).toNat, (min b r.hi).toNat⟩ := (if_neg hbelow).trans (if_neg habove)
      simp only [hw]
      refine ⟨?_, ?_, ?_, fun h => ?_, fun h => ?_, fun _ _ => ⟨?_, ?_⟩⟩ <;> omega

theorem placeSlave_spec {w : Window} (hw : w.lo ≤ w.hi) (q : Int) :
    let p := placeSlave w q
    w.lo * 1024 ≤ p.1 ∧ p.1 ≤ w.hi * 1024 + 1023 ∧ (q < w.lo * 1024 → p = (w.lo * 1024, true)) ∧
      ((w.hi : Int) * 1024 + 1023 < q → p = (w.hi * 1024, true)) ∧
      ((w.lo : Int) * 1024 ≤ q → q ≤ w.hi * 1024 + 1023 → (p.1 : Int) = q ∧ p.2 = false) := by
  simp only [placeSlave, Window.first, Window.last, Nat.cast_add, Nat.cast_mul, Nat.cast_ofNat]
  by_cases hlo : q < (w.lo : Int) * 1024
  · simp only [if_pos hlo]
    refine ⟨?_, ?_, fun _ => trivial, fun h => ?_, fun h => ?_⟩ <;> omega
  · simp only [if_neg hlo]
    by_cases hhi : (w.hi : Int) * 1024 + 1023 < q
    · simp only [if_pos hhi]
      refine ⟨?_, ?_, fun h => ?_, fun _ => trivial, fun _ h => ?_⟩ <;> omega
    · simp only [if_neg hhi]
      refine ⟨?_, ?_, fun h => ?_, fun h => ?_, fun _ _ => ⟨?_, trivial⟩⟩ <;> omega

/-- Settles O26, function by function. -/
theorem positionArithmetic : Obligations.PositionArithmetic := by
  refine ⟨fun curve lever hlen hlo hhi => ?_, rampSpeed_spec, fun jog n => ?_, fun w q h => Window.wrap_spec h q,
    pickFrame_spec, fun s x w sel => ?_, fun r a b q hr hab => ?_⟩
  · obtain ⟨k, u, a, b, hlever, hu, ha, hb, htarget⟩ := curveTarget_eq hlen hlo hhi
    exact ⟨k, u, a, b, _, hlever, hu, ha, hb, htarget, roundSixteenth_spec _⟩
  · rw [jogSum, clampInt, min_comm]
  · intro loops place runs
    have hplace : ∀ q, settlePrediction w (loopsAt s x.material) q = place q := fun q => by
      rw [settlePrediction_eq]
      simp only [loopsAt_iff]
      rfl
    refine ⟨fun h => lookahead_idle (by rwa [predicts_iff]), fun hr hs frames hframes hlen => ?_⟩
    have hmap : frames = (List.range x.opts.lookahead).map fun i : Nat =>
        settlePrediction w (loopsAt s x.material) ((x.pos : Int) + (i + 1 : Nat) * x.speed) / 1024 := by
      refine List.ext_getElem? fun i => ?_
      by_cases hi : i < x.opts.lookahead
      · simp [hframes i hi, hi, hplace]
      · simp [List.getElem?_eq_none (hlen.trans_le (not_lt.1 hi)), hi]
    rw [lookahead_runs ((predicts_iff _).2 hr) hs, hmap]
  · intro w p
    obtain ⟨hlo, hle, hhi, hbelow, habove, hinside⟩ := slaveWindow_spec hr hab
    obtain ⟨hfirst, hlast, hunder, hover, hin⟩ := placeSlave_spec hle q
    exact ⟨hlo, hle, hhi, hfirst, hlast, hbelow, habove, hinside, hunder, hover, hin⟩

end Sys2Proof.Machine
end

section
/-!
PROOFS. What an output tick does at its channel alone: the count (R146), the presentation (R89 to R99) and the lookups (R94).
-/

-- Proofs checked in turn: side by side they need more threads than the memory limit of check.sh has room for.
set_option Elab.async false

namespace Sys2Proof.Machine

/-! ## The Frame Cache under presentations, counts and lookups: what it keeps -/

@[simp] theorem Cache.setPins_errorLatch (c : Cache) (ch : ChanId) (l : List Nat) :
    (c.setPins ch l).errorLatch = c.errorLatch := rfl

@[simp] theorem Cache.setPins_pins (c : Cache) (ch : ChanId) (l : List Nat) :
    (c.setPins ch l).pins = c.pins.set ch l := rfl

theorem Cache.abort_errorLatch (c : Cache) (k : Nat) (why : Reason) : (c.abort k why).errorLatch = c.errorLatch := by
  unfold Cache.abort Cache.abandonSlot
  split
  · rfl
  · split
    · rfl
    · split
      · rfl
      · split <;> rfl

theorem Cache.present_errorLatch {c d : Cache} {ch : ChanId} {f : FeedId} {n : Nat} {p : Option Nat} {b : Bool}
    (h : c.present ch f n p = some (d, b)) : d.errorLatch = c.errorLatch := by
  unfold Cache.present at h
  split at h
  · cases h
  · split at h <;> · cases h; rfl

/-- A lookup leaves the pins and the error latch. -/
theorem lookup_cache_keeps (ch : ChanId) (f : FeedId) (n : Nat) (s : State) :
    (lookup ch f n s).1.cache.pins = s.cache.pins ∧ (lookup ch f n s).1.cache.errorLatch = s.cache.errorLatch := by
  have hallocate : ∀ read d, s.cache.allocate ch f n read = some d →
      d.pins = s.cache.pins ∧ d.errorLatch = s.cache.errorLatch := by
    intro read d h
    unfold Cache.allocate at h
    split at h
    · cases h
    · split at h
      · cases h; exact ⟨rfl, rfl⟩
      · cases h
  have hanswer : ∀ read, (s.cache.answer ch f n read).1.pins = s.cache.pins ∧
      (s.cache.answer ch f n read).1.errorLatch = s.cache.errorLatch := by
    intro read
    unfold Cache.answer
    split
    · split
      · exact hallocate _ _ ‹_›
      · exact ⟨rfl, rfl⟩
    · split <;> exact ⟨rfl, rfl⟩
  unfold lookup
  dsimp only
  split
  · exact ⟨rfl, rfl⟩
  · split
    · exact ⟨rfl, rfl⟩
    · split
      · exact ⟨rfl, rfl⟩
      · exact hanswer _

/-! ## What changes at one channel alone -/

/-- From `s` to `t` only channel `c` (not its options and lever), the Frame Cache (not its error latch), the cells
numbered in `ks` and the link have changed. -/
structure Alone (c : ChanId) (ks : List Nat) (s t : State) : Prop where
  whole : ∃ l cs k q, t = { s with link := l, cells := cs, cache := k, chans := q }
  other : ∀ d, d ≠ c → t.chan d = s.chan d
  opts : (t.chan c).opts = (s.chan c).opts
  lever : (t.chan c).lever = (s.chan c).lever
  latch : t.cache.errorLatch = s.cache.errorLatch
  length : t.cells.length = s.cells.length
  cell : ∀ i, i ∉ ks → t.cell i = s.cell i

namespace Alone

variable {c : ChanId} {ks : List Nat} {s t u : State}

theorem refl (c : ChanId) (ks : List Nat) (s : State) : Alone c ks s s :=
  ⟨⟨_, _, _, _, rfl⟩, fun _ _ => rfl, rfl, rfl, rfl, rfl, fun _ _ => rfl⟩

theorem trans (h : Alone c ks s t) (h' : Alone c ks t u) : Alone c ks s u := by
  obtain ⟨⟨_, _, _, _, rfl⟩, ho, hopts, hlever, hlatch, hl, hc⟩ := h
  obtain ⟨⟨l, cs, k, q, rfl⟩, ho', hopts', hlever', hlatch', hl', hc'⟩ := h'
  exact ⟨⟨l, cs, k, q, rfl⟩, fun d hd => (ho' d hd).trans (ho d hd), hopts'.trans hopts, hlever'.trans hlever,
    hlatch'.trans hlatch, hl'.trans hl, fun i hi => (hc' i hi).trans (hc i hi)⟩

theorem mono {ks' : List Nat} (h : Alone c ks s t) (hk : ∀ i ∈ ks, i ∈ ks') : Alone c ks' s t :=
  { h with cell := fun i hi => h.cell i fun hm => hi (hk i hm) }

section Kept

variable (h : Alone c ks s t)
include h

theorem feeds : t.feeds = s.feeds := by obtain ⟨_, _, _, _, rfl⟩ := h.whole; rfl
theorem gangs : t.gangs = s.gangs := by obtain ⟨_, _, _, _, rfl⟩ := h.whole; rfl
theorem clips : t.clips = s.clips := by obtain ⟨_, _, _, _, rfl⟩ := h.whole; rfl
theorem lists : t.lists = s.lists := by obtain ⟨_, _, _, _, rfl⟩ := h.whole; rfl
theorem curve : t.curve = s.curve := by obtain ⟨_, _, _, _, rfl⟩ := h.whole; rfl
theorem engaged : t.engaged = s.engaged := by obtain ⟨_, _, _, _, rfl⟩ := h.whole; rfl
theorem feed (f : FeedId) : t.feed f = s.feed f := State.feed_congr h.feeds f

theorem setChan {x : Channel} (ho : x.opts = (t.chan c).opts := by rfl) (hl : x.lever = (t.chan c).lever := by rfl) :
    Alone c ks s (t.setChan c x) := by
  refine h.trans ⟨⟨_, _, _, _, rfl⟩, fun d hd => ?_, ?_, ?_, rfl, rfl, fun _ _ => rfl⟩
  · rw [State.chan_setChan, if_neg hd]
  · rw [State.chan_setChan, if_pos rfl, ho]
  · rw [State.chan_setChan, if_pos rfl, hl]

theorem withCache {k : Cache} (hk : k.errorLatch = t.cache.errorLatch := by rfl) :
    Alone c ks s { t with cache := k } :=
  h.trans ⟨⟨_, _, _, _, rfl⟩, fun _ _ => rfl, rfl, rfl, hk, rfl, fun _ _ => rfl⟩

theorem raise {n : Nat} {d : Detail} (hi : cellIndex d.cls n ∈ ks) : Alone c ks s (raise n d t) := by
  refine h.trans ⟨⟨_, _, _, _, rfl⟩, fun _ _ => rfl, rfl, rfl, rfl, raise_cells_length .., fun i hk => ?_⟩
  rw [raise_cell, if_neg]
  rintro ⟨rfl, -⟩
  exact hk hi

end Kept

theorem foldl {α : Type} {op : State → α → State} (hop : ∀ t a, Alone c ks t (op t a)) (l : List α) (s : State) :
    Alone c ks s (l.foldl op s) :=
  List.foldlRecOn l op (refl c ks s) fun t h a _ => h.trans (hop t a)

end Alone

/-! ## The count of a tick (R146) -/

section Count

variable (c : ChanId) (s : State)

theorem timeOut_alone (k : Nat) : Alone c [28 + c.val] s (timeOut c k s) := by
  have hfree : ∀ why, Alone c [28 + c.val] s
      (State.setChan { s with cache := s.cache.abort k why } c { s.chan c with preload := false }) := fun why =>
    ((Alone.refl c _ s).withCache (Cache.abort_errorLatch _ _ _)).setChan
  unfold timeOut
  split
  · exact .refl c _ s
  · dsimp only
    split
    · exact hfree _
    · exact (hfree _).raise (List.mem_singleton.2 rfl)

theorem countTick_alone : Alone c [28 + c.val] s (countTick c s) :=
  ((Alone.refl c _ s).withCache (k := s.cache.ageFills c)).trans
    (Alone.foldl (op := fun acc k => timeOut c k acc) (fun t k => timeOut_alone c t k) _ _)

theorem setPhase_alone (p : TickPhase) (ks : List Nat) : Alone c ks s (s.setPhase c p) :=
  (Alone.refl c ks s).withCache

theorem beforeTick_alone : Alone c [28 + c.val] s (beforeTick c s) := by
  unfold beforeTick
  split
  · exact setPhase_alone c s _ _
  · exact countTick_alone c s
  · exact setPhase_alone c s _ _

/-- Of its channel a count changes the preload flag alone (R97). -/
theorem beforeTick_chan :
    (beforeTick c s).chan c = { s.chan c with preload := ((beforeTick c s).chan c).preload } := by
  have hfold : ∀ (l : List Nat) (t : State), let u := l.foldl (fun acc k => timeOut c k acc) t
      u.chan c = { t.chan c with preload := (u.chan c).preload } := by
    intro l
    induction l with
    | nil => intro t; rfl
    | cons k l ih =>
      intro t
      have hone : (timeOut c k t).chan c = { t.chan c with preload := ((timeOut c k t).chan c).preload } := by
        unfold timeOut
        split
        · rfl
        · dsimp only
          split <;> simp
      have hrest := ih (timeOut c k t)
      rw [hone] at hrest
      exact hrest
  unfold beforeTick
  split
  · rfl
  · exact hfold _ _
  · rfl

end Count

/-! ## The presentation (R89 to R99) -/

section Present

variable (c : ChanId) (s : State)

theorem sendRecord_alone (r : PresRecord) : Alone c [12 + c.val] s (sendRecord c r s) := (Alone.refl c _ s).setChan

theorem repeatLast_alone (f : FeedId) (n : Option Nat) (r : RepeatCause) :
    Alone c [12 + c.val] s (repeatLast c f n r s) :=
  (sendRecord_alone c s _).raise (List.mem_singleton.2 rfl)

theorem presentSelection_alone (sel : Selection) (r : RepeatCause) :
    Alone c [12 + c.val] s (presentSelection c sel r s) := by
  unfold presentSelection
  split
  · exact ((Alone.refl c _ s).withCache (Cache.present_errorLatch ‹_›)).trans (sendRecord_alone c _ _)
  · exact repeatLast_alone c s _ _ _

theorem presentActive_alone : Alone c [12 + c.val] s (presentActive c s) := by
  unfold presentActive
  dsimp only
  split
  · exact presentSelection_alone c s _ _
  · exact repeatLast_alone c s _ _ _

theorem presentIdle_alone : Alone c [12 + c.val] s (presentIdle c s) := by
  unfold presentIdle
  dsimp only
  split
  · exact sendRecord_alone c s _
  · exact (Alone.withCache (Alone.refl c _ s) (k := s.cache.setPins c [])).trans (sendRecord_alone c _ _)
  · split
    · exact presentSelection_alone c s _ _
    · exact repeatLast_alone c s _ _ _

/-- Of its channel a presentation changes the record and the data sent. -/
theorem presentSelection_chan (sel : Selection) (r : RepeatCause) : (presentSelection c sel r s).chan c =
    { s.chan c with
      lastRec := ((presentSelection c sel r s).chan c).lastRec
      outData := ((presentSelection c sel r s).chan c).outData } := by
  unfold presentSelection
  split
  · simp only [sendRecord, State.chan_setChan, if_true]; rfl
  · simp only [repeatLast, sendRecord, raise_chan, State.chan_setChan, if_true]

theorem repeatLast_chan (f : FeedId) (n : Option Nat) (r : RepeatCause) : (repeatLast c f n r s).chan c =
    { s.chan c with lastRec := { (s.chan c).lastRec with repeated := some r }, outData := s.cache.pinnedData c } := by
  simp only [repeatLast, sendRecord, raise_chan, State.chan_setChan, if_true]

theorem presentActive_chan : (presentActive c s).chan c =
    { s.chan c with
      lastRec := ((presentActive c s).chan c).lastRec, outData := ((presentActive c s).chan c).outData } := by
  unfold presentActive
  dsimp only
  split
  · exact presentSelection_chan c s _ _
  · rw [repeatLast_chan]

theorem presentIdle_chan : (presentIdle c s).chan c =
    { s.chan c with
      lastRec := ((presentIdle c s).chan c).lastRec, outData := ((presentIdle c s).chan c).outData } := by
  unfold presentIdle
  dsimp only
  split
  · simp only [sendRecord, State.chan_setChan, if_true]
  · simp only [sendRecord, State.chan_setChan, if_true]; rfl
  · split
    · exact presentSelection_chan c s _ _
    · rw [repeatLast_chan]

end Present

/-! ## Lookups (R94) -/

section Lookups

variable (c : ChanId) (f : FeedId)

theorem sendLookup_alone (n : Nat) (s : State) : Alone c [c.val] s (sendLookup c f n s) := by
  have hlook : Alone c [c.val] s (lookup c f n s).1 := by
    rw [lookup_keeps]
    exact (Alone.refl c _ s).withCache (lookup_cache_keeps c f n s).2
  refine hlook.trans ?_
  show Alone c [c.val] (lookup c f n s).1 (handleAnswer c f n (lookup c f n s).2 (lookup c f n s).1)
  generalize (lookup c f n s).1 = t
  unfold handleAnswer
  split
  · unfold frameReady
    dsimp only
    split
    · exact ((Alone.refl c _ t).setChan).raise (List.mem_singleton.2 (Nat.zero_add _))
    · exact .refl c _ t
  · unfold frameFailed
    dsimp only
    split
    · exact (Alone.refl c _ t).setChan
    · exact .refl c _ t
  · exact .refl c _ t
  · exact .refl c _ t

theorem sendLookups_alone (l : List Nat) (s : State) : Alone c [c.val] s (sendLookups c f l s) := by
  refine Alone.foldl (fun t n => ?_) l s
  split
  · exact sendLookup_alone c f n t
  · exact .refl c _ t

/-- The answer DAMAGED depends on the feeds alone (R135). -/
theorem lookup_damaged_iff (n : Nat) (s : State) : (lookup c f n s).2 = .notAvailable .damaged ↔
    ∃ w, (s.feed f).range = some w ∧ (w.lo ≤ n ∧ n ≤ w.hi) ∧ (s.feed f).damagedFrame n = true := by
  have hanswer : ∀ why, (s.cache.answer c f n ((s.feed f).read n)).2 ≠ .notAvailable why := by
    intro why
    unfold Cache.answer
    split
    · split <;> simp
    · split <;> simp
  by_cases hin : ∃ w, (s.feed f).range = some w ∧ (w.lo ≤ n ∧ n ≤ w.hi)
  · obtain ⟨w, hr, hlo, hhi⟩ := hin
    cases hd : (s.feed f).damagedFrame n with
    | true => simp [lookup_damaged c hr hlo hhi hd, hr, hlo, hhi]
    | false => simp [lookup_answers c hr hlo hhi hd, hanswer]
  · have hout : ∀ w, (s.feed f).range = some w → n < w.lo ∨ w.hi < n := fun w hr => by
      by_contra hw
      exact hin ⟨w, hr, by omega, by omega⟩
    rw [lookup_out_of_range c hout]
    simp only [Answer.notAvailable.injEq, reduceCtorEq, false_iff]
    rintro ⟨w, hr, hw, -⟩
    exact hin ⟨w, hr, hw⟩

theorem lookup_damaged_congr {s t : State} (h : t.feeds = s.feeds) (d : ChanId) (n : Nat) :
    (lookup c f n t).2 = .notAvailable .damaged ↔ (lookup d f n s).2 = .notAvailable .damaged := by
  rw [lookup_damaged_iff, lookup_damaged_iff, State.feed_congr h f]

/-- Of its channel one lookup changes the cue wait, and the damaged mark when the selected frame is DAMAGED. -/
theorem sendLookup_chan (n : Nat) (s : State) : (sendLookup c f n s).chan c = { s.chan c with
    cueWait := ((sendLookup c f n s).chan c).cueWait
    damaged := (s.chan c).damaged || decide ((lookup c f n s).2 = .notAvailable .damaged ∧
      ∃ sel, (s.chan c).selection = some sel ∧ sel.feed = f ∧ sel.frame = n) } := by
  by_cases hready : (lookup c f n s).2 = .resident ∧ (s.chan c).cueWait = some ⟨f, n⟩
  · rw [sendLookup_ready c hready.1 hready.2]
    simp [hready.1]
  · by_cases hfailed : (lookup c f n s).2 = .notAvailable .damaged ∧
        ∃ sel, (s.chan c).selection = some sel ∧ sel.feed = f ∧ sel.frame = n
    · obtain ⟨sel, hsel, hf, hn⟩ := hfailed.2
      rw [sendLookup_failed c hfailed.1 hsel hf hn]
      simp only [State.chan_setChan, if_true, decide_eq_true hfailed, Bool.or_true]
    · rw [sendLookup_other c hready hfailed, lookup_chan]
      simp only [decide_eq_false hfailed, Bool.or_false]

theorem sendLookup_cueWait (n : Nat) (s : State) (h : (s.chan c).cueWait = none) :
    ((sendLookup c f n s).chan c).cueWait = none ∧ (sendLookup c f n s).cells = s.cells := by
  have hready : ¬ ((lookup c f n s).2 = .resident ∧ (s.chan c).cueWait = some ⟨f, n⟩) := by simp [h]
  by_cases hfailed : (lookup c f n s).2 = .notAvailable .damaged ∧
      ∃ sel, (s.chan c).selection = some sel ∧ sel.feed = f ∧ sel.frame = n
  · obtain ⟨sel, hsel, hf, hn⟩ := hfailed.2
    rw [sendLookup_failed c hfailed.1 hsel hf hn, lookup_keeps]
    simp [h]
  · rw [sendLookup_other c hready hfailed, lookup_chan, lookup_keeps]
    exact ⟨h, rfl⟩

end Lookups

end Sys2Proof.Machine
end

section
/-!
PROOFS. What no output tick changes (R51, R98, R102).
-/

-- Proofs checked in turn: side by side they need more threads than the memory limit of check.sh has room for.
set_option Elab.async false

namespace Sys2Proof.Machine

/-! ## What no output tick changes -/

/-- The part of a state that an output tick leaves, besides the panel: of the clips all but their use counts. -/
structure Fixed where
  feeds : Oct Feed
  arbiter : Arbiter
  engaged : Engagement
  storeSize : Nat
  curve : List Int
  markRefs : SMap Nat
  defaultLen : Nat
  storePort : StoreAccess
  pending : List Instr
  errorLatch : Option ErrorRecord
  panel : Panel
  clip : Nat → Option Clip
  opts : ChanId → ChanOptions
  lever : ChanId → Int

def State.fixed (s : State) : Fixed :=
  { feeds := s.feeds, arbiter := s.arbiter, engaged := s.engaged, storeSize := s.storeSize, curve := s.curve,
    markRefs := s.markRefs, defaultLen := s.defaultLen, storePort := s.storePort, pending := s.pending,
    errorLatch := s.cache.errorLatch, panel := s.panel
    clip := fun id => (SMap.find s.clips id).map fun c => { c with useCount := 0 }
    opts := fun d => (s.chan d).opts, lever := fun d => (s.chan d).lever }

/-- The channels a tick of `ch` can reach: its own and those of its slaves. -/
def State.reaches (s : State) (ch d : ChanId) : Prop := d = ch ∨ ∃ g ∈ s.gangs.get ch, g.ch = d

/-- From `s` to `t` a tick of `ch` has kept what no tick changes, the other channels' cue lists, and every channel but
its own and its slaves'; slaves may have left, and none has joined. -/
structure TickFrame (ch : ChanId) (s t : State) : Prop where
  fixed : t.fixed = s.fixed
  lists : ∀ d, d ≠ ch → t.lists.get d = s.lists.get d
  gang : ((t.gangs.get ch).map (·.ch)).Sublist ((s.gangs.get ch).map (·.ch))
  others : ∀ d, ¬ s.reaches ch d → t.chan d = s.chan d

namespace TickFrame

variable {ch : ChanId} {s t u : State}

theorem refl (ch : ChanId) (s : State) : TickFrame ch s s :=
  ⟨rfl, fun _ _ => rfl, .refl _, fun _ _ => rfl⟩

theorem own (ch : ChanId) (s : State) : s.reaches ch ch := .inl rfl

section Updates

variable (h : TickFrame ch s t)
include h

theorem slaves : ∀ g ∈ t.gangs.get ch, s.reaches ch g.ch := fun g hg => by
  obtain ⟨g', hg', he⟩ := List.mem_map.1 (h.gang.subset (List.mem_map_of_mem hg))
  exact .inr ⟨g', hg', he⟩

/-- Slaves that stood apart from each other and from their master still do (R105). -/
theorem apart (hn : (ch :: (s.gangs.get ch).map (·.ch)).Nodup) : (ch :: (t.gangs.get ch).map (·.ch)).Nodup :=
  hn.sublist (h.gang.cons_cons ch)

theorem setChan {d : ChanId} (hd : s.reaches ch d) {x : Channel} (ho : x.opts = (t.chan d).opts := by rfl)
    (hl : x.lever = (t.chan d).lever := by rfl) : TickFrame ch s (t.setChan d x) where
  fixed := by
    rw [← h.fixed]
    have hopts : (fun e => ((t.setChan d x).chan e).opts) = fun e => (t.chan e).opts := funext fun e => by
      rw [State.chan_setChan]; split <;> [(subst e; exact ho); rfl]
    have hlever : (fun e => ((t.setChan d x).chan e).lever) = fun e => (t.chan e).lever := funext fun e => by
      rw [State.chan_setChan]; split <;> [(subst e; exact hl); rfl]
    simp only [State.fixed, hopts, hlever]
    rfl
  lists := h.lists
  gang := h.gang
  others e he := by
    rw [State.chan_setChan, if_neg]
    · exact h.others e he
    · rintro rfl
      exact he hd

theorem withCache {k : Cache} (hk : k.errorLatch = t.cache.errorLatch := by rfl) :
    TickFrame ch s { t with cache := k } where
  fixed := by
    rw [← h.fixed]
    simp only [State.fixed, hk]
    rfl
  lists := h.lists
  gang := h.gang
  others := h.others

theorem withNotices (cs : List Cell) (l : Link) : TickFrame ch s { t with cells := cs, link := l } :=
  ⟨h.fixed, h.lists, h.gang, h.others⟩

theorem raise (n : Nat) (d : Detail) : TickFrame ch s (raise n d t) := h.withNotices _ _

theorem setList (l : List CueEntry) : TickFrame ch s (t.setList ch l) where
  fixed := h.fixed
  lists d hd := by
    rw [State.lists_setList, Quad.get_set, if_neg hd]
    exact h.lists d hd
  gang := h.gang
  others := h.others

theorem setGangs {l : List GangSlave} (hl : (l.map (·.ch)).Sublist ((t.gangs.get ch).map (·.ch))) :
    TickFrame ch s { t with gangs := t.gangs.set ch l } where
  fixed := h.fixed
  lists := h.lists
  gang := by
    rw [Quad.get_set, if_pos rfl]
    exact hl.trans h.gang
  others := h.others

theorem adjustUse (id : Nat) (use : Nat → Nat) : TickFrame ch s { t with
    clips := t.clips.adjust id fun c => { c with useCount := use c.useCount } } where
  fixed := by
    rw [← h.fixed]
    have hclip : (fun i => (SMap.find (t.clips.adjust id fun c => { c with useCount := use c.useCount }) i).map
        fun c : Clip => { c with useCount := 0 }) =
        fun i => (SMap.find t.clips i).map fun c : Clip => { c with useCount := 0 } := funext fun i => by
      rw [SMap.find_adjust]
      split
      · rw [Option.map_map]; rfl
      · rfl
    simp only [State.fixed, hclip]
    rfl
  lists := h.lists
  gang := h.gang
  others := h.others

theorem takeClip (id : Nat) : TickFrame ch s (takeClip id t) := h.adjustUse id (· + 1)
theorem releaseClip (id : Nat) : TickFrame ch s (releaseClip id t) := h.adjustUse id (· - 1)

theorem alone {ks : List Nat} (ha : Alone ch ks t u) : TickFrame ch s u where
  fixed := by
    rw [← h.fixed]
    have hopts : (fun e => (u.chan e).opts) = fun e => (t.chan e).opts := funext fun e => by
      by_cases he : e = ch <;> [(subst e; exact ha.opts); rw [ha.other e he]]
    have hlever : (fun e => (u.chan e).lever) = fun e => (t.chan e).lever := funext fun e => by
      by_cases he : e = ch <;> [(subst e; exact ha.lever); rw [ha.other e he]]
    obtain ⟨l, cs, k, q, rfl⟩ := ha.whole
    have hlatch : k.errorLatch = t.cache.errorLatch := ha.latch
    simp only [State.fixed, hopts, hlever, hlatch]
  lists d hd := by rw [ha.lists]; exact h.lists d hd
  gang := by rw [ha.gangs]; exact h.gang
  others d hd := (ha.other d fun e => hd (e ▸ own d s)).trans (h.others d hd)

omit h in
theorem foldl {α : Type} (h : TickFrame ch s t) (l : List α) (op : State → α → State)
    (hop : ∀ t, TickFrame ch s t → ∀ a ∈ l, TickFrame ch s (op t a)) : TickFrame ch s (l.foldl op t) :=
  List.foldlRecOn l op h hop

/-! ### Materials, windows, gangs -/

theorem changeMaterial {d : ChanId} (hd : s.reaches ch d) (m : Option Material) :
    TickFrame ch s (changeMaterial d m t) := by
  have hrelease : TickFrame ch s (releaseMaterial (t.chan d).material (takeMaterial m t)) := by
    have htake : TickFrame ch s (takeMaterial m t) := by
      unfold takeMaterial
      split
      · exact h.takeClip _
      · exact h
    unfold releaseMaterial
    split
    · exact htake.releaseClip _
    · exact htake
  exact hrelease.setChan hd

theorem dropMaterial {d : ChanId} (hd : s.reaches ch d) : TickFrame ch s (dropMaterial d t) :=
  (h.changeMaterial hd none).setChan hd

theorem enterIdle {d : ChanId} (hd : s.reaches ch d) : TickFrame ch s (enterIdle d t) := by
  have hdrop := h.dropMaterial hd
  unfold Machine.enterIdle
  dsimp only
  split
  · exact (hdrop.withCache (k := (Machine.dropMaterial d t).cache.setPins d [])).setChan hd
  · exact hdrop

theorem loseSlave {g : GangSlave} (hg : s.reaches ch g.ch) : TickFrame ch s (loseSlave ch g t) := by
  have hleave : TickFrame ch s (leaveGang ch g.ch t) :=
    (h.setGangs (List.filter_sublist.map _)).setChan hg
  exact (hleave.enterIdle hg).raise _ _

theorem windowLost : TickFrame ch s (windowLost ch t) := by
  have hlose : TickFrame ch s (loseWindow ch t) := (h.dropMaterial (own ch s)).raise _ _
  exact hlose.foldl _ _ fun u hu g hg => hu.loseSlave (hlose.slaves g hg)

theorem derive : TickFrame ch s (derive ch t) := by
  refine h.foldl _ _ fun u hu g hg => ?_
  have hreach := h.slaves g hg
  unfold deriveSlave
  split
  · exact hu.loseSlave hreach
  · split
    · exact hu
    · exact hu.setChan hreach

theorem assignOwnAngles : TickFrame ch s (assignOwnAngles ch t) := by
  unfold Machine.assignOwnAngles assignAngles
  split
  · exact h
  · split
    · exact h
    · rename_i c _
      have hsame : (withAngles (t.gangs.get ch) c.angles).map (·.ch) = (t.gangs.get ch).map (·.ch) := by
        rw [withAngles_eq, assigned_ch]
      have hset := h.setGangs (l := withAngles (t.gangs.get ch) c.angles) (by rw [hsame])
      have hgs : ∀ g ∈ withAngles (t.gangs.get ch) c.angles, s.reaches ch g.ch := fun g hg =>
        hset.slaves g (by simpa using hg)
      refine hset.foldl _ _ fun u hu g hg => ?_
      unfold adoptAngle
      split
      · exact hu
      · exact (hu.changeMaterial (hgs g hg) _).setChan (hgs g hg)

/-! ### Cue lists (R125, R126) -/

theorem passAll (l : List CueEntry) : TickFrame ch s (passAll ch l t) := by
  refine h.foldl _ _ fun u hu e _ => ?_
  unfold passOver
  dsimp only
  split
  · exact hu.releaseClip _
  · exact (hu.releaseClip _).raise _ _

theorem takeEntry (passed : List CueEntry) (e : CueEntry) (rest : List CueEntry) :
    TickFrame ch s (takeEntry ch passed e rest t) :=
  (((h.setList rest).passAll passed).changeMaterial (own ch s) _).releaseClip _

theorem advanceNext (b : WindowEnd) (passed : List CueEntry) (e : CueEntry) (c : Clip) (rest : List CueEntry) :
    TickFrame ch s (advanceNext ch b passed e c rest t) := by
  have htake := (h.takeEntry passed e rest).assignOwnAngles
  unfold Machine.advanceNext
  dsimp only
  split
  · exact htake.windowLost
  · exact (htake.setChan (own ch s)).raise _ _

/-! ### The bound stage (R60 to R67) -/

theorem stopEnd (w : Window) (e : WindowEnd) : TickFrame ch s (stopEnd ch w e t) := (h.setChan (own ch s)).raise _ _

theorem nextEnd (w : Window) (e : WindowEnd) : TickFrame ch s (nextEnd ch w e t) := by
  unfold Machine.nextEnd
  split
  · exact h.advanceNext ..
  · exact ((h.setList []).passAll _).stopEnd w e

theorem clipBoundEnd (w : Window) (e : WindowEnd) (q : Int) (m : EndMode) :
    TickFrame ch s (clipBoundEnd ch w e q m t) := by
  have hrun : TickFrame ch s (match m with
      | .stop => Machine.stopEnd ch w e t
      | .loop => t.setChan ch { t.chan ch with pos := w.wrap q }
      | .next => Machine.nextEnd ch w e t) := by
    cases m with
    | stop => exact h.stopEnd w e
    | loop => exact h.setChan (own ch s)
    | next => exact h.nextEnd w e
  unfold Machine.clipBoundEnd
  dsimp only
  split
  · exact hrun
  · exact hrun
  · exact h.stopEnd w e
  · exact h.setChan (own ch s)

theorem setAtLive (n : Nat) : TickFrame ch s (setAtLive ch n t) := by
  unfold Machine.setAtLive
  dsimp only
  split
  · exact h.setChan (own ch s)
  · exact (h.setChan (own ch s)).raise _ _

theorem setAtTail (n : Nat) : TickFrame ch s (setAtTail ch n t) := by
  unfold Machine.setAtTail
  dsimp only
  split
  · exact h.setChan (own ch s)
  · exact (h.setChan (own ch s)).raise _ _

theorem settle (w : Window) (q : Int) : TickFrame ch s (settle ch w q t) := by
  unfold Machine.settle
  split
  · unfold settleInside
    dsimp only
    split
    · exact (h.setChan (own ch s)).setAtLive _
    · exact h.setChan (own ch s)
  · split
    · exact h.clipBoundEnd ..
    · split
      · exact (h.setAtLive _).setChan (own ch s)
      · exact (h.setAtTail _).setChan (own ch s)

/-! ### The steps of a tick (R51, R98, R110) -/

theorem selectAndFetch (w : Window) : TickFrame ch s (selectAndFetch ch w t) :=
  (h.setChan (own ch s)).derive.alone (sendLookups_alone ch _ _ _)

end Updates

theorem stepActive (h : TickFrame ch s t) : TickFrame ch s (stepActive ch t) := by
  have hraw : ∀ w : Window, TickFrame ch s (t.setChan ch
      { (rawStep t.curve (t.chan ch) ((t.feed (feedOfChannel t ch)).head.getD 0)).1 with window := some w }) := by
    intro w
    have hkeeps : ∀ curve x head,
        (rawStep curve x head).1.opts = x.opts ∧ (rawStep curve x head).1.lever = x.lever := by
      intro curve x head
      unfold rawStep
      split <;> exact ⟨rfl, rfl⟩
    exact h.setChan (own ch s) (hkeeps _ _ _).1 (hkeeps _ _ _).2
  unfold Machine.stepActive
  split
  · exact h.windowLost
  · dsimp only
    split
    · exact (hraw _).settle _ _
    · exact (((hraw _).settle _ _).setChan (own ch s)).selectAndFetch _

theorem presentAndStep (h : TickFrame ch s t) : TickFrame ch s (presentAndStep ch t) := by
  have hactive : TickFrame ch s (presentActive ch t) := h.alone (presentActive_alone ch t)
  have hidle : TickFrame ch s (presentIdle ch t) := h.alone (presentIdle_alone ch t)
  unfold Machine.presentAndStep
  split
  · exact h.setChan (own ch s)
  · split
    · unfold stepIdle
      dsimp only
      have hjog : TickFrame ch s ((presentIdle ch t).setChan ch { (presentIdle ch t).chan ch with jog := 0 }) :=
        hidle.setChan (own ch s)
      split
      · split
        · exact hjog.setChan (own ch s)
        · exact (hjog.setChan (own ch s)).alone (sendLookup_alone ..)
      · exact hjog
    · unfold stepSlave
      dsimp only
      split
      · exact hactive.setChan (own ch s)
      · exact (hactive.setChan (own ch s)).selectAndFetch _
    · exact hactive.stepActive

end TickFrame

/-! ## The tick, but for the panel -/

/-- The state an output tick leaves, but for the panel. -/
def ticked (ch : ChanId) (s : State) : State := presentAndStep ch (beforeTick ch s)

theorem exec_outputTick (ch : ChanId) (s : State) :
    exec (.outputTick ch) s = .next { ticked ch s with panel := (tickPanel ch (ticked ch s)).panel } := by
  have hpanel : ∀ t, tickPanel ch t = { t with panel := (tickPanel ch t).panel } := fun t => by
    unfold tickPanel
    split <;> rfl
  exact congrArg Host.Outcome.next (hpanel (ticked ch s))

theorem ticked_frame (ch : ChanId) (s : State) : TickFrame ch s (ticked ch s) :=
  ((TickFrame.refl ch s).alone (beforeTick_alone ch s)).presentAndStep

end Sys2Proof.Machine
end

section
/-!
PROOFS. The frame of an output tick, and the tick of a DISENGAGED or IDLE channel (R98, R99, R104, O50).
-/

-- Proofs checked in turn: side by side they need more threads than the memory limit of check.sh has room for.
set_option Elab.async false

namespace Sys2Proof.Machine

/-! ## Pins and the data presented (R89, R149) -/

/-- A filter that drops no entry of a key leaves what the key reads. -/
theorem find_filter_of_kept {α : Type} {m : SMap α} {p : Nat × α → Bool} {k : Nat} (h : ∀ v, p (k, v) = true) :
    SMap.find (m.filter p) k = SMap.find m k := by
  induction m with
  | nil => rfl
  | cons r m ih =>
    obtain ⟨i, v⟩ := r
    by_cases hi : i = k
    · subst hi
      simp [h, SMap.find]
    · by_cases hp : p (i, v) = true <;> simp [hp, SMap.find, hi, ih]

/-- A pinned slot stays, and its fragments are the data presented. -/
theorem pinnedData_setPins {c : Cache} {ch : ChanId} {i : Nat} {y : Slot} (h : SMap.find c.slots i = some y) :
    (c.setPins ch [i]).pinnedData ch = y.data := by
  have hcount : ({ c with pins := c.pins.set ch [i] } : Cache).pinCount i ≠ 0 := by
    refine Nat.ne_of_gt (List.length_pos_of_mem (a := ch) (List.mem_filter.2 ⟨mem_allChans ch, ?_⟩))
    simp
  have hslot : SMap.find (c.setPins ch [i]).slots i = some y := by
    rw [← h]
    exact find_filter_of_kept fun v => by simp [hcount]
  simp [Cache.pinnedData, hslot]

/-! ## One presentation (R89, R91) -/

section Presentation

variable {s : State} {ch : ChanId} {sel : Selection} {cause : RepeatCause}

theorem presentSelection_late (h : s.cache.validSlot sel.feed sel.frame = none) :
    presentSelection ch sel cause s = repeatLast ch sel.feed (some sel.frame) cause s := by
  unfold presentSelection
  simp only [Cache.present, h]

theorem presentSelection_whole {i : Nat} (h : s.cache.validSlot sel.feed sel.frame = some i)
    (hp : sel.partner = none) : presentSelection ch sel cause s =
      sendRecord ch (shownRecord sel false) { s with cache := (s.cache.touch i).setPins ch [i] } := by
  unfold presentSelection
  simp only [Cache.present, h, hp, Option.bind_none]

/-- LATE_FRAME of a repeated presentation reaches its cell (R91). -/
theorem repeatLast_cell (f : FeedId) (n : Option Nat) (hlen : s.cells.length = 54) :
    ((repeatLast ch f n cause s).cell (12 + ch.val)).latch = true ∧
      ((repeatLast ch f n cause s).cell (12 + ch.val)).detail = some (.lateFrame f n cause) := by
  have hcell : (repeatLast ch f n cause s).cell (12 + ch.val) =
      (s.cell (12 + ch.val)).take (.lateFrame f n cause) := by
    refine (raise_cell ..).trans (if_pos ⟨rfl, ?_⟩)
    show 12 + ch.val < s.cells.length
    omega
  rw [hcell]
  exact ⟨rfl, rfl⟩

end Presentation

/-! ## The tick of an IDLE channel (R98, R99) -/

section Idle

variable {s : State} {ch : ChanId}

theorem stepIdle_plain (h : (s.chan ch).opts.idlePicture ≠ .live) :
    stepIdle ch s = s.setChan ch { s.chan ch with jog := 0 } := by
  unfold stepIdle
  simp only [State.chan_setChan, if_true]

/-- Under LIVE the step selects the head and looks it up; of the channel the lookup changes no more than the cue wait
and the damaged mark. -/
theorem stepIdle_live (h : (s.chan ch).opts.idlePicture = .live) :
    let r := (s.feed (s.chan ch).opts.idleFeed).range
    (stepIdle ch s).chan ch = { s.chan ch with
      jog := 0, idleSel := r.map fun w => w.hi
      cueWait := ((stepIdle ch s).chan ch).cueWait, damaged := ((stepIdle ch s).chan ch).damaged } ∧
    (stepIdle ch s).cache = (match r with
      | none => s.cache
      | some w => (lookup ch (s.chan ch).opts.idleFeed w.hi s).1.cache) ∧
    ∀ i, i ≠ ch.val → (stepIdle ch s).cell i = s.cell i := by
  intro r
  cases hr : (s.feed (s.chan ch).opts.idleFeed).range with
  | none =>
    have hstep : stepIdle ch s = s.setChan ch { s.chan ch with jog := 0, idleSel := none } := by
      unfold stepIdle
      simp only [State.chan_setChan, if_true, h, State.feed_setChan, hr, State.setChan_setChan]
    have hnone : r = none := hr
    rw [hstep, hnone]
    exact ⟨by simp, rfl, fun _ _ => rfl⟩
  | some w =>
    have hstep : stepIdle ch s = sendLookup ch (s.chan ch).opts.idleFeed w.hi
        (s.setChan ch { s.chan ch with jog := 0, idleSel := some w.hi }) := by
      unfold stepIdle
      simp only [State.chan_setChan, if_true, h, State.feed_setChan, hr, State.setChan_setChan]
    have hsome : r = some w := hr
    rw [hstep, hsome]
    refine ⟨?_, ?_, fun i hi => ?_⟩
    · rw [sendLookup_chan]
      simp only [State.chan_setChan, if_true]
      rfl
    · have hkeeps := (sendLookup_keeps ch (s.chan ch).opts.idleFeed w.hi
        (s.setChan ch { s.chan ch with jog := 0, idleSel := some w.hi })).1
      exact hkeeps.trans (lookup_reads (s := s) (t := s.setChan ch _) ch _ _ rfl rfl).2
    · exact (sendLookup_alone ..).cell i (by simpa using hi)

theorem ticked_idle (he : (beforeTick ch s).engaged = .engaged) (hi : ((beforeTick ch s).chan ch).state = .idle) :
    ticked ch s = stepIdle ch (presentIdle ch (beforeTick ch s)) := by
  unfold ticked presentAndStep
  simp only [he, hi]

/-- With no count owed, a tick finds the state as it was, but for the phase of the tick (log entry 5). -/
theorem beforeTick_eq (h : s.cache.ticks.get ch ≠ .presented) : beforeTick ch s =
    s.setPhase ch (if s.cache.ticks.get ch = .settled then .presented else .settled) := by
  unfold beforeTick
  cases hp : s.cache.ticks.get ch with
  | settled => rfl
  | presented => exact absurd hp h
  | counted => rfl

end Idle

theorem tickPanel_panel (ch : ChanId) (s : State) : (tickPanel ch s).panel =
    if s.panel.bound = ch then s.panel.clearAccepted else s.panel := by
  unfold tickPanel
  split <;> rfl

/-- Under LIVE an IDLE channel presents its idle selection when it is resident, and else repeats the last record
(R99). -/
theorem presentIdle_live {s : State} {ch : ChanId} (h : (s.chan ch).opts.idlePicture = .live) :
    let x := s.chan ch
    let f := x.opts.idleFeed
    (x.idleSel.bind (s.cache.validSlot f) = none → presentIdle ch s = repeatLast ch f x.idleSel .late s) ∧
    ∀ n i, x.idleSel = some n → x.idleSel.bind (s.cache.validSlot f) = some i →
      presentIdle ch s = sendRecord ch ⟨some ⟨f, n, none, 0, none⟩, none, false⟩
        { s with cache := (s.cache.touch i).setPins ch [i] } := by
  intro x f
  cases hsel : (s.chan ch).idleSel with
  | none =>
    refine ⟨fun _ => ?_, fun n i hn => by cases hn⟩
    simp only [presentIdle, h, hsel, x, f]
  | some n =>
    have hpresent : presentIdle ch s = presentSelection ch (wholeFrame f n none) .late s := by
      simp only [presentIdle, h, hsel, x, f]
    refine ⟨fun hnone => ?_, fun n' i hn hi => ?_⟩
    · rw [hpresent, presentSelection_late (sel := wholeFrame f n none) hnone]
      rfl
    · obtain rfl : n = n' := Option.some.inj hn
      rw [hpresent, presentSelection_whole (sel := wholeFrame f n none) hi rfl]
      rfl

/-- The tick of an IDLE channel under LIVE, from a state `s` in which no count is owed (R98, R99; log entry 22). -/
theorem idleTick_live {s : State} {ch : ChanId} (h : (s.chan ch).opts.idlePicture = .live)
    (hi : (s.chan ch).state = .idle) :
    let x := s.chan ch
    let f := x.opts.idleFeed
    let found := x.idleSel.bind (s.cache.validSlot f)
    let t := stepIdle ch (presentIdle ch s)
    ((t.chan ch).idleSel = (s.feed f).range.map (fun w => w.hi) ∧ (t.chan ch).jog = 0 ∧ (t.chan ch).state = .idle) ∧
    (found = none → (t.chan ch).lastRec = { x.lastRec with repeated := some .late } ∧ t.cache.pins = s.cache.pins ∧
      (s.cells.length = 54 → (t.cell (12 + ch.val)).latch = true ∧
        (t.cell (12 + ch.val)).detail = some (.lateFrame f x.idleSel .late))) ∧
    (∀ n i, x.idleSel = some n → found = some i →
      (t.chan ch).lastRec = ⟨some ⟨f, n, none, 0, none⟩, none, false⟩ ∧ t.cache.pins = s.cache.pins.set ch [i] ∧
      (∀ y, SMap.find s.cache.slots i = some y → (t.chan ch).outData = y.data) ∧
      t.cell (12 + ch.val) = s.cell (12 + ch.val)) ∧
    t.cache = match (s.feed f).range with
      | none => (presentIdle ch s).cache
      | some w => (lookup ch f w.hi (presentIdle ch s)).1.cache := by
  intro x f found t
  have halone := presentIdle_alone ch s
  have hchan := presentIdle_chan ch s
  have hopts : ((presentIdle ch s).chan ch).opts = x.opts := halone.opts
  obtain ⟨hown, hcache, hcell⟩ := stepIdle_live (s := presentIdle ch s) (ch := ch) (by rw [hopts]; exact h)
  rw [hopts, halone.feed] at hown hcache
  have hrec : (t.chan ch).lastRec = ((presentIdle ch s).chan ch).lastRec :=
    (congrArg Channel.lastRec hown :)
  have hdata : (t.chan ch).outData = ((presentIdle ch s).chan ch).outData :=
    (congrArg Channel.outData hown :)
  have hlate : t.cell (12 + ch.val) = (presentIdle ch s).cell (12 + ch.val) := hcell _ (by omega)
  have hpins : t.cache.pins = (presentIdle ch s).cache.pins := by
    show (stepIdle ch (presentIdle ch s)).cache.pins = _
    rw [hcache]
    split
    · rfl
    · exact (lookup_cache_keeps ..).1
  obtain ⟨hrepeat, hshow⟩ := presentIdle_live h
  refine ⟨⟨congrArg Channel.idleSel hown, congrArg Channel.jog hown, ?_⟩, fun hnone => ?_, fun n i hn hfound => ?_,
    hcache⟩
  · exact (congrArg Channel.state hown).trans ((congrArg Channel.state hchan).trans hi)
  · rw [hrec, hpins, hlate, hrepeat hnone, repeatLast_chan]
    exact ⟨rfl, rfl, repeatLast_cell _ _⟩
  · rw [hrec, hpins, hlate, hdata, hshow n i hn hfound]
    simp only [sendRecord, State.chan_setChan, if_true]
    exact ⟨rfl, rfl, fun y hy => pinnedData_setPins hy, rfl⟩

/-- Under BLACK the pins go and a record with no frame is sent (R98). -/
theorem idleTick_black {s : State} {ch : ChanId} (h : (s.chan ch).opts.idlePicture = .black) :
    let t := stepIdle ch (presentIdle ch s)
    t.chan ch = { s.chan ch with lastRec := ⟨none, none, false⟩, outData := [], jog := 0 } ∧
      t.cache.pins.get ch = [] := by
  have hdata : (s.cache.setPins ch []).pinnedData ch = [] := by simp [Cache.pinnedData]
  have hpresent : presentIdle ch s = (releasePins ch s).setChan ch
      { s.chan ch with lastRec := .blank, outData := [] } := by
    simp only [presentIdle, h, sendRecord, releasePins, hdata]
    rfl
  rw [hpresent, stepIdle_plain (by simp [h])]
  simp [releasePins, PresRecord.blank]

/-- Under HOLD the pins stay, and the last frame is sent as a plain presentation (R98). -/
theorem idleTick_hold {s : State} {ch : ChanId} (h : (s.chan ch).opts.idlePicture = .hold) :
    let t := stepIdle ch (presentIdle ch s)
    t.cache.pins = s.cache.pins ∧ t.chan ch = { s.chan ch with
      lastRec := if s.cache.pins.get ch = [] then ⟨none, none, false⟩
        else ⟨(s.chan ch).lastRec.shown.map fun y => { y with clip := none }, none, false⟩
      outData := s.cache.pinnedData ch, jog := 0 } := by
  have hpresent : presentIdle ch s = s.setChan ch
      { s.chan ch with lastRec := heldRecord ch s, outData := s.cache.pinnedData ch } := by
    simp only [presentIdle, h, sendRecord]
  rw [hpresent, stepIdle_plain (by simp [h])]
  refine ⟨rfl, ?_⟩
  simp only [State.chan_setChan, if_true]
  rfl

/-- Settles O50: the frame of a tick, then the tick of a DISENGAGED part and of an IDLE channel. -/
theorem tickFrameAndIdleTick : Obligations.TickFrameAndIdleTick := by
  intro s ch
  have hframe := ticked_frame ch s
  have hfixed := hframe.fixed
  refine ⟨_, exec_outputTick ch s, congrArg Fixed.feeds hfixed, congrArg Fixed.arbiter hfixed,
    congrArg Fixed.engaged hfixed, congrArg Fixed.storeSize hfixed, congrArg Fixed.curve hfixed,
    congrArg Fixed.markRefs hfixed, congrArg Fixed.defaultLen hfixed, congrArg Fixed.storePort hfixed,
    congrArg Fixed.pending hfixed, congrArg Fixed.errorLatch hfixed, ?_, congrFun (congrArg Fixed.clip hfixed),
    fun d => ⟨congrFun (congrArg Fixed.opts hfixed) d, congrFun (congrArg Fixed.lever hfixed) d⟩, hframe.lists,
    fun d hd hg => hframe.others d ?_,
    fun hphase => ⟨fun he => ?_, fun he hi => ⟨fun hp => ?_, fun hp => ?_, fun hp => ?_⟩⟩⟩
  · have hpanel : (ticked ch s).panel = s.panel := congrArg Fixed.panel hfixed
    show (tickPanel ch (ticked ch s)).panel = _
    rw [tickPanel_panel, hpanel]
    rfl
  · rintro (rfl | ⟨g, hmem, rfl⟩)
    · exact hd rfl
    · exact hg g hmem rfl
  · have htick : ticked ch s = (beforeTick ch s).setChan ch
        { (beforeTick ch s).chan ch with lastRec := .blank, outData := [], jog := 0 } := by
      have hb : (beforeTick ch s).engaged = .disengaged := (beforeTick_alone ch s).engaged.trans he
      unfold ticked presentAndStep
      simp only [hb]
    rw [htick, beforeTick_eq hphase]
    exact ⟨(State.chan_setChan ..).trans (if_pos rfl), rfl, rfl, rfl, rfl⟩
  all_goals
    have htick : ticked ch s = stepIdle ch (presentIdle ch (s.setPhase ch
        (if s.cache.ticks.get ch = .settled then .presented else .settled))) := by
      rw [← beforeTick_eq hphase]
      exact ticked_idle ((beforeTick_alone ch s).engaged.trans he)
        ((congrArg Channel.state (beforeTick_chan ch s)).trans hi)
    rw [htick]
  · exact idleTick_black hp
  · exact idleTick_hold hp
  · obtain ⟨hselects, hrepeats, hshows, hcache⟩ := idleTick_live (s := s.setPhase ch
      (if s.cache.ticks.get ch = .settled then .presented else .settled)) hp hi
    refine ⟨hselects.1, hselects.2.1, hselects.2.2, fun hnone => ?_, hrepeats, hshows, hcache⟩
    obtain ⟨hrec, hpins, -⟩ := hrepeats (by rw [show ((s.setPhase ch _).chan ch).idleSel = none from hnone]; rfl)
    exact ⟨hrec, hpins⟩

end Sys2Proof.Machine
end

section
/-!
PROOFS. A channel and its slaves that lose their window (R54, R113).
-/

-- Proofs checked in turn: side by side they need more threads than the memory limit of check.sh has room for.
set_option Elab.async false

namespace Sys2Proof.Machine

/-! ## A change of material, whole (R74) -/

/-- A change of material reaches the material and the use counts alone. -/
theorem changeMaterial_whole (c : ChanId) (m : Option Material) (s : State) : changeMaterial c m s =
    State.setChan { s with clips := (changeMaterial c m s).clips } c { s.chan c with material := m } := by
  unfold changeMaterial releaseMaterial takeMaterial
  dsimp only
  split <;> split <;> rfl

theorem changeMaterial_none_clips (c : ChanId) (s : State) (id : Nat) :
    SMap.find (changeMaterial c none s).clips id = (SMap.find s.clips id).map fun x =>
      { x with useCount := x.useCount - if (s.chan c).material = some (.clip id) then 1 else 0 } := by
  have hclips : (changeMaterial c none s).clips = (releaseMaterial (s.chan c).material s).clips := rfl
  rw [hclips]
  unfold releaseMaterial
  split
  · rename_i old hold
    show SMap.find (s.clips.adjust old _) id = _
    rw [SMap.find_adjust, hold]
    by_cases hid : id = old
    · subst hid; simp
    · simp [hid, Ne.symm hid]
  · rename_i hno
    have hne : (s.chan c).material ≠ some (.clip id) := hno id
    simp [hne]

/-! ## A channel that loses its window (R54, R113) -/

/-- Pins released under BLACK depend on the options alone. -/
theorem lostPins_congr {s t : State} {l : List GangSlave} (h : ∀ g ∈ l, (t.chan g.ch).opts = (s.chan g.ch).opts)
    (c : Cache) : lostPins t l c = lostPins s l c := by
  induction l generalizing c with
  | nil => rfl
  | cons g l ih =>
    obtain ⟨hg, hl⟩ := List.forall_mem_cons.1 h
    simp only [lostPins, List.foldl_cons, hg]
    exact ih hl _

/-- From `s` to `t` channel `c` has lost its window with the details `d` and has released its material. -/
structure LostWindow (c : ChanId) (d : Detail) (s t : State) : Prop where
  gangs : t.gangs = s.gangs
  lists : t.lists = s.lists
  feeds : t.feeds = s.feeds
  cache : t.cache = s.cache
  others : ∀ k, k ≠ c → t.chan k = s.chan k
  cell : ∀ i, t.cell i = if i = 24 + c.val ∧ i < s.cells.length then (s.cell i).take d else s.cell i
  length : t.cells.length = s.cells.length
  clip : ∀ id, SMap.find t.clips id = (SMap.find s.clips id).map fun x =>
    { x with useCount := x.useCount - if (s.chan c).material = some (.clip id) then 1 else 0 }

theorem loseWindow_does (c : ChanId) (s : State) :
    let f := feedOfChannel s c
    (loseWindow c s).chan c = { (s.chan c).toIdle with material := none } ∧
      LostWindow c (.windowLost f (materialId (s.chan c).material) (s.feed f).tail (s.feed f).head) s
        (loseWindow c s) := by
  intro f
  have hdrop : dropMaterial c s = State.setChan { s with clips := (changeMaterial c none s).clips } c
      { (s.chan c).toIdle with material := none } := by
    unfold dropMaterial
    rw [changeMaterial_whole]
    simp only [State.chan_setChan, if_true, State.setChan_setChan]
    rfl
  unfold loseWindow raiseWindowLost
  rw [hdrop]
  refine ⟨?_, rfl, rfl, rfl, rfl, fun k hk => ?_, fun i => raise_cell .., raise_cells_length ..,
    changeMaterial_none_clips c s⟩
  · rw [raise_chan, State.chan_setChan, if_pos rfl]
  · rw [raise_chan, State.chan_setChan, if_neg hk]
    rfl

/-- From `s` to `t` the slaves `l` of master `m` have lost their windows and left the gang. -/
structure LostSlaves (m : ChanId) (l : List GangSlave) (s t : State) : Prop where
  lost : ∀ g ∈ l, t.chan g.ch = lostSlave (s.chan g.ch) ∧ tellsLoss s t g
  others : ∀ d, (∀ g ∈ l, g.ch ≠ d) → t.chan d = s.chan d ∧ t.cell (24 + d.val) = s.cell (24 + d.val)
  gangs : t.gangs = s.gangs.set m ((s.gangs.get m).filter fun h => l.all fun g => h.ch != g.ch)
  feeds : t.feeds = s.feeds
  lists : t.lists = s.lists
  cache : t.cache = lostPins s l s.cache
  cell : ∀ i, (∀ d : ChanId, i ≠ 24 + d.val) → t.cell i = s.cell i
  length : t.cells.length = s.cells.length
  clip : ∀ id, SMap.find t.clips id = (SMap.find s.clips id).map fun x =>
    { x with useCount := x.useCount - (l.map (·.ch)).countP fun d => decide ((s.chan d).material = some (.clip id)) }

theorem enterIdle_lists_clips (c : ChanId) (s : State) :
    (enterIdle c s).lists = s.lists ∧ (enterIdle c s).clips = (changeMaterial c none s).clips := by
  have hdrop : (dropMaterial c s).lists = s.lists ∧ (dropMaterial c s).clips = (changeMaterial c none s).clips := by
    refine ⟨?_, rfl⟩
    show (changeMaterial c none s).lists = s.lists
    rw [changeMaterial_whole]
    rfl
  unfold enterIdle
  dsimp only
  split
  · exact hdrop
  · exact hdrop

theorem loseSlave_lostSlaves (m : ChanId) (g : GangSlave) (s : State) : LostSlaves m [g] s (loseSlave m g s) := by
  obtain ⟨hchan, hgangs, hfeeds, hcache, hlength, hcell⟩ := loseSlave_does s m g
  obtain ⟨hlists, hclips⟩ := enterIdle_lists_clips g.ch (leaveGang m g.ch s)
  refine ⟨?_, fun d hd => ?_, ?_, hfeeds, hlists, hcache, fun i hi => ?_, hlength, fun id => ?_⟩
  · simp only [List.mem_singleton, forall_eq]
    refine ⟨(hchan g.ch).trans (if_pos rfl), fun hlen => ?_⟩
    rw [hcell, if_pos ⟨rfl, by omega⟩]
    exact ⟨rfl, rfl⟩
  · have hne : d ≠ g.ch := Ne.symm (hd g (List.mem_singleton_self g))
    exact ⟨(hchan d).trans (if_neg hne), (hcell _).trans (if_neg fun h => hne (Fin.ext (by omega)))⟩
  · simpa using hgangs
  · exact (hcell i).trans (if_neg fun h => hi g.ch h.1)
  · have hmaterial : ((leaveGang m g.ch s).chan g.ch).material = (s.chan g.ch).material := by
      simp only [leaveGang, State.chan_setChan, if_true]
      rfl
    show SMap.find (enterIdle g.ch (leaveGang m g.ch s)).clips id = _
    rw [hclips, changeMaterial_none_clips, hmaterial]
    simp only [List.map_cons, List.map_nil, List.countP_cons, List.countP_nil, decide_eq_true_eq, Nat.zero_add]
    rfl

theorem LostSlaves.cons {m : ChanId} {g : GangSlave} {l : List GangSlave} {s t u : State}
    (h : LostSlaves m [g] s t) (h' : LostSlaves m l t u) (hg : ∀ g' ∈ l, g'.ch ≠ g.ch)
    (ho : ∀ d, (t.chan d).opts = (s.chan d).opts) : LostSlaves m (g :: l) s u := by
  have hkept : ∀ g' ∈ l, t.chan g'.ch = s.chan g'.ch := fun g' hg' =>
    (h.others _ fun k hk => by rw [List.mem_singleton.1 hk]; exact (hg g' hg').symm).1
  have hfeed : ∀ f, t.feed f = s.feed f := State.feed_congr h.feeds
  have hlost := h.lost g (List.mem_singleton_self g)
  obtain ⟨hgchan, hgcell⟩ := h'.others g.ch hg
  refine ⟨?_, fun d hd => ?_, ?_, h'.feeds.trans h.feeds, h'.lists.trans h.lists, ?_,
    fun i hi => (h'.cell i hi).trans (h.cell i hi), h'.length.trans h.length, fun id => ?_⟩
  · refine List.forall_mem_cons.2 ⟨⟨hgchan.trans hlost.1, fun hlen => ?_⟩, fun g' hg' => ?_⟩
    · rw [hgcell]
      exact hlost.2 hlen
    · obtain ⟨hchan, htold⟩ := h'.lost g' hg'
      refine ⟨hchan.trans (congrArg lostSlave (hkept g' hg')), fun hlen => ?_⟩
      have hcell := htold (h.length.trans hlen)
      rwa [hfeed] at hcell
  · obtain ⟨hd0, hdl⟩ := List.forall_mem_cons.1 hd
    obtain ⟨hchan, hcell⟩ := h.others d (by simpa using hd0)
    obtain ⟨hchan', hcell'⟩ := h'.others d hdl
    exact ⟨hchan'.trans hchan, hcell'.trans hcell⟩
  · rw [h'.gangs, h.gangs]
    refine Quad.ext_get fun k => ?_
    simp only [Quad.get_set, if_true, List.filter_filter, List.all_cons, List.all_nil, Bool.and_true]
    split
    · exact List.filter_congr fun x _ => Bool.and_comm ..
    · rfl
  · rw [h'.cache, h.cache, lostPins_congr fun g' _ => ho g'.ch]
    exact (lostPins_append s [g] l s.cache).symm
  · have hcount : (l.map (·.ch)).countP (fun d => decide ((t.chan d).material = some (.clip id))) =
        (l.map (·.ch)).countP (fun d => decide ((s.chan d).material = some (.clip id))) := by
      refine List.countP_congr fun d hd => ?_
      obtain ⟨g', hg', rfl⟩ := List.mem_map.1 hd
      rw [hkept g' hg']
    rw [h'.clip, h.clip, Option.map_map, hcount]
    refine congrArg (fun u => (SMap.find s.clips id).map u) (funext fun x => ?_)
    simp only [Function.comp, List.map_cons, List.map_nil, List.countP_cons, List.countP_nil, Nat.sub_sub]
    congr 2
    omega

/-- The slaves of a list lose their windows one after the other (R113). -/
theorem loseSlave_foldl (m : ChanId) {l : List GangSlave} (hn : (l.map (·.ch)).Nodup) (s : State) :
    LostSlaves m l s (l.foldl (fun acc g => loseSlave m g acc) s) := by
  induction l generalizing s with
  | nil =>
    have hgangs : s.gangs = s.gangs.set m ((s.gangs.get m).filter fun _ => true) :=
      Quad.ext_get fun k => by rw [Quad.get_set]; split <;> simp_all
    exact ⟨by simp, fun _ _ => ⟨rfl, rfl⟩, hgangs, rfl, rfl, rfl, fun _ _ => rfl, rfl, fun id => by simp⟩
  | cons g l ih =>
    obtain ⟨hg, hl⟩ := List.nodup_cons.1 hn
    have hone := loseSlave_lostSlaves m g s
    refine hone.cons (ih hl _) (fun g' hg' he => hg (List.mem_map.2 ⟨g', hg', he⟩)) fun d => ?_
    obtain ⟨hchan, -⟩ := loseSlave_does s m g
    rw [hchan]
    split
    · subst d; rfl
    · rfl

/-- A master that ends by an empty window, and its slaves with it (R54, R113, R114). -/
theorem windowLost_does (ch : ChanId) (s : State) (hn : (ch :: (s.gangs.get ch).map (·.ch)).Nodup) :
    let gs := s.gangs.get ch
    let f := feedOfChannel s ch
    let t := windowLost ch s
    t.chan ch = { (s.chan ch).toIdle with material := none } ∧
    (∀ g ∈ gs, t.chan g.ch = lostSlave (s.chan g.ch) ∧ tellsLoss s t g) ∧
    (∀ d, d ≠ ch → (∀ g ∈ gs, g.ch ≠ d) → t.chan d = s.chan d) ∧
    t.gangs = s.gangs.set ch [] ∧ t.lists = s.lists ∧ t.cache = lostPins s gs s.cache ∧
    (s.cells.length = 54 → (t.cell (24 + ch.val)).latch = true ∧ (t.cell (24 + ch.val)).detail =
      some (.windowLost f (materialId (s.chan ch).material) (s.feed f).tail (s.feed f).head)) ∧
    (∀ i, (∀ d : ChanId, i ≠ 24 + d.val) → t.cell i = s.cell i) ∧
    ∀ id, SMap.find t.clips id = (SMap.find s.clips id).map fun c =>
      { c with useCount := c.useCount -
          (ch :: gs.map (·.ch)).countP (fun d => decide ((s.chan d).material = some (.clip id))) } := by
  intro gs f t
  obtain ⟨hown, hfirst⟩ := loseWindow_does ch s
  obtain ⟨hch, hl⟩ := List.nodup_cons.1 hn
  have hgs : (loseWindow ch s).gangs.get ch = gs := by rw [hfirst.gangs]
  have hrest : LostSlaves ch gs (loseWindow ch s) t := by
    show LostSlaves ch gs _ (((loseWindow ch s).gangs.get ch).foldl _ _)
    rw [hgs]
    exact loseSlave_foldl ch hl _
  have hkept : ∀ g ∈ gs, (loseWindow ch s).chan g.ch = s.chan g.ch := fun g hg =>
    hfirst.others g.ch fun he => hch (List.mem_map.2 ⟨g, hg, he⟩)
  have hnone : ∀ g ∈ gs, g.ch ≠ ch := fun g hg he => hch (List.mem_map.2 ⟨g, hg, he⟩)
  obtain ⟨hownchan, howncell⟩ := hrest.others ch hnone
  refine ⟨hownchan.trans hown, fun g hg => ?_, fun d hd hg => ?_, ?_, hrest.lists.trans hfirst.lists, ?_,
    fun hlen => ?_, fun i hi => ?_, fun id => ?_⟩
  · obtain ⟨hchan, htold⟩ := hrest.lost g hg
    refine ⟨hchan.trans (congrArg lostSlave (hkept g hg)), fun hlen => ?_⟩
    have hcell := htold (hfirst.length.trans hlen)
    rwa [State.feed_congr hfirst.feeds] at hcell
  · exact (hrest.others d hg).1.trans (hfirst.others d hd)
  · rw [hrest.gangs, hgs, hfirst.gangs]
    congr 1
    refine List.filter_eq_nil_iff.2 fun x hx hall => ?_
    simpa using List.all_eq_true.1 hall x hx
  · rw [hrest.cache, hfirst.cache, lostPins_congr fun g hg => congrArg Channel.opts (hkept g hg)]
  · rw [howncell, hfirst.cell, if_pos ⟨rfl, by omega⟩]
    exact ⟨rfl, rfl⟩
  · exact (hrest.cell i hi).trans ((hfirst.cell i).trans (if_neg fun h => hi ch h.1))
  · have hcount : (gs.map (·.ch)).countP (fun d => decide (((loseWindow ch s).chan d).material = some (.clip id))) =
        (gs.map (·.ch)).countP (fun d => decide ((s.chan d).material = some (.clip id))) := by
      refine List.countP_congr fun d hd => ?_
      obtain ⟨g, hg, rfl⟩ := List.mem_map.1 hd
      rw [hkept g hg]
    rw [hrest.clip, hfirst.clip, Option.map_map, hcount]
    refine congrArg (fun u => (SMap.find s.clips id).map u) (funext fun x => ?_)
    simp only [Function.comp, List.countP_cons, Nat.sub_sub, decide_eq_true_eq]
    congr 2
    omega

end Sys2Proof.Machine
end

section
/-!
PROOFS. The entries a NEXT advance passes over and the clip it takes (R111, R125, R126).
-/

-- Proofs checked in turn: side by side they need more threads than the memory limit of check.sh has room for.
set_option Elab.async false

namespace Sys2Proof.Machine

variable {s t : State} {ch : ChanId}

/-! ## Entries passed over (R125) -/

/-- CLIP_EXPIRED with the action SKIPPED for one entry passed over, if it names a record. -/
def skipNotice (ch : ChanId) (s : State) (e : CueEntry) : List (Nat × Detail) :=
  ((SMap.find s.clips e.clip).map fun c =>
    (0, .clipExpired e.clip c.feed c.markIn (some (s.feed c.feed).tail) (some ch) true)).toList

/-- A fold that raises some notices at each entry raises them all in turn. -/
theorem foldl_eq_tell {α : Type} {op : State → α → State} {notices : α → List (Nat × Detail)}
    (h : ∀ t a, op t a = tell (notices a) t) (l : List α) (s : State) : l.foldl op s = tell (l.flatMap notices) s := by
  induction l generalizing s with
  | nil => rfl
  | cons a l ih => rw [List.foldl_cons, ih, h, List.flatMap_cons, tell_append]

theorem raiseSkipped_eq_tell (ch : ChanId) (l : List CueEntry) (s : State) :
    raiseSkipped ch l s = tell (l.flatMap (skipNotice ch s)) s :=
  foldl_eq_tell (fun t e => by unfold skipNotice; cases SMap.find s.clips e.clip <;> rfl) l s

theorem passOver_eq (ch : ChanId) (e : CueEntry) (s : State) :
    passOver ch e s = tell (skipNotice ch s e) (releaseClip e.clip s) := by
  unfold passOver skipNotice
  cases SMap.find s.clips e.clip <;> rfl

/-- The notices of an entry do not depend on the use counts. -/
theorem skipNotice_congr (hf : t.feeds = s.feeds) (hc : t.fixed.clip = s.fixed.clip) (e : CueEntry) :
    skipNotice ch t e = skipNotice ch s e := by
  have hclip : ∀ u : State, skipNotice ch u e = ((u.fixed.clip e.clip).map fun c =>
      (0, .clipExpired e.clip c.feed c.markIn (some (u.feed c.feed).tail) (some ch) true)).toList := fun u => by
    simp only [skipNotice, State.fixed, Option.map_map]
    rfl
  simp only [hclip, hc, State.feed_congr hf]

/-- The entries passed over give up their clips and raise their notices, and nothing else. -/
theorem passAll_eq (ch : ChanId) (l : List CueEntry) (s : State) : ∃ m, passAll ch l s = { s with
    clips := m, cells := (raiseSkipped ch l s).cells, link := (raiseSkipped ch l s).link } := by
  have key : ∀ (l : List CueEntry) (t : State), t.feeds = s.feeds → t.fixed.clip = s.fixed.clip →
      let told := tell (l.flatMap (skipNotice ch s)) t
      ∃ m, passAll ch l t = { t with clips := m, cells := told.cells, link := told.link } := by
    intro l
    induction l with
    | nil => exact fun t _ _ => ⟨t.clips, rfl⟩
    | cons e l ih =>
      intro t hf hc told
      have hone : passOver ch e t = { releaseClip e.clip t with
          cells := (tell (skipNotice ch s e) t).cells, link := (tell (skipNotice ch s e) t).link } := by
        rw [passOver_eq, skipNotice_congr hf hc]
        exact tell_of_eq (s := t) (t := releaseClip e.clip t) rfl rfl _
      have hfixed : (passOver ch e t).fixed = t.fixed := ((TickFrame.refl ch t).passAll [e]).fixed
      obtain ⟨m, hm⟩ := ih (passOver ch e t) ((congrArg Fixed.feeds hfixed).trans hf)
        ((congrArg Fixed.clip hfixed).trans hc)
      obtain ⟨hcells, hlink⟩ := tell_congr (s := tell (skipNotice ch s e) t) (t := passOver ch e t)
        (by rw [hone]) (by rw [hone]) (l.flatMap (skipNotice ch s))
      refine ⟨m, hm.trans ?_⟩
      rw [hcells, hlink, hone, ← tell_append, ← List.flatMap_cons]
      rfl
  obtain ⟨m, hm⟩ := key l s rfl rfl
  exact ⟨m, by rw [hm, raiseSkipped_eq_tell]⟩

theorem raiseSkipped_cells_length (ch : ChanId) (l : List CueEntry) (s : State) :
    (raiseSkipped ch l s).cells.length = s.cells.length := by rw [raiseSkipped_eq_tell, tell_cells_length]

/-! ## The taking of an entry and the angles of its clip (R111, R125) -/

theorem takeEntry_eq (ch : ChanId) (passed : List CueEntry) (e : CueEntry) (rest : List CueEntry) (s : State) :
    ∃ m, takeEntry ch passed e rest s = State.setChan { s with
      clips := m, lists := s.lists.set ch rest
      cells := (raiseSkipped ch passed s).cells, link := (raiseSkipped ch passed s).link } ch
        { s.chan ch with material := some (.clip e.clip) } := by
  obtain ⟨m, hm⟩ := passAll_eq ch passed (s.setList ch rest)
  have htold : (raiseSkipped ch passed (s.setList ch rest)).cells = (raiseSkipped ch passed s).cells ∧
      (raiseSkipped ch passed (s.setList ch rest)).link = (raiseSkipped ch passed s).link := by
    simp only [raiseSkipped_eq_tell]
    exact tell_congr (s := s) (t := s.setList ch rest) rfl rfl (passed.flatMap (skipNotice ch s))
  show ∃ m, releaseClip e.clip (changeMaterial ch _ (passAll ch passed (s.setList ch rest))) = _
  have hhold : ∀ u : State, ∃ m, releaseClip e.clip (changeMaterial ch (some (.clip e.clip)) u) =
      State.setChan { u with clips := m } ch { u.chan ch with material := some (.clip e.clip) } :=
    fun u => ⟨(releaseClip e.clip (changeMaterial ch (some (.clip e.clip)) u)).clips,
      congrArg (releaseClip e.clip) (changeMaterial_whole ch _ u)⟩
  rw [hm, htold.1, htold.2]
  exact hhold _

theorem assignAngles_lists_link (m : ChanId) (id : Nat) (s : State) :
    ((assignAngles m id s).lists, (assignAngles m id s).link) = (s.lists, s.link) := by
  unfold assignAngles
  split
  · rfl
  · refine (foldl_keeps (fun s : State => (s.lists, s.link)) _ (fun t g => ?_) _ _).trans rfl
    unfold adoptAngle
    split
    · rfl
    · rw [changeMaterial_whole]
      rfl

/-- A NEXT advance before the new window is known: the entries passed over have left, the channel holds the new clip,
and its slaves have taken the clip's angles (R111, R125). -/
structure Advanced (ch : ChanId) (passed : List CueEntry) (e : CueEntry) (rest : List CueEntry) (d : Clip)
    (s t : State) : Prop where
  gangs : t.gangs = s.gangs.set ch (assigned (s.gangs.get ch) d.angles)
  chan : t.chan ch = { s.chan ch with material := some (.clip e.clip) }
  slaves : ∀ g ∈ assigned (s.gangs.get ch) d.angles, t.chan g.ch = onAngle g (s.chan g.ch)
  feeds : t.feeds = s.feeds
  lists : t.lists = s.lists.set ch rest
  cells : t.cells = (raiseSkipped ch passed s).cells
  link : t.link = (raiseSkipped ch passed s).link
  feed : feedOfChannel t ch = d.feed

theorem assignOwnAngles_advanced (hn : (ch :: (s.gangs.get ch).map (·.ch)).Nodup) {e : CueEntry} {d : Clip}
    (hd : SMap.find s.clips e.clip = some d) (passed rest : List CueEntry) :
    Advanced ch passed e rest d s (assignOwnAngles ch (takeEntry ch passed e rest s)) := by
  obtain ⟨m, hm⟩ := takeEntry_eq ch passed e rest s
  have hframe := (TickFrame.refl ch s).takeEntry passed e rest
  obtain ⟨d', hd', hsame⟩ : ∃ d', SMap.find (takeEntry ch passed e rest s).clips e.clip = some d' ∧
      ({ d' with useCount := 0 } : Clip) = { d with useCount := 0 } := by
    have hclip := congrFun (congrArg Fixed.clip hframe.fixed) e.clip
    simp only [State.fixed, hd, Option.map_some, Option.map_eq_some_iff] at hclip
    exact hclip
  have hangles : d'.angles = d.angles := (congrArg Clip.angles hsame :)
  have hfeed : d'.feed = d.feed := (congrArg Clip.feed hsame :)
  have hown : ((takeEntry ch passed e rest s).chan ch) = { s.chan ch with material := some (.clip e.clip) } := by
    rw [hm, State.chan_setChan, if_pos rfl]
  have hassign : assignOwnAngles ch (takeEntry ch passed e rest s) =
      assignAngles ch e.clip (takeEntry ch passed e rest s) := by
    simp only [assignOwnAngles, hown, materialId]
  have hgangs : (takeEntry ch passed e rest s).gangs = s.gangs := by rw [hm]; rfl
  obtain ⟨hch, hl⟩ := List.nodup_cons.1 hn
  obtain ⟨hgangs', hslaves, hothers, hfeeds, -, hcells⟩ :=
    assignAngles_does (takeEntry ch passed e rest s) ch e.clip d' hd' (by rw [hgangs]; exact hl)
  obtain ⟨hlists, hlink⟩ := Prod.mk.inj (assignAngles_lists_link ch e.clip (takeEntry ch passed e rest s))
  rw [hangles, hgangs] at hgangs' hslaves
  rw [hgangs] at hothers
  have hchan : (assignAngles ch e.clip (takeEntry ch passed e rest s)).chan ch =
      { s.chan ch with material := some (.clip e.clip) } :=
    (hothers ch fun g hg he => hch (List.mem_map.2 ⟨g, hg, he⟩)).trans hown
  rw [hassign]
  refine ⟨hgangs', hchan, fun g hg => ?_, ?_, ?_, ?_, ?_, ?_⟩
  · have hne : g.ch ≠ ch := by
      rintro rfl
      refine hch ?_
      rw [← assigned_ch _ d.angles]
      exact List.mem_map_of_mem hg
    rw [hslaves g hg, hm, State.chan_setChan, if_neg hne]
    rfl
  · rw [hfeeds, hm]; rfl
  · rw [hlists, hm]; rfl
  · rw [hcells, hm]; rfl
  · rw [hlink, hm]; rfl
  · have hclip := congrFun (congrArg Fixed.clip hframe.assignOwnAngles.fixed) e.clip
    rw [hassign] at hclip
    simp only [State.fixed, hd, Option.map_some, Option.map_eq_some_iff] at hclip
    obtain ⟨c, hc, hcd⟩ := hclip
    simp only [feedOfChannel, channelFeed, hchan, Option.bind_some, materialFeed, hc, Option.map_some, Option.getD_some]
    exact (congrArg Clip.feed hcd :)

end Sys2Proof.Machine
end

section
/-!
PROOFS. The bound stage (R60 to R67).
-/

-- Proofs checked in turn: side by side they need more threads than the memory limit of check.sh has room for.
set_option Elab.async false

namespace Sys2Proof.Machine

variable {s : State} {ch : ChanId} {w : Window} {q : Int} {e : WindowEnd} {c : Clip}

/-! ## The ends of a window (R53, R60) -/

theorem boundClip_upper_iff {id : Nat} (h : SMap.find s.clips id = some c) :
    boundClip s (some (.clip id)) .upper = some c ↔
      ∃ o h, c.markOut = some o ∧ (s.feed c.feed).head = some h ∧ o ≤ h := by
  have hbound : c.upperBound (s.feed c.feed) = true ↔
      ∃ o h, c.markOut = some o ∧ (s.feed c.feed).head = some h ∧ o ≤ h := by
    unfold Clip.upperBound
    cases c.markOut <;> cases (s.feed c.feed).head <;> simp
  simp only [boundClip, materialClip, h, ← hbound]
  simp

theorem boundClip_lower_iff {id : Nat} (h : SMap.find s.clips id = some c) :
    boundClip s (some (.clip id)) .lower = some c ↔ (s.feed c.feed).tail ≤ c.markIn := by
  simp only [boundClip, materialClip, h, Clip.lowerBound]
  simp

/-- Q lies beyond the end `e` of the window, whose frame is `hold` (R60). -/
def Window.overruns (w : Window) (q : Int) (e : WindowEnd) (hold : Nat) : Prop :=
  (e = .upper ∧ ((w.hi : Int) + 1) * 1024 ≤ q ∧ hold = w.hi) ∨
    (e = .lower ∧ q < ((w.hi : Int) + 1) * 1024 ∧ q < (w.lo : Int) * 1024 ∧ hold = w.lo)

theorem overrun_of_overruns {hold : Nat} (h : w.overruns q e hold) :
    w.overrun q = some e ∧ w.hold e = hold * 1024 := by
  unfold Window.overrun
  rcases h with ⟨rfl, hq, rfl⟩ | ⟨rfl, hhi, hlo, rfl⟩
  · exact ⟨if_pos hq, rfl⟩
  · exact ⟨(if_neg (not_le.2 hhi)).trans (if_pos hlo), rfl⟩

theorem overrun_inside (hlo : (w.lo : Int) * 1024 ≤ q) (hhi : q < ((w.hi : Int) + 1) * 1024) :
    w.overrun q = none := (if_neg (not_le.2 hhi)).trans (if_neg (not_lt.2 hlo))

/-! ## Q inside the window (R60, R65) -/

/-- AT_LIVE once set stays as it is. -/
theorem setAtLive_set (h : (s.chan ch).atLive = true) (n : Nat) : setAtLive ch n s = s := by
  have hsame : { s.chan ch with atLive := true } = s.chan ch := by rw [← h]
  simp only [setAtLive, h, if_true, hsame, State.setChan_chan]

theorem setAtLive_raises (h : (s.chan ch).atLive = false) (n : Nat) : setAtLive ch n s =
    raise ch.val (.atLive (feedOfChannel s ch) n) (s.setChan ch { s.chan ch with atLive := true }) := by
  simp only [setAtLive, h, Bool.false_eq_true, if_false]

theorem setAtTail_set (h : (s.chan ch).atTail = true) (n : Nat) : setAtTail ch n s = s := by
  have hsame : { s.chan ch with atTail := true } = s.chan ch := by rw [← h]
  simp only [setAtTail, h, if_true, hsame, State.setChan_chan]

theorem setAtTail_raises (h : (s.chan ch).atTail = false) (n : Nat) : setAtTail ch n s =
    raise ch.val (.tailPush (feedOfChannel s ch) n) (s.setChan ch { s.chan ch with atTail := true }) := by
  simp only [setAtTail, h, Bool.false_eq_true, if_false]

theorem feedOfChannel_setChan {x : Channel} (h : x.material = (s.chan ch).material) :
    feedOfChannel (s.setChan ch x) ch = feedOfChannel s ch := by
  simp only [feedOfChannel, channelFeed, State.chan_setChan, if_true, h]
  rfl

section Inside

variable (hlo : (w.lo : Int) * 1024 ≤ q) (hhi : q < ((w.hi : Int) + 1) * 1024)
include hlo hhi

theorem settle_inside_off (h : ¬ ((s.chan ch).state = .live ∧ boundClip s (s.chan ch).material .upper = none)) :
    settle ch w q s = s.setChan ch { s.chan ch with pos := q.toNat } := by
  simp only [settle, overrun_inside hlo hhi, settleInside, Option.isNone_iff_eq_none]
  exact if_neg h

theorem settle_inside_live (h : (s.chan ch).state = .live ∧ boundClip s (s.chan ch).material .upper = none) :
    settle ch w q s = setAtLive ch w.hi (s.setChan ch { s.chan ch with pos := q.toNat }) := by
  simp only [settle, overrun_inside hlo hhi, settleInside, Option.isNone_iff_eq_none]
  exact if_pos h

theorem settle_inside_set (h : (s.chan ch).state = .live ∧ boundClip s (s.chan ch).material .upper = none)
    (hl : (s.chan ch).atLive = true) : settle ch w q s = s.setChan ch { s.chan ch with pos := q.toNat } := by
  rw [settle_inside_live hlo hhi h, setAtLive_set (by simpa using hl)]

theorem settle_inside_raises (h : (s.chan ch).state = .live ∧ boundClip s (s.chan ch).material .upper = none)
    (hl : (s.chan ch).atLive = false) : settle ch w q s = raise ch.val (.atLive (feedOfChannel s ch) w.hi)
      (s.setChan ch { s.chan ch with pos := q.toNat, atLive := true }) := by
  rw [settle_inside_live hlo hhi h, setAtLive_raises (by simpa using hl), feedOfChannel_setChan (by rfl)]
  simp only [State.chan_setChan, if_true, State.setChan_setChan]

end Inside

/-! ## The clip bounds (R61, R62, R64) -/

/-- The channel stopped at an end (R61). -/
def Channel.stoppedAt (x : Channel) (hold : Nat) : Channel :=
  { x with pos := hold * 1024, speed := 0, target := 0, state := .ended, preload := false }

theorem stopEnd_eq {hold id : Nat} (h : w.hold e = hold * 1024) (hm : (s.chan ch).material = some (.clip id)) :
    stopEnd ch w e s = raise ch.val (.clipEnd id hold e.direction) (s.setChan ch ((s.chan ch).stoppedAt hold)) := by
  have hid : (materialId (s.chan ch).material).getD 0 = id := by rw [hm]; rfl
  simp only [stopEnd, h, hid, Nat.mul_div_cancel hold (by decide : 0 < 1024)]
  rfl

section ClipBound

variable {hold : Nat} (ho : w.overruns q e hold) (hb : boundClip s (s.chan ch).material e = some c)
include ho hb

theorem settle_clipBound : settle ch w q s = clipBoundEnd ch w e q c.endMode s := by
  simp only [settle, (overrun_of_overruns ho).1, hb]

theorem settle_stops {id : Nat} (hm : (s.chan ch).material = some (.clip id)) (h : (s.chan ch).state = .live ∨
    (((s.chan ch).state = .playing ∨ (s.chan ch).state = .shuttle) ∧ c.endMode = .stop)) :
    settle ch w q s = raise ch.val (.clipEnd id hold e.direction) (s.setChan ch ((s.chan ch).stoppedAt hold)) := by
  rw [settle_clipBound ho hb, ← stopEnd_eq (overrun_of_overruns ho).2 hm]
  rcases h with h | ⟨h | h, hmode⟩
  · simp only [clipBoundEnd, h]
  · simp only [clipBoundEnd, h, hmode]
  · simp only [clipBoundEnd, h, hmode]

theorem settle_wraps (h : (s.chan ch).state = .playing ∨ (s.chan ch).state = .shuttle) (hmode : c.endMode = .loop) :
    settle ch w q s = s.setChan ch { s.chan ch with pos := w.wrap q } := by
  rw [settle_clipBound ho hb]
  rcases h with h | h <;> simp only [clipBoundEnd, h, hmode]

theorem settle_holds (h : ¬ ((s.chan ch).state = .playing ∨ (s.chan ch).state = .shuttle))
    (hl : (s.chan ch).state ≠ .live) : settle ch w q s = s.setChan ch { s.chan ch with pos := hold * 1024 } := by
  rw [settle_clipBound ho hb, ← (overrun_of_overruns ho).2]
  obtain ⟨hp, hs⟩ := not_or.1 h
  simp only [clipBoundEnd]

theorem settle_next (h : (s.chan ch).state = .playing ∨ (s.chan ch).state = .shuttle) (hmode : c.endMode = .next) :
    settle ch w q s = nextEnd ch w e s := by
  rw [settle_clipBound ho hb]
  rcases h with h | h <;> simp only [clipBoundEnd, h, hmode]

end ClipBound

/-! ## The live bound and the tail bound (R65, R66) -/

section Unbound

variable {hold : Nat} (ho : w.overruns q e hold) (hb : boundClip s (s.chan ch).material e = none)
include ho hb

/-- The channel held at the head (R65). -/
theorem settle_liveBound (he : e = .upper) :
    let x := s.chan ch
    let held := { x with atLive := true, pos := w.hi * 1024, state := x.heldState }
    (x.atLive = true → settle ch w q s = s.setChan ch held) ∧
      (x.atLive = false → settle ch w q s =
        raise ch.val (.atLive (feedOfChannel s ch) w.hi) (s.setChan ch held)) := by
  subst he
  intro x held
  have hsettle : settle ch w q s = liveBoundEnd ch w s := by simp only [settle, (overrun_of_overruns ho).1, hb]
  rw [hsettle]
  refine ⟨fun hl => ?_, fun hl => ?_⟩
  · have hheld : held = { x with pos := w.hi * 1024, state := x.heldState } := by simp only [held, hl]
    rw [liveBoundEnd, setAtLive_set hl, hheld]
  · rw [liveBoundEnd, setAtLive_raises hl]
    simp only [raise_chan, State.chan_setChan, if_true]
    exact congrArg (raise ch.val _) (State.setChan_setChan s ch _ held)

/-- The channel held at the tail (R66). -/
theorem settle_tailBound (he : e = .lower) :
    let x := s.chan ch
    let held := { x with atTail := true, pos := w.lo * 1024 }
    (x.atTail = true → settle ch w q s = s.setChan ch held) ∧
      (x.atTail = false → settle ch w q s =
        raise ch.val (.tailPush (feedOfChannel s ch) w.lo) (s.setChan ch held)) := by
  subst he
  intro x held
  have hsettle : settle ch w q s = tailBoundEnd ch w s := by simp only [settle, (overrun_of_overruns ho).1, hb]
  rw [hsettle]
  refine ⟨fun hl => ?_, fun hl => ?_⟩
  · have hheld : held = { x with pos := w.lo * 1024 } := by simp only [held, hl]
    rw [tailBoundEnd, setAtTail_set hl, hheld]
  · rw [tailBoundEnd, setAtTail_raises hl]
    simp only [raise_chan, State.chan_setChan, if_true]
    exact congrArg (raise ch.val _) (State.setChan_setChan s ch _ held)

end Unbound

/-! ## The NEXT end (R63, R125, R126) -/

theorem takeable_none {p : CueEntry} (h : ∃ y, SMap.find s.clips p.clip = some y ∧
    (y.state = .expired ∨ y.markIn < (s.feed y.feed).tail)) : takeable s p = none := by
  obtain ⟨y, hy, hno⟩ := h
  simp only [takeable, hy, if_pos hno]

theorem takeable_some {en : CueEntry} {d : Clip} (hd : SMap.find s.clips en.clip = some d) (hs : d.state ≠ .expired)
    (ht : (s.feed d.feed).tail ≤ d.markIn) : takeable s en = some d := by
  simp only [takeable, hd, hs, false_or, not_lt.2 ht, if_false]

theorem searchList_none {l : List CueEntry} (h : ∀ p ∈ l, takeable s p = none) : searchList s l = (l, none) := by
  induction l with
  | nil => rfl
  | cons p l ih =>
    obtain ⟨hp, hl⟩ := List.forall_mem_cons.1 h
    simp only [searchList, hp, ih hl]

/-- A list that yields no clip is emptied, and the channel stops (R63, R126). -/
theorem nextEnd_stops {hold id : Nat} (h : ∀ p ∈ s.lists.get ch, takeable s p = none) (hw : w.hold e = hold * 1024)
    (hm : (s.chan ch).material = some (.clip id)) :
    let t := nextEnd ch w e s
    let told := raise ch.val (.clipEnd id hold e.direction) (raiseSkipped ch (s.lists.get ch) s)
    t.chan ch = (s.chan ch).stoppedAt hold ∧ t.lists = s.lists.set ch [] ∧ t.gangs = s.gangs ∧ t.cells = told.cells ∧
      t.link = told.link ∧ ∀ k, k ≠ ch → t.chan k = s.chan k := by
  intro t told
  obtain ⟨m, hpass⟩ := passAll_eq ch (s.lists.get ch) (s.setList ch [])
  have hskip : (raiseSkipped ch (s.lists.get ch) (s.setList ch [])).cells = (raiseSkipped ch (s.lists.get ch) s).cells ∧
      (raiseSkipped ch (s.lists.get ch) (s.setList ch [])).link = (raiseSkipped ch (s.lists.get ch) s).link := by
    simp only [raiseSkipped_eq_tell]
    exact tell_congr (s := s) (t := s.setList ch []) rfl rfl ((s.lists.get ch).flatMap (skipNotice ch s))
  rw [hskip.1, hskip.2] at hpass
  have hnext : t = stopEnd ch w e (passWhole ch s) := by
    simp only [t, nextEnd, searchList_none h]
  have hchan : ∀ d, (passWhole ch s).chan d = s.chan d := fun d => by
    show (passAll ch _ (s.setList ch [])).chan d = _
    rw [hpass]
    rfl
  have hstop : t = raise ch.val (.clipEnd id hold e.direction)
      ((passWhole ch s).setChan ch ((s.chan ch).stoppedAt hold)) := by
    rw [hnext, stopEnd_eq hw (by rw [hchan]; exact hm), hchan]
  obtain ⟨hcells, hlink⟩ := raise_congr (s := raiseSkipped ch (s.lists.get ch) s)
    (t := (passWhole ch s).setChan ch ((s.chan ch).stoppedAt hold))
    (by show (passAll ch _ (s.setList ch [])).cells = _; rw [hpass])
    (by show (passAll ch _ (s.setList ch [])).link = _; rw [hpass]) ch.val (.clipEnd id hold e.direction)
  rw [hstop]
  refine ⟨?_, ?_, ?_, hcells, hlink, fun k hk => ?_⟩
  · rw [raise_chan, State.chan_setChan, if_pos rfl]
  · show (passAll ch _ (s.setList ch [])).lists = _
    rw [hpass]
    rfl
  · show (passAll ch _ (s.setList ch [])).gangs = _
    rw [hpass]
    rfl
  · rw [raise_chan, State.chan_setChan, if_neg hk, hchan]

section Advance

variable (hn : (ch :: (s.gangs.get ch).map (·.ch)).Nodup) {en : CueEntry} {d : Clip}
  (hd : SMap.find s.clips en.clip = some d) (passed rest : List CueEntry)
include hn hd

/-- A NEXT advance into an empty window ends the channel and its slaves (R54, R63). -/
theorem advanceNext_lost (hw : d.window (s.feed d.feed) = none) :
    let t := advanceNext ch e passed en d rest s
    let gs := assigned (s.gangs.get ch) d.angles
    (t.chan ch).state = .idle ∧ (t.chan ch).material = none ∧ (t.chan ch).window = none ∧
      t.gangs = s.gangs.set ch [] ∧ (∀ g ∈ gs, t.chan g.ch = lostSlave (s.chan g.ch) ∧ tellsLoss s t g) ∧
      (s.cells.length = 54 → t.cell 50 = (raiseSkipped ch passed s).cell 50 ∧
        (t.cell (24 + ch.val)).latch = true ∧ (t.cell (24 + ch.val)).detail =
          some (.windowLost d.feed (some en.clip) (s.feed d.feed).tail (s.feed d.feed).head)) ∧
      t.lists = s.lists.set ch rest := by
  intro t gs
  have ha := assignOwnAngles_advanced hn hd passed rest
  generalize hadv : assignOwnAngles ch (takeEntry ch passed en rest s) = a at ha
  have hlost : t = windowLost ch a := by
    simp only [t, advanceNext, hadv, State.feed_congr ha.feeds, hw]
  have hgs : a.gangs.get ch = gs := by rw [ha.gangs, Quad.get_set, if_pos rfl]
  have hlen : a.cells.length = s.cells.length := by rw [ha.cells, raiseSkipped_cells_length]
  obtain ⟨hown, hslaves, -, hgangs, hlists, -, htold, hcells, -⟩ :=
    windowLost_does ch a (by rw [hgs, assigned_ch]; exact hn)
  rw [hgs] at hslaves
  rw [hlost]
  refine ⟨congrArg Channel.state hown, congrArg Channel.material hown, congrArg Channel.window hown, ?_, fun g hg => ?_,
    fun hl => ?_, hlists.trans ha.lists⟩
  · rw [hgangs, ha.gangs]
    exact Quad.ext_get fun k => by simp only [Quad.get_set]; split <;> rfl
  · obtain ⟨hchan, hloss⟩ := hslaves g hg
    refine ⟨hchan.trans ?_, fun hl => ?_⟩
    · rw [ha.slaves g hg]
      rfl
    · have hcell := hloss (hlen.trans hl)
      rwa [State.feed_congr ha.feeds] at hcell
  · have hown50 : a.cell 50 = (raiseSkipped ch passed s).cell 50 := by rw [State.cell, ha.cells]; rfl
    have hmine := htold (hlen.trans hl)
    rw [ha.feed, ha.chan, State.feed_congr ha.feeds] at hmine
    exact ⟨(hcells 50 fun d => by omega).trans hown50, hmine⟩

/-- A NEXT advance into a window (R63, R126). -/
theorem advanceNext_taken {w' : Window} (hw : d.window (s.feed d.feed) = some w') :
    let x := s.chan ch
    let t := advanceNext ch e passed en d rest s
    let gs := assigned (s.gangs.get ch) d.angles
    let frame := d.entryIn (s.feed d.feed) (nextReverse x.speed e) w'
    let told := raise ch.val (.clipTaken en.clip frame .next rest.length) (raiseSkipped ch passed s)
    t.chan ch = { x with
      material := some (.clip en.clip), pos := frame * 1024, target := en.speed.getD d.nominal, window := some w'
      atLive := false, atTail := false, preload := true, cueWait := none } ∧
    t.cells = told.cells ∧ t.link = told.link ∧ t.gangs = s.gangs.set ch gs ∧
    (∀ g ∈ gs, t.chan g.ch = onAngle g (s.chan g.ch)) ∧ t.lists = s.lists.set ch rest := by
  intro x t gs frame told
  have ha := assignOwnAngles_advanced hn hd passed rest
  generalize hadv : assignOwnAngles ch (takeEntry ch passed en rest s) = a at ha
  have htaken : t = raise ch.val (.clipTaken en.clip frame .next rest.length)
      (a.setChan ch ((a.chan ch).advanced w' frame (en.target d))) := by
    simp only [t, advanceNext, hadv, State.feed_congr ha.feeds, hw]
    rfl
  obtain ⟨hcells, hlink⟩ := raise_congr (s := raiseSkipped ch passed s)
    (t := a.setChan ch ((a.chan ch).advanced w' frame (en.target d))) ha.cells ha.link ch.val
    (.clipTaken en.clip frame .next rest.length)
  rw [htaken]
  refine ⟨?_, hcells, hlink, ha.gangs, fun g hg => ?_, ha.lists⟩
  · rw [raise_chan, State.chan_setChan, if_pos rfl, ha.chan]
    rfl
  · have hne : g.ch ≠ ch := by
      rintro rfl
      refine (List.nodup_cons.1 hn).1 ?_
      rw [← assigned_ch _ d.angles]
      exact List.mem_map_of_mem hg
    rw [raise_chan, State.chan_setChan, if_neg hne]
    exact ha.slaves g hg

end Advance

end Sys2Proof.Machine
end

section
/-!
PROOFS. The selection of a tick, the derivation of its slaves and its lookups (R68 to R70).
-/

-- Proofs checked in turn: side by side they need more threads than the memory limit of check.sh has room for.
set_option Elab.async false

namespace Sys2Proof.Machine

variable {s t u : State} {ch : ChanId} {w : Window}

/-! ## What a selection and its lookups read -/

theorem boundClip_congr (hc : t.clips = s.clips) (hf : t.feeds = s.feeds) (m : Option Material) (e : WindowEnd) :
    boundClip t m e = boundClip s m e := by
  have hclip : materialClip t m = materialClip s m := by
    unfold materialClip
    split <;> [rw [hc]; rfl]
  simp only [boundClip, hclip, State.feed_congr hf]

theorem materialWindow_congr (hc : t.clips = s.clips) (hf : t.feeds = s.feeds) (m : Material) :
    materialWindow t m = materialWindow s m := by
  cases m <;> simp only [materialWindow, hc, State.feed_congr hf]

theorem materialFeed_congr (hc : t.clips = s.clips) (m : Material) : materialFeed t m = materialFeed s m := by
  cases m <;> simp only [materialFeed, hc]

theorem feedOfChannel_of_material {m : Material} (h : (s.chan ch).material = some m) :
    feedOfChannel s ch = (materialFeed s m).getD 0 := by
  simp only [feedOfChannel, channelFeed, h, Option.bind_some]

/-- Whether an end loops does not depend on the use counts. -/
theorem loopsAt_congr (hc : t.fixed.clip = s.fixed.clip) (hf : t.feeds = s.feeds) (m : Option Material) :
    loopsAt t m = loopsAt s m := by
  have hloops : ∀ (u : State) (id : Nat) (e : WindowEnd), loopsAt u (some (.clip id)) e =
      ((u.fixed.clip id).map fun c => (match e with
        | .upper => c.upperBound (u.feed c.feed)
        | .lower => c.lowerBound (u.feed c.feed)) && c.endMode == .loop).getD false := by
    intro u id e
    have hclip : u.fixed.clip id = (SMap.find u.clips id).map fun c => { c with useCount := 0 } := rfl
    simp only [loopsAt, boundClip, materialClip, hclip]
    cases SMap.find u.clips id with
    | none => rfl
    | some c =>
      have hupper : ({ c with useCount := 0 } : Clip).upperBound (u.feed c.feed) = c.upperBound (u.feed c.feed) := rfl
      have hlower : ({ c with useCount := 0 } : Clip).lowerBound (u.feed c.feed) = c.lowerBound (u.feed c.feed) := rfl
      cases e
      · cases hb : c.upperBound (u.feed c.feed) <;> simp [hb, hupper]
      · cases hb : c.lowerBound (u.feed c.feed) <;> simp [hb, hlower]
  funext e
  match m with
  | none => rfl
  | some (.feed f) => rfl
  | some (.clip id) => simp only [hloops, hc, State.feed_congr hf]

theorem lookahead_congr (hc : t.fixed.clip = s.fixed.clip) (hf : t.feeds = s.feeds) (x : Channel) (w : Window)
    (sel : Selection) : lookahead t x w sel = lookahead s x w sel := by
  simp only [lookahead, loopsAt_congr hc hf]

theorem tickCache_congr {c d : State} (hf : d.feeds = c.feeds) (hc : d.cache = c.cache) (t : State) (w : Window) :
    tickCache ch t w d = tickCache ch t w c := by
  unfold tickCache
  split
  · exact hc
  · split
    · exact lookedUp_reads _ _ _ hf hc
    · exact hc

/-! ## A channel's lookups (R94, R96) -/

theorem permit_eq_decide (x : Channel) : x.permit = decide (mayFetch x) :=
  Bool.eq_iff_iff.2 ((permit_iff x).trans (decide_eq_true_iff (p := mayFetch x)).symm)

/-- Of its channel the lookups of a selection's feed change the cue wait, and the damaged mark when the permit holds
and they name the selected frame and it is DAMAGED. -/
theorem sendLookups_chan {sel : Selection} (l : List Nat) (s : State) (hsel : (s.chan ch).selection = some sel) :
    (sendLookups ch sel.feed l s).chan ch = { s.chan ch with
      cueWait := ((sendLookups ch sel.feed l s).chan ch).cueWait
      damaged := (s.chan ch).damaged ||
        ((s.chan ch).permit && decide (sel.frame ∈ l ∧ namesDamaged s ch sel)) } := by
  cases hp : (s.chan ch).permit with
  | false =>
    rw [sendLookups_none ch _ l s hp]
    simp only [Bool.false_and, Bool.or_false]
  | true =>
    induction l generalizing s with
    | nil => simp [sendLookups]
    | cons n l ih =>
      have hone := sendLookup_chan ch sel.feed n s
      have hsame : (∃ sel', (s.chan ch).selection = some sel' ∧ sel'.feed = sel.feed ∧ sel'.frame = n) ↔
          sel.frame = n := by
        refine ⟨?_, fun h => ⟨sel, hsel, rfl, h⟩⟩
        rintro ⟨sel', hsel', -, h⟩
        rwa [Option.some.inj (hsel.symm.trans hsel')]
      simp only [hsame] at hone
      obtain ⟨-, hfeeds, hpermit⟩ := sendLookup_keeps ch sel.feed n s
      rw [sendLookups_cons ch hp]
      generalize sendLookup ch sel.feed n s = v at hone hfeeds hpermit
      have hrest := ih v ((congrArg Channel.selection hone :).trans hsel) ((hpermit ch).trans hp)
      have hdamaged : namesDamaged v ch sel ↔ namesDamaged s ch sel :=
        lookup_damaged_congr ch sel.feed hfeeds ch sel.frame
      have hown : (v.chan ch).damaged = ((s.chan ch).damaged ||
          decide ((lookup ch sel.feed n s).2 = .notAvailable .damaged ∧ sel.frame = n)) :=
        (congrArg Channel.damaged hone :)
      have hflag : ((v.chan ch).damaged || (true && decide (sel.frame ∈ l ∧ namesDamaged v ch sel))) =
          ((s.chan ch).damaged || (true && decide (sel.frame ∈ n :: l ∧ namesDamaged s ch sel))) := by
        rw [hown, Bool.true_and, Bool.true_and, Bool.or_assoc, ← Bool.decide_or]
        refine congrArg _ (decide_eq_decide.2 ⟨?_, ?_⟩)
        · rintro (⟨hd, rfl⟩ | ⟨hmem, hd⟩)
          · exact ⟨List.mem_cons_self, hd⟩
          · exact ⟨List.mem_cons_of_mem n hmem, hdamaged.1 hd⟩
        · rintro ⟨hmem, hd⟩
          rcases List.mem_cons.1 hmem with rfl | hmem
          · exact .inl ⟨hd, rfl⟩
          · exact .inr ⟨hmem, hdamaged.2 hd⟩
      rw [hrest, hflag, hone]

/-- With no cue wait the lookups raise nothing (R80). -/
theorem sendLookups_quiet (f : FeedId) (l : List Nat) (s : State) (h : (s.chan ch).cueWait = none) :
    ((sendLookups ch f l s).chan ch).cueWait = none ∧ (sendLookups ch f l s).cells = s.cells := by
  refine List.foldlRecOn l _
    (motive := fun t : State => (t.chan ch).cueWait = none ∧ t.cells = s.cells) ⟨h, rfl⟩ fun t ht n _ => ?_
  split
  · obtain ⟨hwait, hcells⟩ := sendLookup_cueWait ch f n t ht.1
    exact ⟨hwait, hcells.trans ht.2⟩
  · exact ht

/-! ## A derivation's followers (R108, R109, R113) -/

/-- A derivation leaves the cue lists, and of the cells those of WINDOW_LOST alone change. -/
theorem derive_keeps (m : ChanId) (s : State) : (derive m s).lists = s.lists ∧
    (derive m s).cells.length = s.cells.length ∧
    ∀ i, (∀ d : ChanId, i ≠ 24 + d.val) → (derive m s).cell i = s.cell i := by
  refine List.foldlRecOn (s.gangs.get m) _ (motive := fun t : State => t.lists = s.lists ∧
    t.cells.length = s.cells.length ∧ ∀ i, (∀ d : ChanId, i ≠ 24 + d.val) → t.cell i = s.cell i)
    ⟨rfl, rfl, fun _ _ => rfl⟩ fun t ht g _ => ?_
  obtain ⟨hlists, hlength, hcell⟩ := ht
  unfold deriveSlave
  split
  · have hlost := loseSlave_lostSlaves m g t
    exact ⟨hlost.lists.trans hlists, hlost.length.trans hlength, fun i hi => (hlost.cell i hi).trans (hcell i hi)⟩
  · split <;> exact ⟨hlists, hlength, hcell⟩

/-- The followers of a master, seen from another start state that agrees on what a derivation reads. -/
theorem GangFollows.since {m : ChanId} {gs : List GangSlave} {after : GangSlave → Window → Channel → Channel}
    (h : GangFollows s t m gs w after) (hf : u.feeds = s.feeds) (hg : u.gangs = s.gangs)
    (hl : u.cells.length = s.cells.length) (hc : ∀ g ∈ gs, u.chan g.ch = s.chan g.ch) :
    GangFollows u t m gs w after := by
  have hfeed : ∀ f, u.feed f = s.feed f := State.feed_congr hf
  refine ⟨?_, fun k hk => ?_, fun g hmem r hr => ?_, fun g hmem hr => ?_⟩
  · simp only [hfeed]
    exact h.record
  · rw [hg]
    exact h.others k hk
  · rw [hc g hmem]
    exact h.placed g hmem r (by rwa [hfeed] at hr)
  · obtain ⟨hlost, htold⟩ := h.lost g hmem (by rwa [hfeed] at hr)
    rw [hc g hmem]
    refine ⟨hlost, fun hlen => ?_⟩
    rw [hfeed]
    exact htold (hl.symm.trans hlen)

/-- The followers of a master, seen at a later state that has kept them and the master's place and speeds. -/
theorem GangFollows.until {m : ChanId} {gs : List GangSlave} (h : GangFollows s t m gs w (fun _ _ y => y))
    (hg : u.gangs = t.gangs) (hc : ∀ g ∈ gs, u.chan g.ch = t.chan g.ch)
    (hm : (u.chan m).pos = (t.chan m).pos ∧ (u.chan m).speed = (t.chan m).speed ∧
      (u.chan m).target = (t.chan m).target)
    (hcell : ∀ d : ChanId, u.cell (24 + d.val) = t.cell (24 + d.val)) : GangFollows s u m gs w (fun _ _ y => y) := by
  obtain ⟨hpos, hspeed, htarget⟩ := hm
  refine ⟨?_, fun k hk => ?_, fun g hmem r hr => ?_, fun g hmem hr => ?_⟩
  · rw [hg]
    exact h.record
  · rw [hg]
    exact h.others k hk
  · refine (hc g hmem).trans ((h.placed g hmem r hr).trans ?_)
    simp only [derivedSlave, hpos, hspeed, htarget]
  · obtain ⟨hlost, htold⟩ := h.lost g hmem hr
    refine ⟨(hc g hmem).trans hlost, fun hlen => ?_⟩
    rw [hcell]
    exact htold hlen

/-! ## Selection, derivation, lookups (R68 to R70) -/

/-- From `s` to `t` channel `ch` has selected at its position in the window `w`, its slaves have been derived from it,
and it has sent its lookups. -/
structure Selected (ch : ChanId) (w : Window) (s t : State) : Prop where
  chan : let sel := pickedAt (s.chan ch) (feedOfChannel s ch) w (s.chan ch).pos
    t.chan ch = { s.chan ch with
      selection := some sel, damaged := decide (mayFetch (s.chan ch) ∧ namesDamaged s ch sel)
      cueWait := (t.chan ch).cueWait }
  follows : GangFollows s t ch (s.gangs.get ch) w (fun _ _ y => y)
  lists : t.lists = s.lists
  cell : ∀ i, i ≠ ch.val → (∀ d : ChanId, i ≠ 24 + d.val) → t.cell i = s.cell i
  cache : t.cache = tickCache ch t w { s with cache := lostPins s (windowless s (s.gangs.get ch)) s.cache }
  quiet : (s.chan ch).cueWait = none →
    (t.chan ch).cueWait = none ∧ ∀ i, (∀ d : ChanId, i ≠ 24 + d.val) → t.cell i = s.cell i

theorem selectAndFetch_selected (hw : (s.chan ch).window = some w)
    (hn : (ch :: (s.gangs.get ch).map (·.ch)).Nodup) : Selected ch w s (selectAndFetch ch w s) := by
  let sel := pickedAt (s.chan ch) (feedOfChannel s ch) w (s.chan ch).pos
  let l := sel.frames ++ lookahead s (s.chan ch) w sel
  let v := s.setChan ch { s.chan ch with selection := some sel, damaged := false }
  have ht : selectAndFetch ch w s = sendLookups ch sel.feed l (derive ch v) := rfl
  have hv : v.chan ch = { s.chan ch with selection := some sel, damaged := false } :=
    (State.chan_setChan ..).trans (if_pos rfl)
  have hne : ∀ g ∈ s.gangs.get ch, g.ch ≠ ch := fun g hg he =>
    (List.nodup_cons.1 hn).1 (List.mem_map.2 ⟨g, hg, he⟩)
  obtain ⟨hfollows, hothers, hfeeds, hcache⟩ := derive_does v ch w (by rw [hv]; exact hw) hn
  obtain ⟨hlists, -, hcell⟩ := derive_keeps ch v
  have hmaster : (derive ch v).chan ch = { s.chan ch with selection := some sel, damaged := false } :=
    (hothers ch hne).trans hv
  have halone := sendLookups_alone ch sel.feed l (derive ch v)
  have hchan := sendLookups_chan l (derive ch v) (by rw [hmaster])
  have hdamaged : namesDamaged (derive ch v) ch sel ↔ namesDamaged s ch sel :=
    lookup_damaged_congr ch sel.feed (s := s) hfeeds ch sel.frame
  have hmem : sel.frame ∈ l := List.mem_append_left _ (List.mem_cons_self ..)
  simp only [hmaster, hdamaged, hmem, true_and, Bool.false_or] at hchan
  rw [← ht] at hchan halone
  have hfixed := ((TickFrame.refl ch s).selectAndFetch w).fixed
  have hmark : (({ s.chan ch with selection := some sel, damaged := false } : Channel).permit &&
      decide (namesDamaged s ch sel)) = decide (mayFetch (s.chan ch) ∧ namesDamaged s ch sel) := by
    rw [permit_eq_decide, ← Bool.decide_and]
  rw [hmark] at hchan
  refine ⟨hchan, ?_, halone.lists.trans hlists, fun i hi hd => ?_, ?_, fun hwait => ?_⟩
  · refine GangFollows.until (hfollows.since rfl rfl rfl fun g hg => ?_) halone.gangs
      (fun g hg => halone.other g.ch (hne g hg)) ⟨?_, ?_, ?_⟩ fun d => halone.cell _ ?_
    · rw [State.chan_setChan, if_neg (hne g hg)]
    · rw [hchan, hmaster]
    · rw [hchan, hmaster]
    · rw [hchan, hmaster]
    · simp only [List.mem_singleton]
      omega
  · exact (halone.cell i (by simpa using hi)).trans (hcell i hd)
  · have hpins : (derive ch v).cache = lostPins s (windowless s (s.gangs.get ch)) s.cache := by
      refine hcache.trans (lostPins_congr (fun g hg => ?_) _)
      rw [State.chan_setChan, if_neg (hne g (List.mem_of_mem_filter hg))]
    have hlist : sel.frame :: (sel.partner.toList ++ lookahead (selectAndFetch ch w s)
        ((selectAndFetch ch w s).chan ch) w sel) = l := by
      rw [lookahead_congr (congrArg Fixed.clip hfixed) (congrArg Fixed.feeds hfixed), hchan]
      rfl
    have hsel : ((selectAndFetch ch w s).chan ch).selection = some sel := by rw [hchan]
    have hperm : mayFetch ((selectAndFetch ch w s).chan ch) ↔ mayFetch ((derive ch v).chan ch) := by
      rw [hchan, hmaster]
    simp only [tickCache, hsel, hlist]
    by_cases hp : ((derive ch v).chan ch).permit = true
    · rw [if_pos (hperm.2 ((permit_iff _).1 hp)), ht, sendLookups_cache ch _ _ _ hp]
      exact lookedUp_reads _ _ _ hfeeds hpins
    · rw [if_neg fun h => hp ((permit_iff _).2 (hperm.1 h)), ht,
        sendLookups_none ch _ _ _ (Bool.eq_false_iff.2 hp), hpins]
  · obtain ⟨hnone, hcells⟩ := sendLookups_quiet sel.feed l (derive ch v) (by rw [hmaster]; exact hwait)
    rw [← ht] at hnone hcells
    exact ⟨hnone, fun i hd => (congrArg (fun cs : List Cell => cs.getD i Cell.clear) hcells).trans (hcell i hd)⟩

end Sys2Proof.Machine
end

section
/-!
PROOFS. A tick from its presentation to its bound stage (R51 to R60).
-/

-- Proofs checked in turn: side by side they need more threads than the memory limit of check.sh has room for.
set_option Elab.async false

namespace Sys2Proof.Machine

variable {s t u : State} {ch : ChanId} {w : Window}

/-! ## Target, ramp and raw step (R51, R56 to R59) -/

/-- The stages before the bound stage change S, T_s and the accumulator. -/
theorem rawStep_eq (curve : List Int) (x : Channel) (head : Nat) : rawStep curve x head =
    ({ x with speed := tickSpeed curve x, target := tickTarget curve x, jog := 0 }, tickStep curve x head) := by
  cases h : x.state <;> simp only [rawStep, tickSpeed, tickTarget, tickStep, h]

theorem checkFlags_eq (x : Channel) (feed : Feed) : x.checkFlags feed = { x with
    atLive := x.atLive && decide (feed.head.getD 0 ≤ x.pos / 1024)
    atTail := x.atTail && decide (x.pos / 1024 ≤ feed.tail) } := by
  have hnot : ∀ a b : Nat, (!decide (a < b)) = decide (b ≤ a) := fun a b => by
    rw [Bool.eq_iff_iff]
    simp
  simp only [Channel.checkFlags, atLiveAfter, atTailAfter, hnot]

/-! ## The state a tick presents from, and the state its bound stage begins in -/

/-- The state as the presentation of a tick leaves it. -/
def shownState (ch : ChanId) (s : State) : State := presentActive ch (beforeTick ch s)

theorem shownState_alone (ch : ChanId) (s : State) : Alone ch [12 + ch.val, 28 + ch.val] s (shownState ch s) :=
  ((beforeTick_alone ch s).mono (by simp)).trans ((presentActive_alone ch _).mono (by simp))

theorem shownState_chan (ch : ChanId) (s : State) : (shownState ch s).chan ch = { s.chan ch with
    preload := ((beforeTick ch s).chan ch).preload
    lastRec := ((shownState ch s).chan ch).lastRec, outData := ((shownState ch s).chan ch).outData } := by
  have hshown := presentActive_chan ch (beforeTick ch s)
  rw [beforeTick_chan] at hshown
  exact hshown

/-- The state the bound stage of a tick begins in: S and T_s as the ramp left them, and the window `w`. -/
def boundStart (ch : ChanId) (w : Window) (s : State) : State :=
  (shownState ch s).setChan ch { (shownState ch s).chan ch with
    speed := tickSpeed s.curve (s.chan ch), target := tickTarget s.curve (s.chan ch), jog := 0, window := some w }

theorem boundStart_chan (ch : ChanId) (w : Window) (s : State) : (boundStart ch w s).chan ch =
    { (shownState ch s).chan ch with
      speed := tickSpeed s.curve (s.chan ch), target := tickTarget s.curve (s.chan ch), jog := 0, window := some w } :=
  (State.chan_setChan ..).trans (if_pos rfl)

theorem boundStart_alone (ch : ChanId) (w : Window) (s : State) :
    Alone ch [12 + ch.val, 28 + ch.val] s (boundStart ch w s) := (shownState_alone ch s).setChan

/-- The Q that a tick of a channel with material `m` hands the bound stage. -/
def boundStep (ch : ChanId) (m : Material) (s : State) : Int :=
  tickStep s.curve (s.chan ch) ((s.feed ((materialFeed s m).getD 0)).head.getD 0)

/-! ## The tick of a channel that is neither IDLE nor SLAVE (R51) -/

section Active

variable (he : s.engaged = .engaged) (hidle : (s.chan ch).state ≠ .idle) (hslave : (s.chan ch).state ≠ .slave)
include he hidle hslave

theorem ticked_active : ticked ch s = stepActive ch (shownState ch s) := by
  have hb : (beforeTick ch s).engaged = .engaged := (beforeTick_alone ch s).engaged.trans he
  have hstate : ((beforeTick ch s).chan ch).state = (s.chan ch).state :=
    (congrArg Channel.state (beforeTick_chan ch s) :)
  unfold ticked presentAndStep
  simp only [hb, hstate]
  rfl

/-- The channel ends when its material gives no window (R54). -/
theorem ticked_lost (hw : (s.chan ch).material.bind (materialWindow s) = none) :
    ticked ch s = windowLost ch (shownState ch s) := by
  have hshown := shownState_alone ch s
  have hmaterial : ((shownState ch s).chan ch).material = (s.chan ch).material :=
    (congrArg Channel.material (shownState_chan ch s) :)
  have hwindow : materialWindow (shownState ch s) = materialWindow s :=
    funext fun m => materialWindow_congr hshown.clips hshown.feeds m
  rw [ticked_active he hidle hslave]
  simp only [stepActive, hmaterial, hwindow, hw]

variable {m : Material} (hm : (s.chan ch).material = some m)
include hm

/-- The bound stage, then the flags, the selection, the derivation and the lookups, unless the channel has ended. -/
theorem ticked_settles (hw : materialWindow s m = some w) :
    let u := settle ch w (boundStep ch m s) (boundStart ch w s)
    ((u.chan ch).window = none → ticked ch s = u) ∧
      ∀ w', (u.chan ch).window = some w' → ticked ch s =
        selectAndFetch ch w' (u.setChan ch ((u.chan ch).checkFlags (u.feed (feedOfChannel u ch)))) := by
  have hshown := shownState_alone ch s
  have hmaterial : ((shownState ch s).chan ch).material = some m :=
    (congrArg Channel.material (shownState_chan ch s) :).trans hm
  have hbind : ((shownState ch s).chan ch).material.bind (materialWindow (shownState ch s)) = some w := by
    rw [hmaterial]
    exact (materialWindow_congr hshown.clips hshown.feeds m).trans hw
  have hfeed : feedOfChannel (shownState ch s) ch = (materialFeed s m).getD 0 := by
    rw [feedOfChannel_of_material hmaterial, materialFeed_congr hshown.clips]
  have hraw : rawStep (shownState ch s).curve ((shownState ch s).chan ch)
      (((shownState ch s).feed (feedOfChannel (shownState ch s) ch)).head.getD 0) =
      ({ (shownState ch s).chan ch with
          speed := tickSpeed s.curve (s.chan ch), target := tickTarget s.curve (s.chan ch), jog := 0 },
        boundStep ch m s) := by
    rw [rawStep_eq, hshown.curve, hshown.feed, hfeed, shownState_chan]
    rfl
  intro u
  have hstep : ticked ch s = match (u.chan ch).window with
      | none => u
      | some w' => selectAndFetch ch w' (u.setChan ch ((u.chan ch).checkFlags (u.feed (feedOfChannel u ch)))) := by
    rw [ticked_active he hidle hslave]
    simp only [stepActive, hbind, hraw]
    rfl
  refine ⟨fun h => ?_, fun w' h => ?_⟩
  · rw [hstep, h]
  · rw [hstep, h]

end Active

end Sys2Proof.Machine
end

section
/-!
PROOFS. A tick from its bound stage to its lookups (R67 to R70).
-/

-- Proofs checked in turn: side by side they need more threads than the memory limit of check.sh has room for.
set_option Elab.async false

namespace Sys2Proof.Machine

variable {s t u : State} {ch : ChanId} {w : Window}

/-! ## From the bound stage to the end of the tick (R67 to R70) -/

/-- From `u`, as the bound stage left it, to `t` the flags of channel `ch` were checked, the channel has selected in its
window `w`, its slaves have been derived from it, and it has sent its lookups. -/
structure StepEnded (ch : ChanId) (w : Window) (u t : State) : Prop where
  chan : let y := u.chan ch
    let feed := feedOfChannel u ch
    let sel := pickedAt y feed w y.pos
    t.chan ch = { y with
      atLive := y.atLive && decide ((u.feed feed).head.getD 0 ≤ y.pos / 1024)
      atTail := y.atTail && decide (y.pos / 1024 ≤ (u.feed feed).tail)
      selection := some sel, damaged := decide (mayFetch (t.chan ch) ∧ namesDamaged u ch sel)
      cueWait := (t.chan ch).cueWait }
  follows : GangFollows u t ch (u.gangs.get ch) w (fun _ _ z => z)
  cache : t.cache = tickCache ch t w { u with cache := lostPins u (windowless u (u.gangs.get ch)) u.cache }
  lists : t.lists = u.lists
  cell : ∀ i, i ≠ ch.val → (∀ d : ChanId, i ≠ 24 + d.val) → t.cell i = u.cell i

theorem StepEnded.withPanel (h : StepEnded ch w u t) (p : Panel) : StepEnded ch w u { t with panel := p } :=
  ⟨h.chan, ⟨h.follows.record, h.follows.others, h.follows.placed, h.follows.lost⟩, h.cache, h.lists, h.cell⟩

theorem selectAndFetch_ends (hw : (u.chan ch).window = some w) (hn : (ch :: (u.gangs.get ch).map (·.ch)).Nodup) :
    StepEnded ch w u
      (selectAndFetch ch w (u.setChan ch ((u.chan ch).checkFlags (u.feed (feedOfChannel u ch))))) := by
  generalize hv : u.setChan ch ((u.chan ch).checkFlags (u.feed (feedOfChannel u ch))) = v
  have hchan : v.chan ch = (u.chan ch).checkFlags (u.feed (feedOfChannel u ch)) := by
    rw [← hv, State.chan_setChan, if_pos rfl]
  have hothers : ∀ d, d ≠ ch → v.chan d = u.chan d := fun d hd => by
    rw [← hv, State.chan_setChan, if_neg hd]
  have hfeed : feedOfChannel v ch = feedOfChannel u ch := by
    rw [← hv]
    exact feedOfChannel_setChan rfl
  have hgangs : v.gangs = u.gangs := by rw [← hv]; rfl
  have hfeeds : v.feeds = u.feeds := by rw [← hv]; rfl
  have hcells : v.cells = u.cells := by rw [← hv]; rfl
  have hcache : v.cache = u.cache := by rw [← hv]; rfl
  have hlists : v.lists = u.lists := by rw [← hv]; rfl
  have hne : ∀ g ∈ u.gangs.get ch, g.ch ≠ ch := fun g hg he =>
    (List.nodup_cons.1 hn).1 (List.mem_map.2 ⟨g, hg, he⟩)
  have hsel := selectAndFetch_selected (s := v) (by rw [hchan]; exact hw) (by rw [hgangs]; exact hn)
  generalize selectAndFetch ch w v = t at hsel
  obtain ⟨hown, hfollows, hlist, hcell, htick, -⟩ := hsel
  rw [hgangs] at hfollows htick
  have hpicked : pickedAt (v.chan ch) (feedOfChannel v ch) w (v.chan ch).pos =
      pickedAt (u.chan ch) (feedOfChannel u ch) w (u.chan ch).pos := by rw [hchan, hfeed]; rfl
  have hdamaged : ∀ sel, namesDamaged v ch sel ↔ namesDamaged u ch sel := fun sel =>
    lookup_damaged_congr ch sel.feed hfeeds ch sel.frame
  have hfetch : mayFetch (t.chan ch) ↔ mayFetch (v.chan ch) := by rw [hown]
  refine ⟨?_, hfollows.since hfeeds.symm hgangs.symm (by rw [hcells]) fun g hg => (hothers _ (hne g hg)).symm, ?_,
    hlist.trans hlists, fun i hi hd => ?_⟩
  · simp only [hpicked, hdamaged, ← hfetch] at hown
    rw [hchan, checkFlags_eq] at hown
    exact hown
  · rw [htick]
    refine tickCache_congr ?_ ?_ t w
    · exact hfeeds
    show lostPins v (windowless v (u.gangs.get ch)) v.cache = lostPins u (windowless u (u.gangs.get ch)) u.cache
    have hwindowless : windowless v (u.gangs.get ch) = windowless u (u.gangs.get ch) := by
      simp only [windowless, State.feed_congr hfeeds]
    rw [hwindowless, hcache]
    exact lostPins_congr (fun g hg => by rw [hothers _ (hne g (List.mem_of_mem_filter hg))]) _
  · rw [hcell i hi hd, State.cell, hcells]
    rfl

/-- A tick of a channel with a window ends in the bound stage, or goes on from it to its lookups. -/
theorem ticked_ends {m : Material} (he : s.engaged = .engaged) (hn : GangsApart s)
    (hidle : (s.chan ch).state ≠ .idle) (hslave : (s.chan ch).state ≠ .slave)
    (hm : (s.chan ch).material = some m) (hw : materialWindow s m = some w) :
    let u := settle ch w (boundStep ch m s) (boundStart ch w s)
    ((u.chan ch).window = none → ticked ch s = u) ∧
      ∀ w', (u.chan ch).window = some w' → StepEnded ch w' u (ticked ch s) := by
  intro u
  obtain ⟨hended, hsettled⟩ := ticked_settles he hidle hslave hm hw
  have hframe : TickFrame ch s u :=
    ((TickFrame.refl ch s).alone ((boundStart_alone ch w s))).settle w (boundStep ch m s)
  refine ⟨hended, fun w' hw' => ?_⟩
  rw [hsettled w' hw']
  exact selectAndFetch_ends hw' (hframe.apart (hn ch))

end Sys2Proof.Machine
end

section
/-!
PROOFS. The bound stage as the claims state it (O53).
-/

-- Proofs checked in turn: side by side they need more threads than the memory limit of check.sh has room for.
set_option Elab.async false

namespace Sys2Proof.Machine

variable {s : State} {ch : ChanId} {w : Window} {q : Int} {e : WindowEnd} {c : Clip}

/-! ## The NEXT end of the bound stage (R63, R125, R126) -/

theorem nextReverse_iff (speed : Int) (e : WindowEnd) :
    nextReverse speed e = true ↔ speed < 0 ∨ (speed = 0 ∧ e = .lower) := by
  unfold nextReverse
  split
  · simp only [Bool.false_eq_true, false_iff]
    omega
  · split
    · simp [*]
    · cases e <;> simp <;> omega

/-- The entry frame of a NEXT advance (R63). -/
theorem entryIn_next (d : Clip) (x : Feed) (speed : Int) (e : WindowEnd) (w : Window) :
    d.entryIn x (nextReverse speed e) w = max w.lo (min w.hi
      (if speed < 0 ∨ (speed = 0 ∧ e = .lower) then d.entry x true else d.markIn)) := by
  unfold Clip.entryIn clampNat
  by_cases h : speed < 0 ∨ (speed = 0 ∧ e = .lower)
  · rw [(nextReverse_iff speed e).2 h, if_pos h]
  · rw [Bool.eq_false_iff.2 fun hr => h ((nextReverse_iff speed e).1 hr), if_neg h]
    rfl

/-- An entry that a search passes over: its clip is EXPIRED or has lost its mark-in (R125). -/
def State.passesOver (s : State) (p : CueEntry) : Prop := ∃ y, SMap.find s.clips p.clip = some y ∧
  (y.state = .expired ∨ y.markIn < (s.feed y.feed).tail)

theorem searchList_some {passed rest : List CueEntry} {en : CueEntry} {d : Clip}
    (hpassed : ∀ p ∈ passed, s.passesOver p) (hd : takeable s en = some d) :
    searchList s (passed ++ en :: rest) = (passed, some (en, d, rest)) := by
  induction passed with
  | nil => simp only [List.nil_append, searchList, hd]
  | cons p passed ih =>
    obtain ⟨hp, hrest⟩ := List.forall_mem_cons.1 hpassed
    simp only [List.cons_append, searchList, takeable_none hp, ih hrest]

/-- A search that finds an entry advances to its clip (R63, R125). -/
theorem nextEnd_takes {passed rest : List CueEntry} {en : CueEntry} {d : Clip}
    (hl : s.lists.get ch = passed ++ en :: rest) (hpassed : ∀ p ∈ passed, s.passesOver p)
    (hd : takeable s en = some d) : nextEnd ch w e s = advanceNext ch e passed en d rest s := by
  simp only [nextEnd, hl, searchList_some hpassed hd]

/-- An advance reaches no channel but its own and the slaves of its gang. -/
theorem advanceNext_others {passed rest : List CueEntry} {en : CueEntry} {d : Clip} (angles : List Angle) {k : ChanId}
    (hk : k ≠ ch) (hg : ∀ g ∈ assigned (s.gangs.get ch) angles, g.ch ≠ k) :
    (advanceNext ch e passed en d rest s).chan k = s.chan k := by
  refine ((TickFrame.refl ch s).advanceNext e passed en d rest).others k ?_
  rintro (rfl | ⟨g, hmem, rfl⟩)
  · exact hk rfl
  · have hassigned : g.ch ∈ (assigned (s.gangs.get ch) angles).map (·.ch) := by
      rw [assigned_ch]
      exact List.mem_map_of_mem hmem
    obtain ⟨g', hg', he⟩ := List.mem_map.1 hassigned
    exact hg g' hg' he

/-- The list that a NEXT advance searches is left at the entries after the one taken, whether or not the new window is
empty (R125). -/
theorem advanceNext_lists {passed rest : List CueEntry} {en : CueEntry} {d : Clip}
    (hn : (ch :: (s.gangs.get ch).map (·.ch)).Nodup) (hd : SMap.find s.clips en.clip = some d) :
    (advanceNext ch e passed en d rest s).lists = s.lists.set ch rest := by
  cases hw : d.window (s.feed d.feed) with
  | none =>
    obtain ⟨-, -, -, -, -, -, hlists⟩ := advanceNext_lost (e := e) hn hd passed rest hw
    exact hlists
  | some w' =>
    obtain ⟨-, -, -, -, -, hlists⟩ := advanceNext_taken (e := e) hn hd passed rest hw
    exact hlists

/-- A channel held at the head goes LIVE from PLAYING and SHUTTLE while follow-live is on (R65). -/
theorem heldState_eq (x : Channel) : x.heldState =
    if x.opts.followLive = true ∧ (x.state = .playing ∨ x.state = .shuttle) then .live else x.state := by
  unfold Channel.heldState
  simp only [Bool.and_eq_true, Bool.or_eq_true, beq_iff_eq]

/-- Settles O53: the bound stage by ends and states, then the tick from the raw step through the bound stage to the
lookups. -/
theorem boundStageEndsWrapsOrHolds : Obligations.BoundStageEndsWrapsOrHolds := by
  refine ⟨fun s ch w q => ?_, fun s ch m w he hn hidle hslave hm hw => ?_⟩
  · refine ⟨fun _ _ => rfl, fun id c hc => ⟨boundClip_upper_iff hc, boundClip_lower_iff hc⟩, fun hlo hhi => ?_,
      fun e hold ho => ?_⟩
    · exact ⟨settle_inside_off hlo hhi, settle_inside_set hlo hhi, settle_inside_raises hlo hhi⟩
    · intro dir stopped
      have hdir : dir = e.direction := by cases e <;> rfl
      rw [hdir]
      refine ⟨fun id c hm hb => ⟨settle_stops ho hb hm, settle_wraps ho hb, settle_holds ho hb, fun hr hmode => ?_⟩,
        fun hb => ⟨by simpa only [heldState_eq, feedOfChannel] using settle_liveBound ho hb, settle_tailBound ho hb⟩⟩
      rw [settle_next ho hb hr hmode]
      refine ⟨fun passed en rest d hn hl hpassed hd hs ht => ?_, fun hall =>
        nextEnd_stops (fun p hp => takeable_none (hall p hp)) (overrun_of_overruns ho).2 hm⟩
      rw [nextEnd_takes hl hpassed (takeable_some hd hs ht)]
      refine ⟨advanceNext_lists (hn ch) hd, fun k => advanceNext_others d.angles, fun hw' => ?_, fun w' hw' => ?_⟩
      · obtain ⟨hstate, hmaterial, hwindow, hgangs, hslaves, hcells, -⟩ :=
          advanceNext_lost (e := e) (hn ch) hd passed rest hw'
        exact ⟨hstate, hmaterial, hwindow, hgangs, hslaves, hcells⟩
      · obtain ⟨hchan, hcells, hlink, hgangs, hslaves, -⟩ :=
          advanceNext_taken (e := e) (hn ch) hd passed rest hw'
        rw [entryIn_next] at hchan hcells hlink
        exact ⟨hchan, hcells, hlink, hgangs, hslaves⟩
  · obtain ⟨hended, hgoesOn⟩ := ticked_ends he hn hidle hslave hm hw
    refine ⟨_, exec_outputTick ch s, fun hnone => ?_, fun w' hw' => ?_⟩
    · exact congrArg (fun t : State => { t with panel := (tickPanel ch (ticked ch s)).panel }) (hended hnone)
    · obtain ⟨hchan, hfollows, hcache, hlists, hcell⟩ :=
        (hgoesOn w' hw').withPanel (tickPanel ch (ticked ch s)).panel
      refine ⟨hchan, hfollows, hcache, hlists, fun i hi => hcell i ?_ fun d => ?_⟩ <;> omega

end Sys2Proof.Machine
end

section
/-!
PROOFS. The window of a material, and a position settled inside it (R52, R53, R60, R65).
-/

-- Proofs checked in turn: side by side they need more threads than the memory limit of check.sh has room for.
set_option Elab.async false

namespace Sys2Proof.Machine

variable {s t u : State} {ch : ChanId} {w : Window} {q : Int}

/-! ## The window of a material (R52, R53) -/

theorem Window.make_eq {lo hi : Nat} (h : Window.make lo hi = some w) : w = ⟨lo, hi⟩ ∧ lo ≤ hi := by
  unfold Window.make at h
  split at h
  · exact ⟨(Option.some.inj h).symm, ‹_›⟩
  · cases h

theorem Feed.range_eq {x : Feed} (h : x.range = some w) : x.head = some w.hi ∧ w.lo = x.tail ∧ w.lo ≤ w.hi := by
  unfold Feed.range at h
  split at h
  · cases h
  · rename_i n hn
    split at h
    · obtain rfl := Option.some.inj h
      exact ⟨hn, rfl, ‹_›⟩
    · cases h

theorem Clip.window_le {c : Clip} {x : Feed} (h : c.window x = some w) : w.lo ≤ w.hi := by
  unfold Clip.window at h
  split at h
  · cases h
  · obtain ⟨rfl, hle⟩ := Window.make_eq h
    exact hle

/-- A clip window without an upper clip bound ends at the head (R52, R53). -/
theorem Clip.window_hi {c : Clip} {x : Feed} (h : c.window x = some w) (hb : c.upperBound x = false) :
    x.head = some w.hi := by
  unfold Clip.window at h
  split at h
  · cases h
  · rename_i n hn
    obtain ⟨rfl, -⟩ := Window.make_eq h
    cases ho : c.markOut with
    | none => exact hn
    | some o =>
      have habove : n < o := by simpa [Clip.upperBound, ho, hn] using hb
      simp only [hn, Nat.min_eq_right habove.le]

theorem materialWindow_le {m : Material} (h : materialWindow s m = some w) : w.lo ≤ w.hi := by
  cases m with
  | feed f => exact (Feed.range_eq h).2.2
  | clip id =>
    unfold materialWindow at h
    dsimp only at h
    split at h
    · cases h
    · exact Clip.window_le h

/-- The upper end of a window that is no clip bound is the head (R53). -/
theorem head_of_liveBound {m : Material} (h : materialWindow s m = some w)
    (hb : boundClip s (some m) .upper = none) : (s.feed ((materialFeed s m).getD 0)).head = some w.hi := by
  cases m with
  | feed f => exact (Feed.range_eq h).1
  | clip id =>
    unfold materialWindow at h
    dsimp only at h
    split at h
    · cases h
    · rename_i c hc
      simp only [boundClip, materialClip, hc] at hb
      simp only [materialFeed, hc, Option.map_some, Option.getD_some]
      exact Clip.window_hi h (by simpa using hb)

/-! ## A tick that overruns no end (R60, R65) -/

/-- A channel in LIVE whose window ends at a live bound (R65). -/
def State.onLive (s : State) (ch : ChanId) : Prop :=
  (s.chan ch).state = .live ∧ boundClip s (s.chan ch).material .upper = none

/-- From `s` to `t` the position `q` inside the window `w` was settled at channel `ch`. -/
structure SettledInside (ch : ChanId) (w : Window) (q : Int) (s t : State) : Prop where
  alone : Alone ch [16 + ch.val] s t
  chan : t.chan ch = { s.chan ch with pos := q.toNat, atLive := (t.chan ch).atLive }
  cache : t.cache = s.cache
  live : s.onLive ch → (t.chan ch).atLive = true ∧ ((s.chan ch).atLive = false → s.cells.length = 54 →
    (t.cell (16 + ch.val)).latch = true ∧
      (t.cell (16 + ch.val)).detail = some (.atLive (feedOfChannel s ch) w.hi))
  flag : ¬ s.onLive ch → (t.chan ch).atLive = (s.chan ch).atLive
  quiet : ¬ s.onLive ch ∨ (s.chan ch).atLive = true → t.cells = s.cells

theorem settle_inside (hlo : (w.lo : Int) * 1024 ≤ q) (hhi : q < ((w.hi : Int) + 1) * 1024) :
    SettledInside ch w q s (settle ch w q s) := by
  have hmoved : (s.onLive ch → (s.chan ch).atLive = true) →
      SettledInside ch w q s (s.setChan ch { s.chan ch with pos := q.toNat }) := by
    intro hset
    have hchan : (s.setChan ch { s.chan ch with pos := q.toNat }).chan ch = { s.chan ch with pos := q.toNat } :=
      (State.chan_setChan ..).trans (if_pos rfl)
    refine ⟨(Alone.refl ch _ s).setChan, ?_, rfl, fun hl => ⟨?_, fun hno => ?_⟩, fun _ => ?_, fun _ => rfl⟩
    · rw [hchan]
    · rw [hchan]
      exact hset hl
    · exact absurd (hset hl) (by rw [hno]; decide)
    · rw [hchan]
  by_cases hl : s.onLive ch
  · cases hflag : (s.chan ch).atLive with
    | true =>
      rw [settle_inside_set hlo hhi hl hflag]
      exact hmoved fun _ => hflag
    | false =>
      rw [settle_inside_raises hlo hhi hl hflag]
      refine ⟨(Alone.setChan (.refl ch _ s)).raise (List.mem_singleton.2 rfl), ?_, rfl,
        fun _ => ⟨?_, fun _ hlen => ?_⟩, fun h => absurd hl h, fun h => ?_⟩
      · simp only [raise_chan, State.chan_setChan, if_true]
      · simp only [raise_chan, State.chan_setChan, if_true]
      · rw [raise_cell, if_pos ⟨rfl, show 16 + ch.val < s.cells.length by omega⟩]
        exact ⟨rfl, rfl⟩
      · rw [hflag] at h
        simp only [hl, not_true, Bool.false_eq_true, or_self] at h
  · rw [settle_inside_off hlo hhi hl]
    exact hmoved fun h => absurd h hl

end Sys2Proof.Machine
end

section
/-!
PROOFS. A tick that overruns no end (R51, R60, R65).
-/

-- Proofs checked in turn: side by side they need more threads than the memory limit of check.sh has room for.
set_option Elab.async false

namespace Sys2Proof.Machine

variable {s t u : State} {ch : ChanId} {w : Window}

/-! ## A tick seen from the state it began in -/

section Since

variable {ks : List Nat} (h : StepEnded ch w u t) (ha : Alone ch ks s u)
include h ha

theorem StepEnded.follows_since (hn : (ch :: (s.gangs.get ch).map (·.ch)).Nodup) :
    GangFollows s t ch (s.gangs.get ch) w (fun _ _ y => y) := by
  have hne : ∀ g ∈ s.gangs.get ch, g.ch ≠ ch := fun g hg h =>
    (List.nodup_cons.1 hn).1 (List.mem_map.2 ⟨g, hg, h⟩)
  have hfollows := h.follows
  rw [ha.gangs] at hfollows
  exact hfollows.since ha.feeds.symm ha.gangs.symm ha.length.symm fun g hg => (ha.other _ (hne g hg)).symm

/-- The derivation and the lookups begin with the cache as the bound stage left it. -/
theorem StepEnded.cache_since (hn : (ch :: (s.gangs.get ch).map (·.ch)).Nodup) {v : State} (hf : v.feeds = s.feeds)
    (hc : u.cache = v.cache) : t.cache =
      tickCache ch t w { v with cache := lostPins s (windowless s (s.gangs.get ch)) v.cache } := by
  have hne : ∀ g ∈ s.gangs.get ch, g.ch ≠ ch := fun g hg h =>
    (List.nodup_cons.1 hn).1 (List.mem_map.2 ⟨g, hg, h⟩)
  have hwindowless : windowless u (u.gangs.get ch) = windowless s (s.gangs.get ch) := by
    simp only [windowless, ha.feed, ha.gangs]
  rw [h.cache]
  refine tickCache_congr ?_ ?_ t w
  · exact ha.feeds.trans hf.symm
  · show lostPins u _ u.cache = lostPins s _ v.cache
    rw [hwindowless, hc]
    exact lostPins_congr (fun g hg => by rw [ha.other _ (hne g (List.mem_of_mem_filter hg))]) _

end Since

/-! ## The bound stage of a tick inside the window (R51, R60, R65) -/

/-- The bound stage begins with the channel as it was, but for its speeds, its window and what it has shown. -/
theorem boundStart_keeps (ch : ChanId) (w : Window) (s : State) : ∃ p r d, (boundStart ch w s).chan ch =
    { s.chan ch with
      speed := tickSpeed s.curve (s.chan ch), target := tickTarget s.curve (s.chan ch), jog := 0, window := some w
      preload := p, lastRec := r, outData := d } := by
  rw [boundStart_chan, shownState_chan]
  exact ⟨_, _, _, rfl⟩

section Moves

variable {m : Material} (hm : (s.chan ch).material = some m)
include hm

theorem boundStart_onLive : (boundStart ch w s).onLive ch ↔
    (s.chan ch).state = .live ∧ boundClip s (some m) .upper = none := by
  obtain ⟨p, r, d, hkeeps⟩ := boundStart_keeps ch w s
  have hstart := boundStart_alone ch w s
  unfold State.onLive
  rw [hkeeps, ← hm, boundClip_congr hstart.clips hstart.feeds]

theorem boundStart_feed : feedOfChannel (boundStart ch w s) ch = (materialFeed s m).getD 0 := by
  obtain ⟨p, r, d, hkeeps⟩ := boundStart_keeps ch w s
  have hmaterial : ((boundStart ch w s).chan ch).material = some m := by rw [hkeeps]; exact hm
  rw [feedOfChannel_of_material hmaterial, materialFeed_congr (boundStart_alone ch w s).clips]

omit hm in
/-- On a live bound Q is the head, where AT_LIVE holds (R59, R65). -/
theorem boundStep_onLive (hw : materialWindow s m = some w)
    (hl : (s.chan ch).state = .live ∧ boundClip s (some m) .upper = none) :
    (s.feed ((materialFeed s m).getD 0)).head.getD 0 = w.hi ∧ boundStep ch m s = (w.hi : Int) * 1024 := by
  have hhead : (s.feed ((materialFeed s m).getD 0)).head.getD 0 = w.hi := by
    rw [head_of_liveBound hw hl.2, Option.getD_some]
  refine ⟨hhead, ?_⟩
  simp only [boundStep, tickStep, hl.1, hhead]

variable (he : s.engaged = .engaged) (hn : GangsApart s) (hidle : (s.chan ch).state ≠ .idle)
  (hslave : (s.chan ch).state ≠ .slave)
include he hn hidle hslave

/-- A tick inside the window (R51, R60, R65). -/
theorem ticked_moves (hw : materialWindow s m = some w) :
    let x := s.chan ch
    let feed := (materialFeed s m).getD 0
    let head := (s.feed feed).head.getD 0
    let q := boundStep ch m s
    (w.lo : Int) * 1024 ≤ q → q < ((w.hi : Int) + 1) * 1024 →
    let gs := s.gangs.get ch
    let sel := pickedAt x feed w q.toNat
    let onLive := x.state = .live ∧ boundClip s (some m) .upper = none
    let t := ticked ch s
    (t.chan ch).pos = q.toNat ∧ (t.chan ch).speed = tickSpeed s.curve x ∧
      (t.chan ch).target = tickTarget s.curve x ∧ (t.chan ch).jog = 0 ∧
      (t.chan ch).window = some w ∧ (t.chan ch).state = x.state ∧ (t.chan ch).material = some m ∧
      (t.chan ch).selection = some sel ∧
      (t.chan ch).damaged = decide (mayFetch (t.chan ch) ∧ namesDamaged s ch sel) ∧
      (onLive → (t.chan ch).atLive = true ∧
        (x.atLive = false → s.cells.length = 54 → (t.cell (16 + ch.val)).latch = true ∧
          (t.cell (16 + ch.val)).detail = some (.atLive feed head))) ∧
      (¬ onLive → (t.chan ch).atLive = (x.atLive && decide (head ≤ q.toNat / 1024))) ∧
      (¬ onLive ∨ x.atLive = true → t.cell (16 + ch.val) = s.cell (16 + ch.val)) ∧
      (t.chan ch).atTail = (x.atTail && decide (q.toNat / 1024 ≤ (s.feed feed).tail)) ∧ t.lists = s.lists ∧
      GangFollows s t ch gs w (fun _ _ y => y) ∧
      t.cache = tickCache ch t w { shownState ch s with
        cache := lostPins s (windowless s gs) (shownState ch s).cache } := by
  intro x feed head q hlo hhi gs sel onLive t
  obtain ⟨p, r, d, hkeeps⟩ := boundStart_keeps ch w s
  have hstart := boundStart_alone ch w s
  have hlive : (boundStart ch w s).onLive ch ↔ onLive := boundStart_onLive hm
  have hfeed : feedOfChannel (boundStart ch w s) ch = feed := boundStart_feed hm
  have hin := settle_inside (s := boundStart ch w s) (ch := ch) hlo hhi
  obtain ⟨-, hgoesOn⟩ := ticked_ends he hn hidle hslave hm hw
  have hend := hgoesOn w (by
    refine (congrArg Channel.window hin.chan :).trans ?_
    rw [hkeeps])
  change StepEnded ch w (settle ch w q (boundStart ch w s)) t at hend
  generalize settle ch w q (boundStart ch w s) = u at hin hend
  have halone : Alone ch [12 + ch.val, 28 + ch.val, 16 + ch.val] s u :=
    (hstart.mono (by simp)).trans (hin.alone.mono (by simp))
  have hown := hin.chan
  rw [hkeeps] at hown
  have hufeed : feedOfChannel u ch = feed := by
    rw [feedOfChannel_of_material ((congrArg Channel.material hown :).trans hm), materialFeed_congr halone.clips]
  have hpicked : pickedAt (u.chan ch) feed w (u.chan ch).pos = sel := by
    rw [hown]
    rfl
  have hdamaged : namesDamaged u ch sel ↔ namesDamaged s ch sel :=
    lookup_damaged_congr ch sel.feed halone.feeds ch sel.frame
  have hxlive : ((boundStart ch w s).chan ch).atLive = x.atLive := by rw [hkeeps]
  have hcell : t.cell (16 + ch.val) = u.cell (16 + ch.val) := hend.cell _ (by omega) fun d => by omega
  have hchan := hend.chan
  simp only [hufeed, hpicked, hdamaged, halone.feed] at hchan
  rw [hown] at hchan
  have hflag : (t.chan ch).atLive = ((u.chan ch).atLive && decide (head ≤ q.toNat / 1024)) :=
    (congrArg Channel.atLive hchan :)
  refine ⟨(congrArg Channel.pos hchan :), (congrArg Channel.speed hchan :), (congrArg Channel.target hchan :),
    (congrArg Channel.jog hchan :), (congrArg Channel.window hchan :), (congrArg Channel.state hchan :),
    (congrArg Channel.material hchan :).trans hm, (congrArg Channel.selection hchan :),
    (congrArg Channel.damaged hchan :), fun hl => ?_, fun hl => ?_, fun hl => ?_, (congrArg Channel.atTail hchan :),
    hend.lists.trans halone.lists, hend.follows_since halone (hn ch),
    hend.cache_since halone (hn ch) (shownState_alone ch s).feeds hin.cache⟩
  · obtain ⟨hset, hraised⟩ := hin.live (hlive.2 hl)
    obtain ⟨hhead, hq⟩ : head = w.hi ∧ q = (w.hi : Int) * 1024 := boundStep_onLive hw hl
    refine ⟨?_, fun hx hlen => ?_⟩
    · rw [hflag, hset, Bool.true_and, decide_eq_true_eq]
      omega
    · rw [hcell, hhead, ← hfeed]
      exact hraised (hxlive.trans hx) (hstart.length.trans hlen)
  · rw [hflag, hin.flag fun h => hl (hlive.1 h), hxlive]
  · rw [hcell, State.cell, hin.quiet (hl.imp (fun hno h => hno (hlive.1 h)) hxlive.trans)]
    exact hstart.cell _ (by simp)

end Moves

end Sys2Proof.Machine
end

section
/-!
PROOFS. A tick that finds the window empty, a slave's own tick, and O52 (R54, R110).
-/

-- Proofs checked in turn: side by side they need more threads than the memory limit of check.sh has room for.
set_option Elab.async false

namespace Sys2Proof.Machine

variable {s t u : State} {ch : ChanId} {w : Window}

/-! ## A tick that finds the window empty (R54, R113) -/

theorem shownState_material (ch : ChanId) (s : State) (d : ChanId) :
    ((shownState ch s).chan d).material = (s.chan d).material := by
  by_cases hd : d = ch
  · subst hd
    rw [shownState_chan]
  · rw [(shownState_alone ch s).other d hd]

theorem ticked_ends_empty {m : Material} (he : s.engaged = .engaged) (hn : GangsApart s)
    (hidle : (s.chan ch).state ≠ .idle) (hslave : (s.chan ch).state ≠ .slave) (hm : (s.chan ch).material = some m)
    (hw : materialWindow s m = none) :
    let x := s.chan ch
    let feed := (materialFeed s m).getD 0
    let gs := s.gangs.get ch
    let shown := shownState ch s
    let t := ticked ch s
    t.chan ch = { x with
        state := .idle, material := none, window := none, speed := 0, target := 0, jog := 0, preload := false,
        atLive := false, atTail := false, cueWait := none, selection := none, damaged := false,
        lastRec := (shown.chan ch).lastRec, outData := (shown.chan ch).outData } ∧
      (s.cells.length = 54 → (t.cell (24 + ch.val)).latch = true ∧
        (t.cell (24 + ch.val)).detail =
          some (.windowLost feed (materialId x.material) (s.feed feed).tail (s.feed feed).head)) ∧
      t.gangs = s.gangs.set ch [] ∧
      (∀ g ∈ gs, t.chan g.ch = lostSlave (s.chan g.ch) ∧ tellsLoss s t g) ∧
      (∀ d, d ≠ ch → (∀ g ∈ gs, g.ch ≠ d) → t.chan d = s.chan d) ∧
      t.cache = lostPins s gs shown.cache ∧ t.lists = s.lists ∧
      ∀ id, SMap.find t.clips id = (SMap.find s.clips id).map fun c =>
        { c with useCount := c.useCount -
            (ch :: gs.map (·.ch)).countP (fun d => decide ((s.chan d).material = some (.clip id))) } := by
  intro x feed gs shown t
  have halone : Alone ch [12 + ch.val, 28 + ch.val] s shown := shownState_alone ch s
  have hgs : shown.gangs.get ch = gs := by rw [halone.gangs]
  have hne : ∀ g ∈ gs, g.ch ≠ ch := fun g hg h => (List.nodup_cons.1 (hn ch)).1 (List.mem_map.2 ⟨g, hg, h⟩)
  have hkept : ∀ g ∈ gs, shown.chan g.ch = s.chan g.ch := fun g hg => halone.other g.ch (hne g hg)
  have hfeed : feedOfChannel shown ch = feed := by
    rw [feedOfChannel_of_material ((shownState_material ch s ch).trans hm), materialFeed_congr halone.clips]
  obtain ⟨hown, hslaves, hothers, hgangs, hlists, hcache, htold, -, hclips⟩ :=
    windowLost_does ch shown (by rw [hgs]; exact hn ch)
  rw [← ticked_lost he hidle hslave (by rw [hm]; exact hw)] at hown hslaves hothers hgangs hlists hcache htold hclips
  rw [hgs] at hslaves hothers hcache hclips
  have hmaterial : ∀ d, (shown.chan d).material = (s.chan d).material := shownState_material ch s
  simp only [hfeed, hmaterial, halone.feed] at htold
  simp only [hmaterial, halone.clips] at hclips
  refine ⟨?_, fun hlen => htold (halone.length.trans hlen), ?_, fun g hg => ?_, fun d hd hg => ?_, ?_,
    hlists.trans halone.lists, hclips⟩
  · refine hown.trans ?_
    obtain ⟨p, r, d, hshown⟩ : ∃ p r d, shown.chan ch = { s.chan ch with preload := p, lastRec := r, outData := d } :=
      ⟨_, _, _, shownState_chan ch s⟩
    rw [hshown]
    rfl
  · rw [hgangs, halone.gangs]
  · obtain ⟨hlost, hloss⟩ := hslaves g hg
    refine ⟨hlost.trans (congrArg lostSlave (hkept g hg)), fun hlen => ?_⟩
    have hcell := hloss (halone.length.trans hlen)
    rwa [halone.feed] at hcell
  · exact (hothers d hd hg).trans (halone.other d hd)
  · rw [hcache]
    exact lostPins_congr (fun g hg => by rw [hkept g hg]) _

/-! ## A slave's own tick (R110) -/

/-- What `masterOf` names is an entry of that master's gang. -/
theorem masterOf_mem {m : ChanId} {g : GangSlave} (h : masterOf s ch = some (m, g)) :
    g ∈ s.gangs.get m ∧ g.ch = ch := by
  obtain ⟨k, -, hk⟩ := List.exists_of_findSome?_eq_some h
  obtain ⟨g', hfind, hpair⟩ := Option.map_eq_some_iff.1 hk
  obtain ⟨rfl, rfl⟩ := Prod.mk.inj hpair
  exact ⟨List.mem_of_find?_eq_some hfind, by simpa using List.find?_some hfind⟩

/-- A slave stands on the feed of its entry, waits for no cue and is no master (R105, R107). -/
theorem GangsWhole.slaveOf {m : ChanId} {g : GangSlave} (hg : GangsWhole s) (h : masterOf s ch = some (m, g)) :
    (s.chan ch).state = .slave ∧ (s.chan ch).material = some (.feed g.feed) ∧ (s.chan ch).cueWait = none ∧
      s.gangs.get ch = [] := by
  obtain ⟨hmem, rfl⟩ := masterOf_mem h
  obtain ⟨hmaterial, hwait⟩ := hg.onFeed m g hmem
  refine ⟨(hg.slave g.ch).2 (by rw [h]; rfl), hmaterial, hwait, ?_⟩
  by_contra hne
  have hnone := hg.apart g.ch hne
  rw [h] at hnone
  cases hnone

/-- Without slaves, stages 6 and 7 reach the channel, its cue ready and the cache alone. -/
theorem selectAndFetch_alone (h : s.gangs.get ch = []) : Alone ch [ch.val] s (selectAndFetch ch w s) := by
  have hderive : ∀ x, derive ch (s.setChan ch x) = s.setChan ch x := fun x => by
    show ((s.setChan ch x).gangs.get ch).foldl _ _ = _
    rw [show (s.setChan ch x).gangs.get ch = [] from h]
    rfl
  unfold selectAndFetch
  simp only [hderive]
  exact (Alone.setChan (.refl ch _ s)).trans (sendLookups_alone ch _ _ _)

theorem ticked_slave (he : s.engaged = .engaged) (hs : (s.chan ch).state = .slave) :
    ticked ch s = stepSlave ch (shownState ch s) := by
  have hb : (beforeTick ch s).engaged = .engaged := (beforeTick_alone ch s).engaged.trans he
  have hstate : ((beforeTick ch s).chan ch).state = .slave :=
    (congrArg Channel.state (beforeTick_chan ch s) :).trans hs
  unfold ticked presentAndStep
  simp only [hb, hstate]
  rfl

theorem ticked_selects {m : ChanId} {g : GangSlave} (he : s.engaged = .engaged) (hg : GangsWhole s)
    (h : masterOf s ch = some (m, g)) (hw : (s.chan ch).window = some w) :
    let x := s.chan ch
    let sel := pickedAt x g.feed w x.pos
    let shown := shownState ch s
    let t := ticked ch s
    t.chan ch = { x with
        jog := 0, selection := some sel, damaged := decide (namesDamaged s ch sel),
        preload := ((beforeTick ch s).chan ch).preload,
        lastRec := (shown.chan ch).lastRec, outData := (shown.chan ch).outData } ∧
      (∀ d, d ≠ ch → t.chan d = s.chan d) ∧ t.gangs = s.gangs ∧ t.lists = s.lists ∧
      (∀ i, i ≠ 12 + ch.val → i ≠ 28 + ch.val → t.cell i = s.cell i) ∧
      t.cache = tickCache ch t w shown := by
  intro x sel shown t
  obtain ⟨hstate, hmaterial, hwait, hgangs⟩ := hg.slaveOf h
  have hshown : Alone ch [12 + ch.val, 28 + ch.val] s shown := shownState_alone ch s
  generalize hv : shown.setChan ch { shown.chan ch with jog := 0 } = v
  have hvs : Alone ch [12 + ch.val, 28 + ch.val] s v := hv ▸ hshown.setChan
  have hvchan : v.chan ch = { x with
      jog := 0, preload := ((beforeTick ch s).chan ch).preload
      lastRec := (shown.chan ch).lastRec, outData := (shown.chan ch).outData } := by
    rw [← hv, State.chan_setChan, if_pos rfl]
    exact congrArg (fun y : Channel => { y with jog := 0 }) (shownState_chan ch s)
  have hvwindow : (v.chan ch).window = some w := by rw [hvchan]; exact hw
  have hvgangs : v.gangs.get ch = [] := by rw [hvs.gangs]; exact hgangs
  have ht : t = selectAndFetch ch w v := by
    have hstep : t = stepSlave ch shown := ticked_slave he hstate
    simp only [hstep, stepSlave, hv, hvwindow]
  have hfeed : feedOfChannel v ch = g.feed := by
    rw [feedOfChannel_of_material (by rw [hvchan]; exact hmaterial)]
    rfl
  have hsel := selectAndFetch_selected hvwindow (by rw [hvgangs]; simp)
  have hlast := selectAndFetch_alone (w := w) hvgangs
  rw [← ht] at hsel hlast
  have hall := (hvs.mono (ks' := [12 + ch.val, 28 + ch.val, ch.val]) (by simp)).trans (hlast.mono (by simp))
  obtain ⟨hnone, hquiet⟩ := hsel.quiet (by rw [hvchan]; exact hwait)
  have hpicked : pickedAt (v.chan ch) g.feed w (v.chan ch).pos = sel := by rw [hvchan]; rfl
  have hfetch : mayFetch (v.chan ch) := by
    rw [hvchan]
    exact ⟨by rw [hstate]; decide, .inl hstate⟩
  have hdamaged : (mayFetch (v.chan ch) ∧ namesDamaged v ch sel) ↔ namesDamaged s ch sel :=
    (and_iff_right hfetch).trans (lookup_damaged_congr ch sel.feed hvs.feeds ch sel.frame)
  have hchan := hsel.chan
  simp only [hfeed, hpicked, hdamaged, hnone] at hchan
  refine ⟨?_, hall.other, hall.gangs, hall.lists, fun i h12 h28 => ?_, ?_⟩
  · rw [hchan, hvchan]
    simp only [← hwait]
    rfl
  · by_cases hi : i = ch.val
    · subst hi
      exact (hquiet ch.val fun d => by omega).trans (hvs.cell _ (by simp))
    · exact hall.cell i (by simp [h12, h28, hi])
  · rw [hsel.cache, hvgangs]
    refine tickCache_congr ?_ ?_ t w
    · rw [← hv]
      rfl
    · rw [← hv]
      rfl

/-- Settles O52: a tick inside the window, one that finds it empty, and a slave's own. -/
theorem tickMovesThePosition : Obligations.TickMovesThePosition := by
  refine ⟨fun s ch m w he hn hidle hslave hm hw => ?_, fun s ch m he hn hidle hslave hm hw => ?_,
    fun s m ch g w he hg h hw => ?_⟩
  · intro x feed head q hlo hhi gs sel onLive
    obtain ⟨hpos, hspeed, htarget, hjog, hwindow, hstate, hmaterial, hselection, hdamaged, hlive, hoff, hquiet, htail,
      hlists, hfollows, hcache⟩ := ticked_moves hm he hn hidle hslave hw hlo hhi
    refine ⟨_, exec_outputTick ch s, hpos, hspeed, htarget, hjog, hwindow, hstate, hmaterial, hselection, hdamaged,
      hlive, hoff, hquiet, htail, hlists, fun d hd hg => (ticked_frame ch s).others d ?_,
      ⟨hfollows.record, hfollows.others, hfollows.placed, hfollows.lost⟩, hcache⟩
    rintro (rfl | ⟨g, hmem, rfl⟩)
    · exact hd rfl
    · exact hg g hmem rfl
  · exact ⟨_, exec_outputTick ch s, ticked_ends_empty he hn hidle hslave hm hw⟩
  · exact ⟨_, exec_outputTick ch s, ticked_selects he hg h hw⟩

end Sys2Proof.Machine
end

section
/-!
PROOFS. Where a tick leaves the position (O54).
-/

-- Proofs checked in turn: side by side they need more threads than the memory limit of check.sh has room for.
set_option Elab.async false

namespace Sys2Proof.Machine

variable {s t u : State} {ch : ChanId} {w : Window} {q : Int} {x : Channel}

/-! ## A position in a window -/

/-- The channel has the window `w`, which is not empty, and its position lies in it. -/
structure Channel.PlacedIn (x : Channel) (w : Window) : Prop where
  window : x.window = some w
  le : w.lo ≤ w.hi
  first : w.lo * 1024 ≤ x.pos
  last : x.pos ≤ w.hi * 1024 + 1023

/-- The channel has ended, or its position lies in its window. -/
def Channel.EndedOrPlaced (x : Channel) : Prop := x.state = .idle ∧ x.window = none ∨ ∃ w, x.PlacedIn w

/-- A channel put on the first position of a frame of its window. -/
theorem endedOrPlaced_frame {n : Nat} (hw : x.window = some w) (hlo : w.lo ≤ n) (hhi : n ≤ w.hi)
    (hp : x.pos = n * 1024) : x.EndedOrPlaced :=
  .inr ⟨w, hw, hlo.trans hhi, by omega, by omega⟩

/-- The frame selected at a position in a window and its partner lie in the window (R68). -/
theorem pickedAt_inside (feed : FeedId) {p : Nat} (hlo : w.lo * 1024 ≤ p) (hhi : p ≤ w.hi * 1024 + 1023) :
    let sel := pickedAt x feed w p
    w.lo ≤ sel.frame ∧ sel.frame ≤ w.hi ∧ ∀ n, sel.partner = some n → n = sel.frame + 1 ∧ n ≤ w.hi := by
  simp only [pickedAt]
  by_cases hplain : x.opts.blend = false ∨ p / 1024 = w.hi
  · rw [pickFrame_plain hplain]
    exact ⟨by omega, by omega, fun n h => nomatch h⟩
  · obtain ⟨hblend, htop⟩ := not_or.1 hplain
    rw [Bool.not_eq_false] at hblend
    rw [hblend, pickFrame_blend htop]
    split
    · exact ⟨by dsimp only; omega, by dsimp only; omega, fun n h => nomatch h⟩
    · split
      · exact ⟨by dsimp only; omega, by dsimp only; omega, fun n h => nomatch h⟩
      · refine ⟨by dsimp only; omega, by dsimp only; omega, fun n h => ?_⟩
        obtain rfl := Option.some.inj h
        exact ⟨rfl, by omega⟩

/-! ## The search of a cue list (R125) -/

theorem takeable_clip {en : CueEntry} {d : Clip} (h : takeable s en = some d) : SMap.find s.clips en.clip = some d := by
  unfold takeable at h
  split at h
  · cases h
  · split at h
    · cases h
    · rename_i c hc _
      rw [← h]
      exact hc

theorem searchList_cases (s : State) (l : List CueEntry) : (∀ p ∈ l, takeable s p = none) ∨
    ∃ passed en d rest, searchList s l = (passed, some (en, d, rest)) ∧ takeable s en = some d := by
  induction l with
  | nil => exact .inl fun p hp => absurd hp List.not_mem_nil
  | cons p l ih =>
    cases hp : takeable s p with
    | some d => exact .inr ⟨[], p, d, l, by simp only [searchList, hp], hp⟩
    | none =>
      rcases ih with hnone | ⟨passed, en, d, rest, hsearch, hd⟩
      · exact .inl (List.forall_mem_cons.2 ⟨hp, hnone⟩)
      · exact .inr ⟨p :: passed, en, d, rest, by simp only [searchList, hp, hsearch], hd⟩

/-! ## Where the bound stage leaves a channel (R60 to R66) -/

theorem boundClip_material {m : Option Material} {e : WindowEnd} {c : Clip} (h : boundClip s m e = some c) :
    ∃ id, m = some (.clip id) := by
  match m with
  | none => cases h
  | some (.feed f) => cases h
  | some (.clip id) => exact ⟨id, rfl⟩

theorem Window.overruns_inside {e : WindowEnd} {hold : Nat} (h : w.overruns q e hold) (hle : w.lo ≤ w.hi) :
    w.lo ≤ hold ∧ hold ≤ w.hi := by
  rcases h with ⟨-, -, rfl⟩ | ⟨-, -, -, rfl⟩
  · exact ⟨hle, le_rfl⟩
  · exact ⟨le_rfl, hle⟩

section Settle

variable (hw : (s.chan ch).window = some w) (hle : w.lo ≤ w.hi)
include hw hle

/-- A NEXT advance enters its new window, or ends the channel. -/
theorem nextEnd_places {e : WindowEnd} {hold id : Nat} (hn : (ch :: (s.gangs.get ch).map (·.ch)).Nodup)
    (ho : w.overruns q e hold) (hm : (s.chan ch).material = some (.clip id)) :
    ((nextEnd ch w e s).chan ch).EndedOrPlaced := by
  rcases searchList_cases s (s.lists.get ch) with hnone | ⟨passed, en, d, rest, hsearch, hd⟩
  · obtain ⟨hlo, hhi⟩ := Window.overruns_inside ho hle
    obtain ⟨hchan, -⟩ := nextEnd_stops hnone (overrun_of_overruns ho).2 hm
    rw [hchan]
    exact endedOrPlaced_frame hw hlo hhi rfl
  · have hnext : nextEnd ch w e s = advanceNext ch e passed en d rest s := by simp only [nextEnd, hsearch]
    rw [hnext]
    have hclip := takeable_clip hd
    cases hw' : d.window (s.feed d.feed) with
    | none =>
      obtain ⟨hstate, -, hwindow, -⟩ := advanceNext_lost (e := e) hn hclip passed rest hw'
      exact .inl ⟨hstate, hwindow⟩
    | some w' =>
      obtain ⟨hchan, -⟩ := advanceNext_taken (e := e) hn hclip passed rest hw'
      have hle' : w'.lo ≤ w'.hi := Clip.window_le hw'
      rw [hchan, entryIn_next]
      exact endedOrPlaced_frame rfl (le_max_left ..) (max_le hle' (min_le_left ..)) rfl

theorem settle_clipBound_places {e : WindowEnd} {hold : Nat} {c : Clip}
    (hn : (ch :: (s.gangs.get ch).map (·.ch)).Nodup) (ho : w.overruns q e hold)
    (hb : boundClip s (s.chan ch).material e = some c) : ((settle ch w q s).chan ch).EndedOrPlaced := by
  obtain ⟨id, hm⟩ := boundClip_material hb
  obtain ⟨hlo, hhi⟩ := Window.overruns_inside ho hle
  have hstops : ∀ d : Detail, ((raise ch.val d (s.setChan ch ((s.chan ch).stoppedAt hold))).chan ch).EndedOrPlaced := by
    intro d
    rw [raise_chan, State.chan_setChan, if_pos rfl]
    exact endedOrPlaced_frame hw hlo hhi rfl
  by_cases hruns : (s.chan ch).state = .playing ∨ (s.chan ch).state = .shuttle
  · cases hmode : c.endMode with
    | stop =>
      rw [settle_stops ho hb hm (.inr ⟨hruns, hmode⟩)]
      exact hstops _
    | loop =>
      rw [settle_wraps ho hb hruns hmode, State.chan_setChan, if_pos rfl]
      obtain ⟨hfirst, hlast, -⟩ := Window.wrap_spec hle q
      exact .inr ⟨w, hw, hle, hfirst, hlast⟩
    | next =>
      rw [settle_next ho hb hruns hmode]
      exact nextEnd_places hw hle hn ho hm
  · by_cases hlive : (s.chan ch).state = .live
    · rw [settle_stops ho hb hm (.inl hlive)]
      exact hstops _
    · rw [settle_holds ho hb hruns hlive, State.chan_setChan, if_pos rfl]
      exact endedOrPlaced_frame hw hlo hhi rfl

theorem settle_unbound_places {e : WindowEnd} {hold : Nat} (ho : w.overruns q e hold)
    (hb : boundClip s (s.chan ch).material e = none) : ((settle ch w q s).chan ch).EndedOrPlaced := by
  cases e with
  | upper =>
    obtain ⟨hset, hraised⟩ := settle_liveBound ho hb rfl
    cases hflag : (s.chan ch).atLive with
    | true =>
      rw [hset hflag, State.chan_setChan, if_pos rfl]
      exact endedOrPlaced_frame hw hle le_rfl rfl
    | false =>
      rw [hraised hflag, raise_chan, State.chan_setChan, if_pos rfl]
      exact endedOrPlaced_frame hw hle le_rfl rfl
  | lower =>
    obtain ⟨hset, hraised⟩ := settle_tailBound ho hb rfl
    cases hflag : (s.chan ch).atTail with
    | true =>
      rw [hset hflag, State.chan_setChan, if_pos rfl]
      exact endedOrPlaced_frame hw le_rfl hle rfl
    | false =>
      rw [hraised hflag, raise_chan, State.chan_setChan, if_pos rfl]
      exact endedOrPlaced_frame hw le_rfl hle rfl

/-- The bound stage leaves the position in the window, or has ended the channel. -/
theorem settle_places (hn : (ch :: (s.gangs.get ch).map (·.ch)).Nodup) (q : Int) :
    ((settle ch w q s).chan ch).EndedOrPlaced := by
  have hoverrun : ∀ e hold, w.overruns q e hold → ((settle ch w q s).chan ch).EndedOrPlaced := by
    intro e hold ho
    cases hb : boundClip s (s.chan ch).material e with
    | some c => exact settle_clipBound_places hw hle hn ho hb
    | none => exact settle_unbound_places hw hle ho hb
  rcases le_or_gt (((w.hi : Int) + 1) * 1024) q with hupper | hhi
  · exact hoverrun .upper w.hi (.inl ⟨rfl, hupper, rfl⟩)
  · rcases lt_or_ge q ((w.lo : Int) * 1024) with hlower | hlo
    · exact hoverrun .lower w.lo (.inr ⟨rfl, hhi, hlower, rfl⟩)
    · have hin := settle_inside (s := s) (ch := ch) hlo hhi
      rw [hin.chan]
      exact .inr ⟨w, hw, hle, by dsimp only; omega, by dsimp only; omega⟩

end Settle

/-! ## The state a tick leaves its channel in -/

/-- The channel has a window, its position lies in it, and so do the selected frame and its partner (R54, R68). -/
def Channel.Settled (x : Channel) : Prop := ∃ w sel, x.window = some w ∧ w.lo ≤ w.hi ∧ w.lo * 1024 ≤ x.pos ∧
  x.pos ≤ w.hi * 1024 + 1023 ∧ x.selection = some sel ∧ w.lo ≤ sel.frame ∧ sel.frame ≤ w.hi ∧
  ∀ p, sel.partner = some p → p = sel.frame + 1 ∧ p ≤ w.hi

theorem StepEnded.settled (h : StepEnded ch w u t) (hp : (u.chan ch).PlacedIn w) : (t.chan ch).Settled := by
  obtain ⟨hw, hle, hfirst, hlast⟩ := hp
  obtain ⟨hlo, hhi, hpartner⟩ := pickedAt_inside (x := u.chan ch) (feedOfChannel u ch) hfirst hlast
  rw [h.chan]
  exact ⟨w, _, hw, hle, hfirst, hlast, rfl, hlo, hhi, hpartner⟩

theorem ticked_idle_state (he : s.engaged = .engaged) (hi : (s.chan ch).state = .idle) :
    ((ticked ch s).chan ch).state = .idle := by
  have hb : ((beforeTick ch s).chan ch).state = .idle := (congrArg Channel.state (beforeTick_chan ch s) :).trans hi
  have hp : ((presentIdle ch (beforeTick ch s)).chan ch).state = .idle :=
    (congrArg Channel.state (presentIdle_chan ch (beforeTick ch s)) :).trans hb
  rw [ticked_idle ((beforeTick_alone ch s).engaged.trans he) hb]
  by_cases hlive : ((presentIdle ch (beforeTick ch s)).chan ch).opts.idlePicture = .live
  · obtain ⟨hchan, -⟩ := stepIdle_live hlive
    rw [hchan]
    exact hp
  · rw [stepIdle_plain hlive, State.chan_setChan, if_pos rfl]
    exact hp

theorem ticked_slave_state (he : s.engaged = .engaged) (hn : GangsApart s) (hs : (s.chan ch).state = .slave) :
    ((ticked ch s).chan ch).state = .slave := by
  have hshown := shownState_alone ch s
  rw [ticked_slave he hs, stepSlave]
  generalize hv : (shownState ch s).setChan ch { (shownState ch s).chan ch with jog := 0 } = v
  have hstate : (v.chan ch).state = .slave := by
    rw [← hv, State.chan_setChan, if_pos rfl]
    exact (congrArg Channel.state (shownState_chan ch s) :).trans hs
  have hgangs : v.gangs = s.gangs := hv ▸ hshown.gangs
  split
  · exact hstate
  · rename_i w hw
    rw [(selectAndFetch_selected hw (by rw [hgangs]; exact hn ch)).chan]
    exact hstate

/-- A tick of a channel in any other state settles it, or ends it. -/
theorem ticked_active_settled (he : s.engaged = .engaged) (hn : GangsApart s) (hidle : (s.chan ch).state ≠ .idle)
    (hslave : (s.chan ch).state ≠ .slave) :
    ((ticked ch s).chan ch).state = .idle ∨ ((ticked ch s).chan ch).Settled := by
  cases hbind : (s.chan ch).material.bind (materialWindow s) with
  | none =>
    have hshown := shownState_alone ch s
    obtain ⟨hown, -⟩ := windowLost_does ch (shownState ch s) (by rw [hshown.gangs]; exact hn ch)
    rw [ticked_lost he hidle hslave hbind, hown]
    exact .inl rfl
  | some w =>
    obtain ⟨m, hm, hw⟩ := Option.bind_eq_some_iff.1 hbind
    obtain ⟨p, r, d, hkeeps⟩ := boundStart_keeps ch w s
    have hplaces := settle_places (s := boundStart ch w s) (by rw [hkeeps]) (materialWindow_le hw)
      (by rw [(boundStart_alone ch w s).gangs]; exact hn ch) (boundStep ch m s)
    obtain ⟨hended, hgoesOn⟩ := ticked_ends he hn hidle hslave hm hw
    rcases hplaces with ⟨hstate, hwindow⟩ | ⟨w', hplaced⟩
    · rw [hended hwindow]
      exact .inl hstate
    · exact .inr ((hgoesOn w' hplaced.window).settled hplaced)

/-- Settles O54, by the state in which the tick finds its channel. -/
theorem settledPositionLiesInTheWindow : Obligations.SettledPositionLiesInTheWindow := by
  intro s t ch he hn hexec hidle hslave
  obtain rfl := Host.Outcome.next.inj ((exec_outputTick ch s).symm.trans hexec)
  show ((ticked ch s).chan ch).Settled
  change ((ticked ch s).chan ch).state ≠ .idle at hidle
  change ((ticked ch s).chan ch).state ≠ .slave at hslave
  by_cases hi : (s.chan ch).state = .idle
  · exact absurd (ticked_idle_state he hi) hidle
  · by_cases hs : (s.chan ch).state = .slave
    · exact absurd (ticked_slave_state he hn hs) hslave
    · exact (ticked_active_settled he hn hi hs).resolve_left hidle

end Sys2Proof.Machine
end

section
/-!
PROOFS. The tags of the cache slots under every operation of the Frame Cache (R133, O58).
-/

-- Proofs checked in turn: side by side they need more threads than the memory limit of check.sh has room for.
set_option Elab.async false

namespace Sys2Proof

variable {α : Type}

/-- After a put a table holds the new entry and entries it held before. -/
theorem SMap.mem_put {m : SMap α} {k : Nat} {v : α} {r : Nat × α} (h : r ∈ m.put k v) : r = (k, v) ∨ r ∈ m := by
  induction m with
  | nil => exact .inl (List.mem_singleton.1 h)
  | cons q t ih =>
    unfold SMap.put at h
    split at h
    · exact List.mem_cons.1 h
    · split at h
      · exact (List.mem_cons.1 h).imp_right (List.mem_cons_of_mem q)
      · rcases List.mem_cons.1 h with rfl | h
        · exact .inr List.mem_cons_self
        · exact (ih h).imp_right (List.mem_cons_of_mem q)

theorem SMap.mem_del {m : SMap α} {k : Nat} {r : Nat × α} (h : r ∈ m.del k) : r ∈ m := by
  induction m with
  | nil => exact h
  | cons q t ih =>
    unfold SMap.del at h
    split at h
    · exact List.mem_cons_of_mem q h
    · exact (List.mem_cons.1 h).elim (fun e => e ▸ List.mem_cons_self) fun h => List.mem_cons_of_mem q (ih h)

namespace Machine

/-! ## The tags of a slot table -/

/-- The slots of a table, each with the tag it carries (R133). -/
def slotTags (m : SMap Slot) : List (Nat × FeedId × Nat) := m.map fun r => (r.1, r.2.feed, r.2.frame)

/-- No two slots of a table carry one tag (R133). -/
def TagsOnce (m : SMap Slot) : Prop := ∀ a ∈ slotTags m, ∀ b ∈ slotTags m, a.2 = b.2 → a.1 = b.1

theorem tagsDistinct_iff (s : State) : TagsDistinct s ↔ TagsOnce s.cache.slots := by
  simp only [TagsDistinct, TagsOnce, slotTags, List.forall_mem_map, Prod.mk.injEq, and_imp]

theorem mem_slotTags_of_find {m : SMap Slot} {i : Nat} {x : Slot} (h : m.find i = some x) :
    (i, x.feed, x.frame) ∈ slotTags m := List.mem_map_of_mem (SMap.mem_of_find h)

theorem slotTags_put {m : SMap Slot} {i : Nat} {x : Slot} {a : Nat × FeedId × Nat} (h : a ∈ slotTags (m.put i x)) :
    a = (i, x.feed, x.frame) ∨ a ∈ slotTags m := by
  obtain ⟨r, hr, rfl⟩ := List.mem_map.1 h
  rcases SMap.mem_put hr with rfl | hr
  · exact .inl rfl
  · exact .inr (List.mem_map_of_mem hr)

/-- A slot rewritten under its own tag adds no tag. -/
theorem slotTags_put_subset {m : SMap Slot} {i : Nat} {x : Slot} (h : (i, x.feed, x.frame) ∈ slotTags m) :
    slotTags (m.put i x) ⊆ slotTags m := fun _ ha => (slotTags_put ha).elim (fun e => e ▸ h) id

theorem slotTags_del_subset (m : SMap Slot) (i : Nat) : slotTags (m.del i) ⊆ slotTags m :=
  List.map_subset _ fun _ => SMap.mem_del

theorem slotTags_filter_subset (m : SMap Slot) (p : Nat × Slot → Bool) : slotTags (m.filter p) ⊆ slotTags m :=
  List.map_subset _ (List.filter_subset_self m)

namespace TagsOnce

variable {m m' : SMap Slot} {c : Cache}

theorem mono (h : TagsOnce m) (hs : slotTags m' ⊆ slotTags m) : TagsOnce m' :=
  fun a ha b hb => h a (hs ha) b (hs hb)

/-- A slot takes a tag that no other slot carries. -/
theorem put (h : TagsOnce m) {i : Nat} {x : Slot} (hi : ∀ j, (j, x.feed, x.frame) ∈ slotTags m → j = i) :
    TagsOnce (m.put i x) := by
  intro a ha b hb hab
  rcases slotTags_put ha with rfl | ha <;> rcases slotTags_put hb with rfl | hb
  · rfl
  · obtain ⟨j, f, n⟩ := b
    cases hab
    exact (hi j hb).symm
  · obtain ⟨j, f, n⟩ := a
    cases hab
    exact hi j ha
  · exact h a ha b hb hab

/-! ## Lookups (R135, R136) -/

theorem answer (h : TagsOnce c.slots) (ch : ChanId) (f : FeedId) (n : Nat) (e : DirAnswer) :
    TagsOnce (c.answer ch f n e).1.slots := by
  unfold Cache.answer
  split
  · rename_i hnone
    have hfree : ∀ i j, (j, f, n) ∈ slotTags c.slots → j = i := fun i j hj => by
      obtain ⟨r, hr, he⟩ := List.mem_map.1 hj
      obtain ⟨-, hf, hn⟩ : r.1 = j ∧ r.2.feed = f ∧ r.2.frame = n := by simpa using he
      exact absurd (List.find?_eq_none.1 hnone r hr) (by simp [Slot.carries, hf, hn])
    split
    · rename_i d hd
      unfold Cache.allocate at hd
      split at hd
      · cases hd
      · split at hd
        · cases hd
          exact h.put (hfree _)
        · cases hd
    · exact h
  · split <;> exact h

/-! ## The end of a fill (R142 to R144) -/

theorem abandonSlot (h : TagsOnce c.slots) (i : Nat) (x : Slot) : TagsOnce (c.abandonSlot i x).slots := by
  unfold Cache.abandonSlot
  split
  · exact h.mono (slotTags_del_subset _ _)
  · rename_i v _
    split
    · exact h.mono (slotTags_del_subset _ _)
    · rename_i hno
      refine h.put fun j hj => ?_
      obtain ⟨r, hr, he⟩ := List.mem_map.1 hj
      obtain ⟨rfl, hf, hn⟩ : r.1 = j ∧ r.2.feed = v.feed ∧ r.2.frame = v.frame := by simpa using he
      by_contra hne
      exact hno (List.any_eq_true.2 ⟨r, hr, by simp [Slot.carries, hf, hn, hne]⟩)

theorem abort (h : TagsOnce c.slots) (k : Nat) (why : Reason) : TagsOnce (c.abort k why).slots := by
  unfold Cache.abort
  split
  · exact h
  · split
    · exact h
    · exact h.abandonSlot _ _

/-! ## Pins and overwrite notices (R147, R149, R150) -/

theorem setPins (h : TagsOnce c.slots) (ch : ChanId) (l : List Nat) : TagsOnce (c.setPins ch l).slots :=
  h.mono (slotTags_filter_subset _ _)

theorem present (h : TagsOnce c.slots) {ch : ChanId} {f : FeedId} {n : Nat} {p : Option Nat} {r : Cache × Bool}
    (hr : c.present ch f n p = some r) : TagsOnce r.1.slots := by
  unfold Cache.present at hr
  split at hr
  · cases hr
  · split at hr
    · cases hr
      exact setPins (c := (c.touch _).touch _) h _ _
    · cases hr
      exact setPins (c := c.touch _) h _ _

theorem dropVictims (h : TagsOnce c.slots) (f : FeedId) (n : Nat) : TagsOnce (c.dropVictims f n).slots := by
  have hsame : slotTags (c.dropVictims f n).slots = slotTags c.slots := by
    simp only [slotTags, Cache.dropVictims, List.map_map]
    refine List.map_congr_left fun r _ => ?_
    simp only [Function.comp]
    split <;> rfl
  exact h.mono fun _ ha => hsame ▸ ha

theorem loseFrame (h : TagsOnce c.slots) (f : FeedId) (n : Nat) : TagsOnce (c.loseFrame f n).slots := by
  unfold Cache.loseFrame
  split
  · exact h
  · rename_i i x htag
    have hmem : (i, x.feed, x.frame) ∈ slotTags c.slots := List.mem_map_of_mem (List.mem_of_find?_eq_some htag)
    split
    · split
      · exact h.mono (slotTags_del_subset _ _)
      · exact h.mono (slotTags_put_subset (x := { x with state := .orphan }) hmem)
    · split
      · exact h.abort _ _
      · exact h
    · exact h

end TagsOnce

end Machine

end Sys2Proof
end

section
/-!
PROOFS. The gangs under the operations that leave every slave list: which changes of a channel keep its place in its
gang (R72, R105, O58).
-/

-- Proofs checked in turn: side by side they need more threads than the memory limit of check.sh has room for.
set_option Elab.async false

namespace Sys2Proof.Machine

variable {s t u : State} {ch : ChanId}

/-! ## What a gang asks of its channels -/

/-- Some gang names the channel (R105). -/
def Named (q : Quad (List GangSlave)) (d : ChanId) : Prop := ∃ m, ∃ g ∈ q.get m, g.ch = d

/-- A channel stands as the gangs have it: in SLAVE exactly when one names it, and then on the feed of the entry and
without a cue wait (R72, R111, R112). -/
structure Fits (q : Quad (List GangSlave)) (d : ChanId) (x : Channel) : Prop where
  slave : x.state = .slave ↔ Named q d
  onFeed : ∀ m, ∀ g ∈ q.get m, g.ch = d → x.material = some (.feed g.feed) ∧ x.cueWait = none

/-- The gangs are whole, but for the channels `l`, whose place is still to be settled. -/
structure WholeBut (l : List ChanId) (s : State) : Prop where
  once : (allChans.flatMap fun m => (s.gangs.get m).map (·.ch)).Nodup
  apart : ∀ m, s.gangs.get m ≠ [] → ¬ Named s.gangs m
  fits : ∀ d, d ∉ l → Fits s.gangs d (s.chan d)

theorem masterOf_isSome_iff (s : State) (d : ChanId) : (masterOf s d).isSome = true ↔ Named s.gangs d := by
  have hfind : ∀ m, ((s.gangs.get m).find? fun g => g.ch == d).isSome = true ↔ ∃ g ∈ s.gangs.get m, g.ch = d := by
    simp
  simp only [masterOf, List.findSome?_isSome_iff, Option.isSome_map, hfind, Named]
  exact ⟨fun ⟨m, _, h⟩ => ⟨m, h⟩, fun ⟨m, h⟩ => ⟨m, mem_allChans m, h⟩⟩

theorem masterOf_none_iff (s : State) (d : ChanId) : masterOf s d = none ↔ ¬ Named s.gangs d := by
  rw [← masterOf_isSome_iff]
  simp

theorem gangsWhole_iff : GangsWhole s ↔ WholeBut [] s := by
  constructor
  · rintro ⟨honce, hapart, hslave, honFeed⟩
    refine ⟨honce, fun m hm => (masterOf_none_iff s m).1 (hapart m hm), fun d _ => ⟨?_, ?_⟩⟩
    · rw [hslave, masterOf_isSome_iff]
    · rintro m g hg rfl
      exact honFeed m g hg
  · rintro ⟨honce, hapart, hfits⟩
    refine ⟨honce, fun m hm => (masterOf_none_iff s m).2 (hapart m hm), fun d => ?_, fun m g hg => ?_⟩
    · rw [masterOf_isSome_iff]
      exact (hfits d List.not_mem_nil).slave
    · exact (hfits g.ch List.not_mem_nil).onFeed m g hg rfl

/-- One entry in all the gangs names a channel. -/
theorem entry_unique {q : Quad (List GangSlave)} (h : (allChans.flatMap fun m => (q.get m).map (·.ch)).Nodup)
    {m k : ChanId} {g g' : GangSlave} (hg : g ∈ q.get m) (hg' : g' ∈ q.get k) (he : g'.ch = g.ch) :
    k = m ∧ g' = g := by
  obtain ⟨hlists, hpairs⟩ := List.nodup_flatMap.1 h
  have hmk : k = m := by
    by_contra hne
    have : Std.Symm (Function.onFun List.Disjoint fun m => (q.get m).map (·.ch)) := ⟨fun _ _ hd => hd.symm⟩
    have hdisjoint := hpairs.forall (mem_allChans k) (mem_allChans m) hne
    exact hdisjoint (he ▸ List.mem_map_of_mem hg') (List.mem_map_of_mem hg)
  subst hmk
  exact ⟨rfl, List.inj_on_of_nodup_map (hlists k (mem_allChans k)) hg' hg he⟩

/-! ## Changes of a channel that leave its place in its gang -/

/-- A channel is a slave afterwards exactly when it was one, and a slave keeps its material and gains no cue wait. -/
structure Channel.Like (x y : Channel) : Prop where
  slave : y.state = .slave ↔ x.state = .slave
  holds : x.state = .slave → y.material = x.material ∧ (x.cueWait = none → y.cueWait = none)

namespace Channel.Like

variable {x y z : Channel}

theorem refl (x : Channel) : x.Like x := ⟨Iff.rfl, fun _ => ⟨rfl, id⟩⟩

theorem trans (h : x.Like y) (h' : y.Like z) : x.Like z :=
  ⟨h'.slave.trans h.slave, fun hx =>
    have hy := h.slave.2 hx
    ⟨(h'.holds hy).1.trans (h.holds hx).1, fun hw => (h'.holds hy).2 ((h.holds hx).2 hw)⟩⟩

/-- A channel outside the gangs stays outside. -/
theorem of_free (hx : x.state ≠ .slave) (hy : y.state ≠ .slave) : x.Like y :=
  ⟨⟨fun h => absurd h hy, fun h => absurd h hx⟩, fun h => absurd h hx⟩

theorem of_same (hs : y.state = x.state := by rfl) (hm : y.material = x.material := by rfl)
    (hw : x.cueWait = none → y.cueWait = none := by exact id) : x.Like y :=
  ⟨by rw [hs], fun _ => ⟨hm, hw⟩⟩

end Channel.Like

theorem Fits.like {q : Quad (List GangSlave)} {d : ChanId} {x y : Channel} (h : Fits q d x) (hl : x.Like y) :
    Fits q d y :=
  ⟨hl.slave.trans h.slave, fun m g hg he =>
    have hx := h.slave.2 ⟨m, g, hg, he⟩
    ⟨(hl.holds hx).1.trans (h.onFeed m g hg he).1, (hl.holds hx).2 (h.onFeed m g hg he).2⟩⟩

/-- From `s` to `t` no gang has changed, every channel has kept its place in its gang, and distinct tags have stayed
distinct. -/
structure Kin (s t : State) : Prop where
  gangs : t.gangs = s.gangs
  chans : ∀ d, (s.chan d).Like (t.chan d)
  tags : TagsOnce s.cache.slots → TagsOnce t.cache.slots

/-- The gangs, the channels and the slots: what an operation of another block leaves as it is. -/
def State.roster (s : State) : Quad (List GangSlave) × Quad Channel × SMap Slot := (s.gangs, s.chans, s.cache.slots)

/-- From `s` to `t` a step's work has kept the gangs and the tags whole. -/
structure Kept (s t : State) : Prop where
  apart : GangsApart s → GangsApart t
  whole : GangsWhole s → GangsWhole t
  tags : TagsDistinct s → TagsDistinct t

theorem Kept.refl (s : State) : Kept s s := ⟨id, id, id⟩

theorem Kept.trans (h : Kept s t) (h' : Kept t u) : Kept s u :=
  ⟨h'.apart ∘ h.apart, h'.whole ∘ h.whole, h'.tags ∘ h.tags⟩

theorem Kept.foldl {α : Type} {op : State → α → State} (hop : ∀ t a, Kept t (op t a)) (l : List α) (s : State) :
    Kept s (l.foldl op s) := List.foldlRecOn l op (.refl s) fun t h a _ => h.trans (hop t a)

namespace Kin

theorem refl (s : State) : Kin s s := ⟨rfl, fun _ => .refl _, id⟩

theorem trans (h : Kin s t) (h' : Kin t u) : Kin s u :=
  ⟨h'.gangs.trans h.gangs, fun d => (h.chans d).trans (h'.chans d), h'.tags ∘ h.tags⟩

theorem of_roster (h : t.roster = s.roster := by rfl) : Kin s t := by
  obtain ⟨hg, hc, hs⟩ : t.gangs = s.gangs ∧ t.chans = s.chans ∧ t.cache.slots = s.cache.slots := by
    simpa [State.roster] using h
  exact ⟨hg, fun d => State.chan_congr hc d ▸ .refl _, hs ▸ id⟩

theorem free (h : Kin s t) (hs : (s.chan ch).state ≠ .slave) : (t.chan ch).state ≠ .slave :=
  fun ht => hs ((h.chans ch).slave.1 ht)

theorem setChan (h : Kin s t) {x : Channel} (hx : (t.chan ch).Like x) : Kin s (t.setChan ch x) :=
  h.trans ⟨rfl, fun d => by
    rw [State.chan_setChan]
    split
    · rename_i e; exact e ▸ hx
    · exact .refl _, id⟩

/-- A channel outside the gangs is rewritten. -/
theorem setFree (h : Kin s t) (hs : (s.chan ch).state ≠ .slave) {x : Channel} (hx : x.state ≠ .slave) :
    Kin s (t.setChan ch x) := h.setChan (.of_free (h.free hs) hx)

theorem withCache (h : Kin s t) {k : Cache} (hk : TagsOnce t.cache.slots → TagsOnce k.slots) :
    Kin s { t with cache := k } := h.trans ⟨rfl, fun _ => .refl _, hk⟩

theorem raise (h : Kin s t) (n : Nat) (d : Detail) : Kin s (raise n d t) := h.trans (.of_roster)

theorem foldl {α : Type} {op : State → α → State} (hop : ∀ t a, Kin t (op t a)) (l : List α) (s : State) :
    Kin s (l.foldl op s) := List.foldlRecOn l op (refl s) fun t h a _ => h.trans (hop t a)

theorem wholeBut (h : Kin s t) {l : List ChanId} (hw : WholeBut l s) : WholeBut l t :=
  ⟨h.gangs ▸ hw.once, h.gangs ▸ hw.apart, fun d hd => h.gangs ▸ (hw.fits d hd).like (h.chans d)⟩

theorem kept (h : Kin s t) : Kept s t where
  apart ha m := h.gangs ▸ ha m
  whole hw := gangsWhole_iff.2 (h.wholeBut (gangsWhole_iff.1 hw))
  tags ht := (tagsDistinct_iff t).2 (h.tags ((tagsDistinct_iff s).1 ht))

end Kin

/-! ## Lookups, answers and presentations (R80, R89, R94) -/

namespace Kin

theorem frameReady (h : Kin s t) (ch : ChanId) (f : FeedId) (n : Nat) : Kin s (frameReady ch f n t) := by
  unfold Machine.frameReady
  dsimp only
  split
  · exact (h.setChan (.of_same (hw := fun _ => rfl))).raise _ _
  · exact h

theorem frameFailed (h : Kin s t) (ch : ChanId) (f : FeedId) (n : Nat) (why : Reason) :
    Kin s (frameFailed ch f n why t) := by
  unfold Machine.frameFailed
  dsimp only
  split
  · exact h.setChan .of_same
  · exact h

theorem lookup (h : Kin s t) (ch : ChanId) (f : FeedId) (n : Nat) : Kin s (lookup ch f n t).1 := by
  unfold Machine.lookup
  dsimp only
  split
  · exact h
  · split
    · exact h
    · split
      · exact h
      · exact h.withCache fun ht => ht.answer _ _ _ _

theorem sendLookup (h : Kin s t) (ch : ChanId) (f : FeedId) (n : Nat) : Kin s (sendLookup ch f n t) := by
  unfold Machine.sendLookup handleAnswer
  dsimp only
  split
  · exact (h.lookup ch f n).frameReady ch f n
  · exact (h.lookup ch f n).frameFailed ch f n _
  · exact h.lookup ch f n
  · exact h.lookup ch f n

theorem sendLookups (h : Kin s t) (ch : ChanId) (f : FeedId) (l : List Nat) : Kin s (sendLookups ch f l t) :=
  h.trans (foldl (fun u n => by split <;> [exact (refl u).sendLookup ch f n; exact refl u]) l t)

theorem reportArrives (ch : ChanId) (f : FeedId) (n : Nat) (s : State) : Kin s (reportArrives ch f n s) := by
  unfold Machine.reportArrives
  split
  · exact refl s
  · dsimp only
    split
    · exact Kin.frameReady (.of_roster) ch f n
    · exact Kin.frameFailed (.of_roster) ch f n _

theorem sendRecord (h : Kin s t) (ch : ChanId) (r : PresRecord) : Kin s (sendRecord ch r t) := h.setChan .of_same

theorem repeatLast (h : Kin s t) (ch : ChanId) (f : FeedId) (n : Option Nat) (c : RepeatCause) :
    Kin s (repeatLast ch f n c t) := (h.sendRecord ch _).raise _ _

theorem presentSelection (h : Kin s t) (ch : ChanId) (sel : Selection) (c : RepeatCause) :
    Kin s (presentSelection ch sel c t) := by
  unfold Machine.presentSelection
  split
  · rename_i hr
    exact (h.withCache fun ht => ht.present hr).sendRecord ch _
  · exact h.repeatLast ch _ _ _

theorem presentActive (h : Kin s t) (ch : ChanId) : Kin s (presentActive ch t) := by
  unfold Machine.presentActive
  dsimp only
  split
  · exact h.presentSelection ch _ _
  · exact h.repeatLast ch _ _ _

theorem releasePins (h : Kin s t) (ch : ChanId) : Kin s (releasePins ch t) := h.withCache fun ht => ht.setPins ch _

theorem presentIdle (h : Kin s t) (ch : ChanId) : Kin s (presentIdle ch t) := by
  unfold Machine.presentIdle
  dsimp only
  split
  · exact h.sendRecord ch _
  · exact (h.releasePins ch).sendRecord ch _
  · split
    · exact h.presentSelection ch _ _
    · exact h.repeatLast ch _ _ _

theorem stepIdle (h : Kin s t) (ch : ChanId) : Kin s (stepIdle ch t) := by
  have hclear : Kin s (t.setChan ch { t.chan ch with jog := 0 }) := h.setChan .of_same
  unfold Machine.stepIdle
  dsimp only
  split
  · split
    · exact hclear.setChan .of_same
    · exact (hclear.setChan .of_same).sendLookup ch _ _
  · exact hclear

/-! ## The Frame Cache (R140 to R147) -/

theorem enterError (h : Kin s t) (f : FeedId) (n : Nat) (i : Option Nat) (c : StoreErrorCause) :
    Kin s (enterError f n i c t) := by
  unfold Machine.enterError
  split
  · exact h.trans (.of_roster)
  · exact h.trans (.of_roster)

theorem fillAccept (h : Kin s t) {k : Nat} {z : Fill} {x : Slot} (d : Fragment)
    (hx : t.cache.slots.find z.slot = some x) : Kin s (fillAccept k z x d t) := by
  have hown : (z.slot, x.feed, x.frame) ∈ slotTags t.cache.slots := mem_slotTags_of_find hx
  have hput : ∀ y : Slot, y.feed = x.feed → y.frame = x.frame →
      slotTags (t.cache.slots.put z.slot y) ⊆ slotTags t.cache.slots := fun y hf hn =>
    slotTags_put_subset (by rwa [hf, hn])
  let x' : Slot := { x with data := x.data ++ [d], victim := none }
  unfold Machine.fillAccept
  dsimp only
  split
  · split
    · exact h.withCache fun ht => (ht.mono (hput x' rfl rfl)).mono
        (slotTags_put_subset (List.mem_map_of_mem (a := (z.slot, x')) (SMap.mem_of_find (by simp [SMap.find_put, x']))))
    · exact (h.withCache fun ht => (ht.mono (hput x' rfl rfl)).mono (slotTags_del_subset _ _)).enterError ..
  · exact h.withCache fun ht => ht.mono (hput x' rfl rfl)

theorem fillBeat (h : Kin s t) (k : Nat) (r : StoreResult) (d : Fragment) : Kin s (fillBeat k r d t) := by
  unfold Machine.fillBeat
  split
  · exact h
  · split
    · exact h
    · rename_i z _ _ x hx
      have hport : Kin s { t with storePort := .read z.owner (z.base + z.next) } := h.trans (.of_roster)
      dsimp only
      split
      · exact hport.fillAccept d hx
      · unfold fillError
        dsimp only
        split
        · exact (hport.enterError ..).withCache id
        · exact (hport.enterError ..).withCache fun ht => ht.abort _ _

theorem timeOut (h : Kin s t) (ch : ChanId) (k : Nat) : Kin s (timeOut ch k t) := by
  unfold Machine.timeOut
  split
  · exact h
  · have habort : Kin s (State.setChan { t with cache := t.cache.abort k .timeout } ch
        { t.chan ch with preload := false }) := (h.withCache fun ht => ht.abort k _).setChan .of_same
    dsimp only
    split
    · exact habort
    · exact habort.raise _ _

theorem countTick (h : Kin s t) (ch : ChanId) : Kin s (countTick ch t) :=
  by
  have hage : Kin s { t with cache := t.cache.ageFills ch } := h.withCache id
  exact hage.trans (foldl (op := fun acc k => Machine.timeOut ch k acc) (fun u k => (refl u).timeOut ch k) _ _)

theorem tickCounted (ch : ChanId) (s : State) : Kin s (tickCounted ch s) := by
  unfold Machine.tickCounted
  split
  · exact Kin.countTick (.of_roster) ch
  · exact Kin.countTick (.of_roster) ch
  · exact refl s

theorem beforeTick (ch : ChanId) (s : State) : Kin s (beforeTick ch s) := by
  unfold Machine.beforeTick
  split
  · exact .of_roster
  · exact (refl s).countTick ch
  · exact .of_roster

theorem cacheNotice (f : FeedId) (s : State) : Kin s (cacheNotice f s) := by
  unfold Machine.cacheNotice
  split
  · exact refl s
  · exact Kin.withCache (.of_roster) fun ht => (ht.dropVictims _ _).loseFrame _ _

end Kin

/-! ## The other blocks -/

theorem expireWhere_roster (f : FeedId) (hit : Clip → Bool) (n : Option Nat) (s : State) :
    (expireWhere f hit n s).roster = s.roster := by
  refine foldl_keeps State.roster _ (fun u r => ?_) _ _
  split
  · unfold expireClip
    dsimp only
    split <;> rfl
  · rfl

theorem takeTail_roster (f : FeedId) (n : Nat) (s : State) : (takeTail f n s).roster = s.roster := by
  refine (foldl_keeps State.roster _ (fun u r => ?_) _ _).trans (expireWhere_roster ..)
  dsimp only
  split <;> rfl

theorem Ingested.roster {f : FeedId} (h : Ingested f s t) : t.roster = s.roster := by rw [h.eq]; rfl

namespace Kin

theorem frameStart (f : FeedId) (s : State) : Kin s (frameStart f s) := by
  unfold Machine.frameStart
  dsimp only
  split
  · exact refl s
  · exact refl s
  · split
    · exact .of_roster (startFrame_ingested f s).roster
    · exact refl s
  · split
    · exact .of_roster (startFrame_ingested f s).roster
    · exact (Kin.of_roster ((Ingested.refl f s).closeFrame _).roster).trans (.of_roster)

theorem fragment (f : FeedId) (d : Fragment) (s : State) : Kin s (fragment f d s) := by
  unfold Machine.fragment
  dsimp only
  split
  · exact refl s
  · split
    · exact .of_roster
    · split <;> exact .of_roster

theorem beat (r : StoreResult) (d : Fragment) (s : State) : Kin s (beat r d s) := by
  unfold Machine.beat moveFragment
  dsimp only
  split
  · exact .of_roster
  · unfold storeWrite
    dsimp only
    split
    · exact .of_roster
    · exact Kin.trans (.of_roster) (.of_roster ((Ingested.refl _ _).finishFrames).roster)
  · split
    · exact .of_roster
    · exact Kin.fillBeat (.of_roster) _ _ _

theorem damageArrives (f : FeedId) (n : Nat) (s : State) : Kin s (damageArrives f n s) := by
  unfold Machine.damageArrives damageTaken
  split
  · dsimp only
    split
    · exact .of_roster
    · split <;> exact .of_roster
  · exact refl s

end Kin

end Sys2Proof.Machine
end

section
/-!
PROOFS. The gangs under the operations that change a slave list: leaving, derivation, angles, and a channel that takes
or loses material (R74, R106 to R113, O58).
-/

-- Proofs checked in turn: side by side they need more threads than the memory limit of check.sh has room for.
set_option Elab.async false

namespace Sys2Proof.Machine

variable {s t u : State} {m ch : ChanId}

/-! ## Leaving a gang (R113) -/

theorem named_iff (q : Quad (List GangSlave)) (d : ChanId) : Named q d ↔ ∃ m, d ∈ (q.get m).map (·.ch) := by
  simp only [Named, List.mem_map]

/-- Slave lists that have only shrunk name no channel twice if they did not before. -/
theorem once_of_thins {p q : Quad (List GangSlave)}
    (h : ∀ k, ((q.get k).map (·.ch)).Sublist ((p.get k).map (·.ch)))
    (hn : (allChans.flatMap fun k => (p.get k).map (·.ch)).Nodup) :
    (allChans.flatMap fun k => (q.get k).map (·.ch)).Nodup := by
  refine hn.sublist ?_
  simp only [allChans, List.flatMap_cons, List.flatMap_nil]
  exact (h 0).append ((h 1).append ((h 2).append ((h 3).append (.refl _))))

/-- From `s` to `t` channel `ch` has left the gang of `m`, is no slave, and no other channel has changed. -/
structure Freed (m ch : ChanId) (s t : State) : Prop where
  gangs : t.gangs = s.gangs.set m ((s.gangs.get m).filter fun g => g.ch != ch)
  own : (t.chan ch).state ≠ .slave
  others : ∀ d, d ≠ ch → t.chan d = s.chan d
  tags : TagsOnce s.cache.slots → TagsOnce t.cache.slots

namespace Freed

variable (h : Freed m ch s t)
include h

theorem mem_get {k : ChanId} {g : GangSlave} :
    g ∈ t.gangs.get k ↔ g ∈ s.gangs.get k ∧ (k = m → g.ch ≠ ch) := by
  rw [h.gangs, Quad.get_set]
  split
  · rename_i e
    simp [e]
  · rename_i e
    simp [e]

theorem thins (k : ChanId) : ((t.gangs.get k).map (·.ch)).Sublist ((s.gangs.get k).map (·.ch)) := by
  rw [h.gangs, Quad.get_set]
  split
  · rename_i e
    exact e ▸ List.filter_sublist.map _
  · exact .refl _

theorem wholeBut {l : List ChanId} (hw : WholeBut l s) (hown : ∀ k, k ≠ m → ∀ g ∈ s.gangs.get k, g.ch ≠ ch) :
    WholeBut l t := by
  have hnamed : ∀ d, Named t.gangs d → Named s.gangs d := fun d ⟨k, g, hg, hd⟩ => ⟨k, g, (h.mem_get.1 hg).1, hd⟩
  refine ⟨once_of_thins h.thins hw.once, fun k hk hn => ?_, fun d hd => ?_⟩
  · refine hw.apart k (fun hnil => hk ?_) (hnamed k hn)
    have hthin := h.thins k
    rw [hnil] at hthin
    simpa using hthin
  · by_cases he : d = ch
    · subst he
      have hgone : ∀ k, ∀ g ∈ t.gangs.get k, g.ch ≠ d := fun k g hg => by
        obtain ⟨hs, hm⟩ := h.mem_get.1 hg
        by_cases hk : k = m
        · exact hm hk
        · exact hown k hk g hs
      exact ⟨⟨fun hs => absurd hs h.own, fun ⟨k, g, hg, hd⟩ => absurd hd (hgone k g hg)⟩,
        fun k g hg hd => absurd hd (hgone k g hg)⟩
    · rw [h.others d he]
      obtain ⟨hslave, honFeed⟩ := hw.fits d hd
      refine ⟨hslave.trans ⟨fun ⟨k, g, hg, hgd⟩ => ⟨k, g, h.mem_get.2 ⟨hg, fun _ => hgd ▸ he⟩, hgd⟩, hnamed d⟩,
        fun k g hg hgd => honFeed k g (h.mem_get.1 hg).1 hgd⟩

end Freed

/-- One slave `ch` of master `m` was acted on: it left, or every gang stayed as it was. -/
inductive Loosens (m ch : ChanId) (s t : State) : Prop where
  | freed (h : Freed m ch s t)
  | kin (h : Kin s t)

namespace Loosens

section

variable (h : Loosens m ch s t)
include h

theorem apart (ha : GangsApart s) : GangsApart t := by
  cases h with
  | freed h => exact fun k => (ha k).sublist ((h.thins k).cons_cons k)
  | kin h => exact h.kept.apart ha

theorem tags (ht : TagsOnce s.cache.slots) : TagsOnce t.cache.slots := by
  cases h with
  | freed h => exact h.tags ht
  | kin h => exact h.tags ht

theorem wholeBut {l : List ChanId} (hw : WholeBut l s) (hown : ∀ k, k ≠ m → ∀ g ∈ s.gangs.get k, g.ch ≠ ch) :
    WholeBut l t := by
  cases h with
  | freed h => exact h.wholeBut hw hown
  | kin h => exact h.wholeBut hw

theorem get_of_ne {k : ChanId} (hk : k ≠ m) : t.gangs.get k = s.gangs.get k := by
  cases h with
  | freed h => rw [h.gangs, Quad.get_set, if_neg hk]
  | kin h => rw [h.gangs]

/-- The other slaves of the list stay in it. -/
theorem keeps {g : GangSlave} (hg : g ∈ s.gangs.get m) (hne : g.ch ≠ ch) : g ∈ t.gangs.get m := by
  cases h with
  | freed h => exact h.mem_get.2 ⟨hg, fun _ => hne⟩
  | kin h => exact h.gangs ▸ hg

end

/-- Slaves of one master are acted on in turn. -/
theorem foldl {op : State → GangSlave → State} (hop : ∀ t g, Loosens m g.ch t (op t g)) {l : List GangSlave}
    (hl : ∀ g ∈ l, g ∈ s.gangs.get m) : Kept s (l.foldl op s) where
  apart ha := List.foldlRecOn l op (motive := GangsApart) ha fun t h g _ => (hop t g).apart h
  tags ht := (tagsDistinct_iff _).2 (List.foldlRecOn l op (motive := fun t => TagsOnce t.cache.slots)
    ((tagsDistinct_iff s).1 ht) fun t h g _ => (hop t g).tags h)
  whole hw := by
    have hs := gangsWhole_iff.1 hw
    refine gangsWhole_iff.2 (List.foldlRecOn l op
      (motive := fun t => WholeBut [] t ∧ ∀ k, k ≠ m → t.gangs.get k = s.gangs.get k) ⟨hs, fun _ _ => rfl⟩
      fun t h g hg => ?_).1
    obtain ⟨ht, hsame⟩ := h
    refine ⟨(hop t g).wholeBut ht fun k hk g' hg' he => ?_, fun k hk => ((hop t g).get_of_ne hk).trans (hsame k hk)⟩
    exact hk (entry_unique hs.once (hl g hg) (hsame k hk ▸ hg') he).1

end Loosens

/-! ## A channel outside the gangs that changes its material (R54, R74, R87) -/

namespace Kin

theorem changeMaterial (h : Kin s t) (hs : (s.chan ch).state ≠ .slave) (x : Option Material) :
    Kin s (changeMaterial ch x t) := by
  rw [changeMaterial_whole]
  exact h.trans ((Kin.of_roster).setFree (h.free hs) (h.free hs))

theorem dropMaterial (h : Kin s t) (hs : (s.chan ch).state ≠ .slave) : Kin s (dropMaterial ch t) :=
  (h.changeMaterial hs none).setFree hs (by simp [Channel.toIdle])

theorem enterIdle (h : Kin s t) (hs : (s.chan ch).state ≠ .slave) : Kin s (enterIdle ch t) := by
  have hdrop := h.dropMaterial hs
  unfold Machine.enterIdle
  dsimp only
  split
  · exact (hdrop.releasePins ch).setChan .of_same
  · exact hdrop

theorem loseWindow (h : Kin s t) (hs : (s.chan ch).state ≠ .slave) : Kin s (loseWindow ch t) :=
  (h.dropMaterial hs).raise _ _

end Kin

theorem slaveToIdle_freed (m ch : ChanId) (s : State) : Freed m ch s (slaveToIdle m ch s) := by
  obtain ⟨hgangs, -, -, hcache⟩ := enterIdle_keeps (leaveGang m ch s) ch
  refine ⟨hgangs, ?_, fun d hd => ?_, fun ht => ?_⟩
  · rw [slaveToIdle, enterIdle_chan, if_pos rfl]
    simp [Channel.toIdle]
  · rw [slaveToIdle, enterIdle_chan, if_neg hd, leaveGang, State.chan_setChan, if_neg hd]
    rfl
  · rw [slaveToIdle, hcache]
    split
    · exact TagsOnce.setPins ht ch []
    · exact ht

theorem loseSlave_freed (m : ChanId) (g : GangSlave) (s : State) : Freed m g.ch s (loseSlave m g s) := by
  obtain ⟨hgangs, hown, hothers, htags⟩ := slaveToIdle_freed m g.ch s
  exact ⟨hgangs, hown, hothers, htags⟩

theorem ungangSlave_freed (m : ChanId) (g : GangSlave) (s : State) : Freed m g.ch s (ungangSlave m g s) := by
  have hleft : ∀ d, d ≠ g.ch → (leaveGang m g.ch s).chan d = s.chan d := fun d hd => by
    rw [leaveGang, State.chan_setChan, if_neg hd]
    rfl
  unfold ungangSlave
  dsimp only
  split
  · obtain ⟨hown, hlost⟩ := loseWindow_does g.ch (leaveGang m g.ch s)
    refine ⟨hlost.gangs, ?_, fun d hd => (hlost.others d hd).trans (hleft d hd), fun ht => ?_⟩
    · rw [hown]
      simp [Channel.toIdle]
    · rw [hlost.cache]
      exact ht
  · refine ⟨rfl, ?_, fun d hd => ?_, id⟩
    · rw [State.chan_setChan, if_pos rfl]
      simp [Channel.toJog]
    · rw [State.chan_setChan, if_neg hd]
      exact hleft d hd

theorem deriveSlave_loosens (m : ChanId) (g : GangSlave) (s : State) : Loosens m g.ch s (deriveSlave m g s) := by
  unfold deriveSlave
  split
  · exact .freed (loseSlave_freed m g s)
  · split
    · exact .kin (.refl s)
    · exact .kin ((Kin.refl s).setChan .of_same)

namespace Kept

theorem windowLost (hs : (s.chan ch).state ≠ .slave) : Kept s (windowLost ch s) :=
  ((Kin.refl s).loseWindow hs).kept.trans
    (Loosens.foldl (fun t g => .freed (loseSlave_freed ch g t)) fun _ => id)

theorem derive (m : ChanId) (s : State) : Kept s (derive m s) :=
  Loosens.foldl (fun t g => deriveSlave_loosens m g t) fun _ => id

end Kept

theorem selectSlave_kin (g : GangSlave) (s : State) : Kin s (selectSlave g s) := by
  unfold selectSlave
  dsimp only
  split
  · exact .refl s
  · exact (Kin.refl s).setChan .of_same

theorem fetchSlave_kin (how : SlaveFetch) (g : GangSlave) (s : State) : Kin s (fetchSlave how g s) := by
  unfold fetchSlave
  dsimp only
  split
  · split <;> exact (Kin.refl s).sendLookups _ _ _
  · exact .refl s

theorem followMaster_kept (m : ChanId) (how : SlaveFetch) (s : State) : Kept s (followMaster m how s) :=
  (Kept.derive m s).trans (Kin.foldl (op := fun acc g => fetchSlave how g (selectSlave g acc))
    (fun t g => (selectSlave_kin g t).trans (fetchSlave_kin how g _)) _ _).kept

/-! ## Angle assignment (R111) -/

/-- The angles of a clip move slaves to other feeds, inside their gang. -/
theorem assignAngles_kept (m : ChanId) (id : Nat) (s : State) : Kept s (assignAngles m id s) := by
  cases hc : SMap.find s.clips id with
  | none =>
    have hnone : assignAngles m id s = s := by simp only [assignAngles, hc]
    rw [hnone]
    exact .refl s
  | some c =>
    have hnames : (assigned (s.gangs.get m) c.angles).map (·.ch) = (s.gangs.get m).map (·.ch) := assigned_ch _ _
    have hsame : (assignAngles m id s).gangs = s.gangs.set m (assigned (s.gangs.get m) c.angles) ∧
        (assignAngles m id s).cache.slots = s.cache.slots := by
      have hfold := foldl_keeps (fun u => (u.gangs, u.cache.slots)) (fun acc g => adoptAngle g acc) (fun u g => by
        obtain ⟨-, hgangs, -, hcache, -⟩ := adoptAngle_does u g
        rw [hgangs, hcache]) (assigned (s.gangs.get m) c.angles)
        { s with gangs := s.gangs.set m (assigned (s.gangs.get m) c.angles) }
      simp only [assignAngles, hc, withAngles_eq]
      simpa using hfold
    obtain ⟨hgangs, hslots⟩ := hsame
    have hmap : ∀ k, ((assignAngles m id s).gangs.get k).map (·.ch) = (s.gangs.get k).map (·.ch) := fun k => by
      rw [hgangs, Quad.get_set]
      split
      · rename_i e
        rw [hnames, e]
      · rfl
    refine ⟨fun ha k => hmap k ▸ ha k, fun hw => gangsWhole_iff.2 ?_, fun ht => ?_⟩
    · obtain ⟨honce, hapart, hfits⟩ := gangsWhole_iff.1 hw
      obtain ⟨-, hslaves, hothers, -⟩ := assignAngles_does s m id c hc
        ((List.nodup_flatMap.1 honce).1 m (mem_allChans m))
      have hnamed : ∀ d, Named (assignAngles m id s).gangs d ↔ Named s.gangs d := fun d => by
        simp only [named_iff, hmap]
      have honce' : (allChans.flatMap fun k => ((assignAngles m id s).gangs.get k).map (·.ch)).Nodup := by
        simp only [hmap]
        exact honce
      refine ⟨honce', fun k hk hn => hapart k (fun hnil => hk ?_) ((hnamed k).1 hn), fun d hd => ?_⟩
      · have hlen := congrArg List.length (hmap k)
        rw [hnil] at hlen
        simpa using hlen
      · obtain ⟨hslave, honFeed⟩ := hfits d hd
        by_cases hmem : d ∈ (assigned (s.gangs.get m) c.angles).map (·.ch)
        · obtain ⟨g, hg, rfl⟩ := List.mem_map.1 hmem
          have hentry : g ∈ (assignAngles m id s).gangs.get m := by
            rw [hgangs, Quad.get_set, if_pos rfl]
            exact hg
          obtain ⟨g₀, hg₀, he₀⟩ := List.mem_map.1 (hnames ▸ hmem)
          refine ⟨by rw [hslaves g hg, hnamed]; exact hslave, fun k g' hg' he => ?_⟩
          obtain ⟨-, rfl⟩ := entry_unique honce' hentry hg' he
          rw [hslaves g' hg]
          exact ⟨rfl, (honFeed m g₀ hg₀ he₀).2⟩
        · have hout : ∀ g ∈ s.gangs.get m, g.ch ≠ d := fun g hg he =>
            hmem (hnames ▸ he ▸ List.mem_map_of_mem hg)
          rw [hothers d hout]
          refine ⟨hslave.trans (hnamed d).symm, fun k g hg he => honFeed k g ?_ he⟩
          rw [hgangs, Quad.get_set] at hg
          split at hg
          · exact absurd (he ▸ List.mem_map_of_mem hg) hmem
          · exact hg
    · rw [tagsDistinct_iff, hslots]
      exact (tagsDistinct_iff s).1 ht

theorem assignOwnAngles_kept (ch : ChanId) (s : State) : Kept s (assignOwnAngles ch s) := by
  unfold assignOwnAngles
  split
  · exact .refl s
  · exact assignAngles_kept ch _ s

theorem assignOwnAngles_state (ch d : ChanId) (s : State) :
    ((assignOwnAngles ch s).chan d).state = (s.chan d).state := by
  unfold assignOwnAngles assignAngles
  split
  · rfl
  · split
    · rfl
    · refine (foldl_keeps (fun u : State => (u.chan d).state) _ (fun u g => ?_) _ _).trans rfl
      obtain ⟨hchan, -⟩ := adoptAngle_does u g
      simp only [hchan]
      split
      · rename_i e
        rw [e]
        rfl
      · rfl

/-! ## GANG (R106, R107) -/

/-- A named slave as it stands in SLAVE before its derivation: steps 1 to 3 of R107. -/
def enlisted (g : GangSlave) (s : State) : State :=
  (changeMaterial g.ch (some (.feed g.feed)) s).setChan g.ch
    { (changeMaterial g.ch (some (.feed g.feed)) s).chan g.ch with
      state := .slave, cueWait := none, atLive := false, atTail := false, damaged := false, idleSel := none }

theorem joinGang_kin (m : ChanId) (g : GangSlave) (s : State) :
    Kin (deriveSlave m g (enlisted g s)) (joinGang m g s) := by
  unfold joinGang
  dsimp only
  split
  · exact Kin.sendLookups (selectSlave_kin g _) _ _ _
  · exact .refl _

theorem enlisted_keeps (g : GangSlave) (s : State) :
    (enlisted g s).gangs = s.gangs ∧ (enlisted g s).cache = s.cache := by
  obtain ⟨hgangs, -, hcache, -⟩ := changeMaterial_keeps s g.ch (some (.feed g.feed))
  exact ⟨hgangs, hcache⟩

theorem enlisted_wholeBut {g : GangSlave} {l : List ChanId} (hw : WholeBut (g.ch :: l) s) (hg : g ∈ s.gangs.get m) :
    WholeBut l (enlisted g s) := by
  obtain ⟨hgangs, -⟩ := enlisted_keeps g s
  refine ⟨hgangs ▸ hw.once, hgangs ▸ hw.apart, fun d hd => ?_⟩
  rw [hgangs, enlisted, State.chan_setChan]
  split
  · rename_i e
    subst e
    refine ⟨⟨fun _ => ⟨m, g, hg, rfl⟩, fun _ => rfl⟩, fun k g' hg' he => ?_⟩
    obtain ⟨-, rfl⟩ := entry_unique hw.once hg hg' he
    rw [changeMaterial_chan, if_pos rfl]
    exact ⟨rfl, rfl⟩
  · rename_i e
    rw [changeMaterial_chan, if_neg e]
    exact hw.fits d (List.not_mem_cons_of_ne_of_not_mem e hd)

/-- The named slaves join in turn. -/
theorem joinGang_foldl {l : List GangSlave} (hw : WholeBut (l.map (·.ch)) s) (hl : ∀ g ∈ l, g ∈ s.gangs.get m)
    (hn : (l.map (·.ch)).Nodup) : WholeBut [] (l.foldl (fun acc g => joinGang m g acc) s) := by
  induction l generalizing s with
  | nil => exact hw
  | cons g l ih =>
    obtain ⟨hg, hl'⟩ := List.forall_mem_cons.1 hl
    obtain ⟨hfresh, hnl⟩ := List.nodup_cons.1 hn
    obtain ⟨hgangs, -⟩ := enlisted_keeps g s
    have hloosens := deriveSlave_loosens m g (enlisted g s)
    have hjoined : WholeBut (l.map (·.ch)) (joinGang m g s) := by
      refine (joinGang_kin m g s).wholeBut (hloosens.wholeBut (enlisted_wholeBut hw hg) fun k hk g' hg' he => ?_)
      rw [hgangs] at hg'
      exact hk (entry_unique hw.once hg hg' he).1
    refine ih hjoined (fun g' hg' => ?_) hnl
    rw [(joinGang_kin m g s).gangs]
    exact hloosens.keeps (hgangs ▸ hl' g' hg') fun he => hfresh (List.mem_map.2 ⟨g', hg', he⟩)

theorem joinGang_apart (m : ChanId) (g : GangSlave) (ha : GangsApart s) : GangsApart (joinGang m g s) := by
  obtain ⟨hgangs, -⟩ := enlisted_keeps g s
  exact (joinGang_kin m g s).kept.apart
    ((deriveSlave_loosens m g _).apart fun k => hgangs ▸ ha k)

theorem joinGang_tags (m : ChanId) (g : GangSlave) (ht : TagsOnce s.cache.slots) :
    TagsOnce (joinGang m g s).cache.slots := by
  obtain ⟨-, hcache⟩ := enlisted_keeps g s
  exact (joinGang_kin m g s).tags ((deriveSlave_loosens m g _).tags (hcache ▸ ht))

/-- A slave list that passes the checks of GANG leaves the gangs whole, but for the channels it names (R106). -/
theorem setGang_wholeBut {gs : List GangSlave} (hw : WholeBut [] s) (hn : (m :: gs.map (·.ch)).Nodup)
    (hm : ¬ Named s.gangs m) (hnil : s.gangs.get m = [])
    (hgs : ∀ g ∈ gs, ¬ Named s.gangs g.ch ∧ s.gangs.get g.ch = []) :
    WholeBut (gs.map (·.ch)) { s with gangs := s.gangs.set m gs } := by
  obtain ⟨hmaster, hslaves⟩ := List.nodup_cons.1 hn
  obtain ⟨hlists, hpairs⟩ := List.nodup_flatMap.1 hw.once
  have hnamed : ∀ d, Named (s.gangs.set m gs) d ↔ d ∈ gs.map (·.ch) ∨ Named s.gangs d := fun d => by
    simp only [named_iff, Quad.get_set]
    constructor
    · rintro ⟨k, hk⟩
      split at hk
      · exact .inl hk
      · exact .inr ⟨k, hk⟩
    · rintro (hd | ⟨k, hk⟩)
      · exact ⟨m, by rwa [if_pos rfl]⟩
      · refine ⟨k, ?_⟩
        rw [if_neg]
        · exact hk
        · rintro rfl
          simp [hnil] at hk
  have hfree : ∀ d ∈ gs.map (·.ch), ¬ Named s.gangs d ∧ s.gangs.get d = [] := List.forall_mem_map.2 hgs
  refine ⟨List.nodup_flatMap.2 ⟨fun k _ => ?_, ?_⟩, fun k hk hd => ?_, fun d hd => ?_⟩
  · show (((s.gangs.set m gs).get k).map (·.ch)).Nodup
    rw [Quad.get_set]
    split
    · exact hslaves
    · exact hlists k (mem_allChans k)
  · refine (hpairs.and (by decide : allChans.Nodup)).imp ?_
    rintro a b ⟨hab, hne⟩ d hda hdb
    simp only [Quad.get_set] at hda hdb
    split at hda
    · rw [if_neg (by rintro rfl; exact hne ‹_›)] at hdb
      exact (hfree d hda).1 ((named_iff _ _).2 ⟨b, hdb⟩)
    · split at hdb
      · exact (hfree d hdb).1 ((named_iff _ _).2 ⟨a, hda⟩)
      · exact hab hda hdb
  · simp only [Quad.get_set] at hk
    rcases (hnamed k).1 hd with hin | hin
    · rw [if_neg (by rintro rfl; exact hmaster hin)] at hk
      exact hk (hfree k hin).2
    · split at hk
      · rename_i e
        exact hm (e ▸ hin)
      · exact hw.apart k hk hin
  · obtain ⟨hslave, honFeed⟩ := hw.fits d List.not_mem_nil
    refine ⟨hslave.trans (by simp [hnamed, hd]), fun k g hg he => ?_⟩
    simp only [Quad.get_set] at hg
    split at hg
    · exact absurd (he ▸ List.mem_map_of_mem hg) hd
    · exact honFeed k g hg he

/-! ## Cues and cue lists (R75 to R87, R118 to R130) -/

namespace Kept

theorem cue (hs : (s.chan ch).state ≠ .slave) (f : FeedId) (w : Window) (e : Nat) (r : Bool) :
    Kept s (cue ch f w e r s) := by
  have hplaced : Kin s (s.setChan ch ((s.chan ch).cued f w e)) :=
    (Kin.refl s).setFree hs (by simp [Channel.cued])
  exact ((hplaced.sendLookups ch f _).kept.trans (assignOwnAngles_kept ch _)).trans (followMaster_kept ch _ _)

theorem goLive (hs : (s.chan ch).state ≠ .slave) (f : FeedId) (w : Window) : Kept s (goLive ch f w s).state := by
  have hplaced : Kin s ((changeMaterial ch (some (.feed f)) s).setChan ch
      (((changeMaterial ch (some (.feed f)) s).chan ch).goneLive f w)) :=
    ((Kin.refl s).changeMaterial hs _).setFree hs (by simp [Channel.goneLive])
  exact (hplaced.sendLookups ch f _).kept.trans (followMaster_kept ch _ _)

theorem slaveToIdle {g : GangSlave} (h : masterOf s ch = some (m, g)) : Kept s (slaveToIdle m ch s) := by
  obtain ⟨hmem, rfl⟩ := masterOf_mem h
  exact Loosens.foldl (op := fun acc g => Machine.slaveToIdle m g.ch acc) (l := [g])
    (fun t g => .freed (slaveToIdle_freed m g.ch t)) (by simpa using hmem)

theorem eject (ch : ChanId) (s : State) : Kept s (eject ch s) := by
  unfold Machine.eject
  split
  · exact .refl s
  · rename_i hslave
    split
    · rename_i hm
      exact slaveToIdle hm
    · rename_i hm
      obtain ⟨hgangs, -, -, hcache⟩ := enterIdle_keeps s ch
      refine ⟨fun ha k => hgangs ▸ ha k, fun hw => ?_, fun ht => (tagsDistinct_iff _).2 ?_⟩
      · have hsome := (hw.slave ch).1 hslave
        simp [hm] at hsome
      · rw [hcache]
        split
        · exact TagsOnce.setPins ((tagsDistinct_iff s).1 ht) ch []
        · exact (tagsDistinct_iff s).1 ht
  · rename_i hslave
    exact ((Kin.refl s).enterIdle hslave).kept.trans
      (Loosens.foldl (fun t g => .freed (slaveToIdle_freed ch g.ch t)) fun _ => id)

end Kept

theorem takeEntry_kin (hs : (s.chan ch).state ≠ .slave) (passed : List CueEntry) (e : CueEntry)
    (rest : List CueEntry) : Kin s (takeEntry ch passed e rest s) := by
  obtain ⟨m, hm⟩ := takeEntry_eq ch passed e rest s
  rw [hm]
  exact Kin.setFree .of_roster hs hs

theorem passWhole_kin (ch : ChanId) (s : State) : Kin s (passWhole ch s) := by
  obtain ⟨m, hm⟩ := passAll_eq ch (s.lists.get ch) (s.setList ch [])
  rw [passWhole, hm]
  exact .of_roster

namespace Kept

theorem takeCue (hs : (s.chan ch).state ≠ .slave) (passed : List CueEntry) (e : CueEntry) (c : Clip)
    (rest : List CueEntry) (w : Window) : Kept s (takeCue ch passed e c rest w s).state := by
  have htaken := (takeEntry_kin hs passed e rest).raise ch.val
    (.clipTaken e.clip (c.entryIn (s.feed c.feed) (decide (e.target c < 0)) w) .take rest.length)
  exact htaken.kept.trans (cue (htaken.free hs) ..)

theorem takeRunning (hs : (s.chan ch).state ≠ .slave) (passed : List CueEntry) (e : CueEntry) (c : Clip)
    (rest : List CueEntry) (w : Window) : Kept s (takeRunning ch passed e c rest w s).state := by
  have htaken := takeEntry_kin hs passed e rest
  have hjumped : ∀ entry v, Kin s ((takeEntry ch passed e rest s).setChan ch
      (((takeEntry ch passed e rest s).chan ch).jumped c.feed w entry v)) := fun entry v =>
    htaken.setFree hs (htaken.free hs)
  exact ((hjumped _ _).kept.trans (assignOwnAngles_kept ch _)).trans (((Kin.refl _).sendLookups ch _ _).raise _ _).kept

theorem advanceNext (hs : (s.chan ch).state ≠ .slave) (b : WindowEnd) (passed : List CueEntry) (e : CueEntry) (c : Clip)
    (rest : List CueEntry) : Kept s (advanceNext ch b passed e c rest s) := by
  have htaken := takeEntry_kin hs passed e rest
  have hassigned := htaken.kept.trans (assignOwnAngles_kept ch _)
  have hfree : ((assignOwnAngles ch (takeEntry ch passed e rest s)).chan ch).state ≠ .slave := by
    rw [assignOwnAngles_state]
    exact htaken.free hs
  unfold Machine.advanceNext
  dsimp only
  split
  · exact hassigned.trans (windowLost hfree)
  · exact hassigned.trans (((Kin.refl _).setFree hfree (x := Channel.advanced _ _ _ _) hfree).raise _ _).kept

/-! ## The tick (R51, R60 to R70) -/

theorem nextEnd (hs : (s.chan ch).state ≠ .slave) (w : Window) (e : WindowEnd) : Kept s (nextEnd ch w e s) := by
  unfold Machine.nextEnd
  split
  · exact advanceNext hs ..
  · have hpassed := passWhole_kin ch s
    exact ((hpassed.setFree hs (by simp)).raise _ _).kept

end Kept

theorem stopEnd_kin (hs : (s.chan ch).state ≠ .slave) (w : Window) (e : WindowEnd) : Kin s (stopEnd ch w e s) :=
  ((Kin.refl s).setFree hs (by simp)).raise _ _

theorem setAtLive_kin (ch : ChanId) (n : Nat) (s : State) : Kin s (setAtLive ch n s) := by
  have hset : Kin s (s.setChan ch { s.chan ch with atLive := true }) := (Kin.refl s).setChan .of_same
  unfold setAtLive
  dsimp only
  split
  · exact hset
  · exact hset.raise _ _

theorem setAtTail_kin (ch : ChanId) (n : Nat) (s : State) : Kin s (setAtTail ch n s) := by
  have hset : Kin s (s.setChan ch { s.chan ch with atTail := true }) := (Kin.refl s).setChan .of_same
  unfold setAtTail
  dsimp only
  split
  · exact hset
  · exact hset.raise _ _

theorem heldState_ne_slave {x : Channel} (h : x.state ≠ .slave) : x.heldState ≠ .slave := by
  unfold Channel.heldState
  split
  · decide
  · exact h

namespace Kept

theorem clipBoundEnd (hs : (s.chan ch).state ≠ .slave) (w : Window) (e : WindowEnd) (q : Int) (mode : EndMode) :
    Kept s (clipBoundEnd ch w e q mode s) := by
  have hruns : Kept s (match mode with
      | .stop => stopEnd ch w e s
      | .loop => s.setChan ch { s.chan ch with pos := w.wrap q }
      | .next => Machine.nextEnd ch w e s) := by
    cases mode with
    | stop => exact (stopEnd_kin hs w e).kept
    | loop => exact ((Kin.refl s).setChan .of_same).kept
    | next => exact nextEnd hs w e
  unfold Machine.clipBoundEnd
  dsimp only
  split
  · exact hruns
  · exact hruns
  · exact (stopEnd_kin hs w e).kept
  · exact ((Kin.refl s).setChan .of_same).kept

theorem settle (hs : (s.chan ch).state ≠ .slave) (w : Window) (q : Int) : Kept s (settle ch w q s) := by
  have hmove : ∀ p, Kin s (s.setChan ch { s.chan ch with pos := p }) := fun p => (Kin.refl s).setChan .of_same
  unfold Machine.settle
  split
  · unfold settleInside
    dsimp only
    split
    · exact ((hmove _).trans (setAtLive_kin ch _ _)).kept
    · exact (hmove _).kept
  · split
    · exact clipBoundEnd hs ..
    · split
      · have hlive := setAtLive_kin ch w.hi s
        exact (hlive.setFree hs (heldState_ne_slave (hlive.free hs))).kept
      · exact ((setAtTail_kin ch w.lo s).setChan .of_same).kept

theorem selectAndFetch (ch : ChanId) (w : Window) (s : State) : Kept s (selectAndFetch ch w s) :=
  (((Kin.refl s).setChan .of_same).kept.trans (derive ch _)).trans ((Kin.refl _).sendLookups ch _ _).kept

theorem stepActive (hs : (s.chan ch).state ≠ .slave) : Kept s (stepActive ch s) := by
  unfold Machine.stepActive
  split
  · exact windowLost hs
  · rename_i w _
    dsimp only
    have hraw : Kin s (s.setChan ch { (rawStep s.curve (s.chan ch)
        ((s.feed (feedOfChannel s ch)).head.getD 0)).1 with window := some w }) := by
      rw [rawStep_eq]
      exact (Kin.refl s).setChan .of_same
    have hsettled := hraw.kept.trans (settle (hraw.free hs) w (rawStep s.curve (s.chan ch)
      ((s.feed (feedOfChannel s ch)).head.getD 0)).2)
    split
    · exact hsettled
    · exact (hsettled.trans ((Kin.refl _).setChan .of_same).kept).trans (selectAndFetch ch _ _)

theorem stepSlave (ch : ChanId) (s : State) : Kept s (stepSlave ch s) := by
  have hclear : Kin s (s.setChan ch { s.chan ch with jog := 0 }) := (Kin.refl s).setChan .of_same
  unfold Machine.stepSlave
  dsimp only
  split
  · exact hclear.kept
  · exact hclear.kept.trans (selectAndFetch ch _ _)

theorem presentAndStep (ch : ChanId) (s : State) : Kept s (presentAndStep ch s) := by
  have hshown := (Kin.refl s).presentActive ch
  unfold Machine.presentAndStep
  split
  · exact ((Kin.refl s).setChan .of_same).kept
  · split
    · exact (((Kin.refl s).presentIdle ch).stepIdle ch).kept
    · exact hshown.kept.trans (stepSlave ch _)
    · rename_i hslave
      exact hshown.kept.trans (stepActive (hshown.free hslave))

theorem outputTick (ch : ChanId) (s : State) : Kept s (outputTick ch s) := by
  have hpanel : ∀ u, Kept u (tickPanel ch u) := fun u => by
    unfold tickPanel
    split
    · exact (Kin.of_roster).kept
    · exact .refl u
  exact ((Kin.beforeTick ch s).kept.trans (presentAndStep ch _)).trans (hpanel _)

end Kept

end Sys2Proof.Machine
end

section
/-!
PROOFS. Every command and every event keeps the gangs and the tags whole (O58).
-/

-- Proofs checked in turn: side by side they need more threads than the memory limit of check.sh has room for.
set_option Elab.async false

namespace Sys2Proof.Machine

namespace Kept

variable {s t u : State} {ch : ChanId}

/-! ## The reply and the checks of a command (R76, R191, R192) -/

/-- An operation that leaves the gangs, the channels and the slots. -/
theorem of_roster (h : t.roster = s.roster := by rfl) : Kept s t := (Kin.of_roster h).kept

theorem replyWith (kind tag : Byte) {r : CmdResult} (h : Kept s r.state) : Kept s (replyWith kind tag r) :=
  h.trans .of_roster

theorem runCommand {α : Type} (kind tag : Byte) {parsed : Option α} {act : α → State → CmdResult}
    (ha : ∀ a, Kept s (act a s).state) : Kept s (runCommand kind tag parsed act s) := by
  unfold Machine.runCommand
  refine Kept.replyWith kind tag ?_
  split
  · exact .refl s
  · exact ha _

theorem withEngaged (n : Nat) {act : ChanId → CmdResult} (ha : ∀ ch, Kept s (act ch).state) :
    Kept s (withEngaged n s act).state := by
  unfold Machine.withEngaged
  split
  · exact .refl s
  · split <;> [exact .refl s; exact ha _]

theorem withFreeChannel (n : Nat) {act : ChanId → CmdResult}
    (ha : ∀ ch, (s.chan ch).state ≠ .slave → Kept s (act ch).state) : Kept s (withFreeChannel n s act).state :=
  withEngaged n fun ch => by
    split
    · exact .refl s
    · exact ha ch ‹_›

theorem withMaterial (n : Nat) {act : ChanId → CmdResult}
    (ha : ∀ ch, (s.chan ch).state ≠ .slave → Kept s (act ch).state) : Kept s (withMaterial n s act).state :=
  withFreeChannel n fun ch hs => by split <;> [exact .refl s; exact ha ch hs]

/-! ## Engagement (R180 to R187) -/

theorem cmdSetStore (size mode : Option Nat) (s : State) : Kept s (cmdSetStore size mode s).state := by
  unfold Machine.cmdSetStore
  split
  · exact .refl s
  · split <;> [exact .refl s; exact .of_roster]

theorem cmdSetFeed (n : Nat) (x : FeedFields) (s : State) : Kept s (cmdSetFeed n x s).state := by
  unfold Machine.cmdSetFeed
  split
  · exact .refl s
  · dsimp only
    split
    · exact .refl s
    · split
      · exact .refl s
      · refine of_roster ?_
        show (handTail _ _ _).roster = _
        unfold handTail
        split
        · rfl
        · exact takeTail_roster ..

theorem cmdEngage (s : State) : Kept s (cmdEngage s).state := by
  unfold Machine.cmdEngage
  split
  · exact .refl s
  · split
    · exact .refl s
    · refine of_roster ?_
      rw [engageFeeds_eq]
      rfl

/-- A part without gangs, slaves and slots is whole. -/
theorem of_empty (hg : ∀ m, t.gangs.get m = []) (hc : ∀ d, (t.chan d).state ≠ .slave) (hs : t.cache.slots = []) :
    Kept s t where
  apart _ m := by simp [hg]
  whole _ := gangsWhole_iff.2
    { once := by simp [hg, allChans]
      apart := fun m hm => absurd (hg m) hm
      fits := fun d _ => ⟨⟨fun h => absurd h (hc d), fun ⟨m, g, hm, _⟩ => by simp [hg] at hm⟩,
        fun m g hm => by simp [hg] at hm⟩ }
  tags _ := by simp [TagsDistinct, hs]

theorem cmdDisengage (s : State) : Kept s (cmdDisengage s).state := by
  show Kept s (if s.engaged = .engaged then disengageAll s else s)
  split
  · obtain ⟨u, v, hparts, ⟨m, qs, hu, -⟩, hchan, ⟨fs, cs, k, hv⟩, -⟩ := disengageAll_parts s
    have hgangs : v.gangs = Quad.all [] := by rw [hv, hu]
    have hchans : v.chans = u.chans := by rw [hv]
    rw [hparts]
    refine of_empty (fun m => ?_) (fun d => ?_) rfl
    · show v.gangs.get m = []
      rw [hgangs, Quad.get_all]
    · show (v.chan d).state ≠ .slave
      rw [State.chan_congr hchans, hchan]
      simp [Channel.stopped, Channel.reset]
  · exact .refl s

theorem hardwareReset (l : PanelLevels) (s : State) : Kept s (hardwareReset l s) := by
  refine of_empty (fun m => Quad.get_all _ m) (fun d => ?_) rfl
  show ((Quad.all Channel.reset).get d).state ≠ .slave
  rw [Quad.get_all]
  simp [Channel.reset]

/-! ## Clips, marks and notices (R29 to R42, R196 to R199) -/

theorem markRefused (n : Nat) (side : MarkSide) (st : Status) (s : State) :
    Kept s (markRefused n side st s).state := .of_roster

theorem cmdMarkIn (n : Nat) (s : State) : Kept s (cmdMarkIn n s).state := by
  unfold Machine.cmdMarkIn
  split
  · exact .refl s
  · split
    · unfold markInAgain
      split
      · exact markRefused ..
      · exact .of_roster
    · unfold markInNew
      split
      · exact markRefused ..
      · split
        · exact markRefused ..
        · exact .of_roster

theorem cmdMarkOut (n : Nat) (s : State) : Kept s (cmdMarkOut n s).state := by
  unfold Machine.cmdMarkOut
  split
  · exact .refl s
  · split
    · unfold markOutClose
      split
      · exact markRefused ..
      · exact .of_roster
    · unfold markOutNew
      split
      · exact markRefused ..
      · split
        · exact markRefused ..
        · exact .of_roster

theorem cmdMakeClip (n i o : Nat) (s : State) : Kept s (cmdMakeClip n i o s).state := by
  unfold Machine.cmdMakeClip
  split
  · exact .refl s
  · split
    · exact .refl s
    · split <;> [exact .refl s; exact .of_roster]

theorem cmdTrimClip (id : Nat) (i o : Option Nat) (s : State) : Kept s (cmdTrimClip id i o s).state := by
  unfold Machine.cmdTrimClip
  split
  · exact .refl s
  · split
    · exact .refl s
    · split
      · exact .refl s
      · split
        · exact .refl s
        · unfold trimClip
          dsimp only
          split
          · exact .of_roster
          · refine of_roster ?_
            simp only [done]
            split <;> rfl

theorem cmdSetClip (id : Nat) (x : ClipFields) (s : State) : Kept s (cmdSetClip id x s).state := by
  unfold Machine.cmdSetClip
  split
  · exact .refl s
  · split
    · split <;> [exact .refl s; exact .of_roster]
    · exact .refl s

theorem cmdDeleteClip (id : Nat) (s : State) : Kept s (cmdDeleteClip id s).state := by
  unfold Machine.cmdDeleteClip
  split
  · exact .refl s
  · split
    · exact .refl s
    · split <;> [exact .refl s; exact .of_roster]

theorem cmdReadClip (id : Nat) (s : State) : Kept s (cmdReadClip id s).state := by
  unfold Machine.cmdReadClip
  split
  · exact .refl s
  · split <;> exact .refl s

theorem cmdListClips (first n : Nat) (s : State) : Kept s (cmdListClips first n s).state := by
  unfold Machine.cmdListClips
  split <;> exact .refl s

theorem cmdRestartFeed (n : Nat) (s : State) : Kept s (cmdRestartFeed n s).state := by
  unfold Machine.cmdRestartFeed
  split
  · exact .refl s
  · split
    · exact .refl s
    · exact of_roster (expireWhere_roster ..)

theorem cmdReadFeed (n : Nat) (s : State) : Kept s (cmdReadFeed n s).state := by
  unfold Machine.cmdReadFeed
  split <;> exact .refl s

theorem cmdSetNotices (c u on : Nat) (s : State) : Kept s (cmdSetNotices c u on s).state := by
  unfold Machine.cmdSetNotices
  split
  · refine of_roster (foldl_keeps State.roster _ (fun v k => ?_) _ _)
    unfold enableCell
    dsimp only
    split
    · rfl
    · split <;> rfl
  · exact .refl s

theorem cmdAckNotice (c u : Nat) (s : State) : Kept s (cmdAckNotice c u s).state := by
  unfold Machine.cmdAckNotice
  split
  · exact .refl s
  · exact of_roster (foldl_keeps State.roster ackCell (fun _ _ => rfl) _ _)

theorem cmdReadNotices (n : Nat) (s : State) : Kept s (cmdReadNotices n s).state := by
  unfold Machine.cmdReadNotices
  split <;> exact .refl s

theorem cmdSetPanel (x : PanelFields) (s : State) : Kept s (cmdSetPanel x s).state := by
  unfold Machine.cmdSetPanel
  split <;> [exact .refl s; exact .of_roster]

/-! ## Channels and gangs (R76 to R88, R106, R115) -/

theorem cmdSetChannel (n : Nat) (x : ChanFields) (s : State) : Kept s (cmdSetChannel n x s).state := by
  unfold Machine.cmdSetChannel
  split
  · exact .refl s
  · split
    · exact .refl s
    · split
      · exact .refl s
      · exact ((Kin.refl s).setChan .of_same).kept

theorem cmdReadChannel (n : Nat) (s : State) : Kept s (cmdReadChannel n s).state := by
  unfold Machine.cmdReadChannel
  split
  · exact .refl s
  · refine of_roster ?_
    simp only [done]
    split <;> rfl

/-- A channel outside the gangs is rewritten and stays outside. -/
theorem rewritten (hs : (s.chan ch).state ≠ .slave) {x : Channel} (hx : x.state ≠ .slave) : Kept s (s.setChan ch x) :=
  ((Kin.refl s).setFree hs hx).kept

theorem cmdPlay (n : Nat) (v : Option Int) (s : State) : Kept s (cmdPlay n v s).state :=
  withMaterial n fun _ hs => rewritten hs (by simp)

theorem cmdShuttle (n : Nat) (l : Int) (s : State) : Kept s (cmdShuttle n l s).state :=
  withMaterial n fun _ hs => rewritten hs (by simp)

theorem cmdStill (n : Nat) (s : State) : Kept s (cmdStill n s).state :=
  withMaterial n fun _ hs => rewritten hs (by simp [Channel.toJog])

theorem cmdStep (n : Nat) (c : Int) (s : State) : Kept s (cmdStep n c s).state :=
  withMaterial n fun _ hs => rewritten hs (by simp [Channel.toJog])

/-- A channel takes other material and is then cued on it. -/
theorem changeAndCue (hs : (s.chan ch).state ≠ .slave) (m : Option Material) (f : FeedId) (w : Window) (e : Nat)
    (r : Bool) : Kept s (Machine.cue ch f w e r (changeMaterial ch m s)) := by
  have hchanged := (Kin.refl s).changeMaterial hs m
  exact hchanged.kept.trans (cue (hchanged.free hs) ..)

theorem cmdCueClip (n id : Nat) (s : State) : Kept s (cmdCueClip n id s).state :=
  withFreeChannel n fun _ hs => by
    split
    · exact .refl s
    · split
      · exact .refl s
      · split
        · exact .refl s
        · split
          · exact .refl s
          · exact changeAndCue hs ..

theorem cmdCueFeed (n f r v : Nat) (s : State) : Kept s (cmdCueFeed n f r v s).state :=
  withFreeChannel n fun _ hs => by
    split
    · split
      · exact .refl s
      · exact changeAndCue hs ..
    · exact .refl s

theorem cmdGoLive (n : Nat) (f : Option Nat) (s : State) : Kept s (cmdGoLive n f s).state :=
  withFreeChannel n fun _ hs => by
    split
    · exact .refl s
    · split
      · exact .refl s
      · split
        · exact .refl s
        · exact goLive hs ..

theorem cmdEject (n : Nat) (s : State) : Kept s (cmdEject n s).state := withEngaged n fun ch => eject ch s

theorem cmdTakeNext (n : Nat) (s : State) : Kept s (cmdTakeNext n s).state :=
  withMaterial n fun _ hs => by
    split
    · exact .refl s
    · split
      · exact .refl s
      · split
        · exact takeRunning hs ..
        · exact takeRunning hs ..
        · exact takeCue hs ..

/-- A slave list that passes the checks of GANG joins (R106, R107). -/
theorem joinAll {m : ChanId} {gs : List GangSlave} (hn : (m :: gs.map (·.ch)).Nodup) (hm : ¬ Named s.gangs m)
    (hnil : s.gangs.get m = []) (hgs : ∀ g ∈ gs, ¬ Named s.gangs g.ch ∧ s.gangs.get g.ch = []) :
    Kept s (gs.foldl (fun acc g => joinGang m g acc) { s with gangs := s.gangs.set m gs }) := by
  refine ⟨fun ha => ?_, fun hw => gangsWhole_iff.2 ?_, fun ht => (tagsDistinct_iff _).2 ?_⟩
  · refine List.foldlRecOn gs _ (motive := GangsApart) (fun k => ?_) fun t h g _ => joinGang_apart m g h
    show (k :: (Quad.get (s.gangs.set m gs) k).map (·.ch)).Nodup
    rw [Quad.get_set]
    split
    · rename_i e
      exact e ▸ hn
    · exact ha k
  · exact joinGang_foldl (setGang_wholeBut (gangsWhole_iff.1 hw) hn hm hnil hgs) (fun g hg => by simpa using hg)
      (List.nodup_cons.1 hn).2
  · exact List.foldlRecOn gs _ (motive := fun t : State => TagsOnce t.cache.slots) ((tagsDistinct_iff s).1 ht)
      fun t h g _ => joinGang_tags m g h

theorem cmdGang (n : Nat) (l : List (Nat × Nat × Int)) (s : State) : Kept s (cmdGang n l s).state := by
  unfold Machine.cmdGang
  split
  · split
    · exact .refl s
    · split
      · exact .refl s
      · split
        · exact .refl s
        · split
          · exact .refl s
          · split
            · exact .refl s
            · split
              · exact .refl s
              · rename_i m gs _ _ _ hnodup _ hmaster hslaves _
                obtain ⟨hnone, hnil⟩ := not_or.1 hmaster
                refine joinAll (not_not.1 hnodup) (fun h => hnone ((masterOf_isSome_iff s m).2 h)) (not_not.1 hnil)
                  fun g hg => ?_
                have hno : isGanged s g.ch = false := by
                  simpa using List.any_eq_false.1 (Bool.eq_false_iff.2 hslaves) g hg
                simpa [isGanged, masterOf_none_iff] using hno
  · exact .refl s

theorem cmdUngang (n : Nat) (s : State) : Kept s (cmdUngang n s).state :=
  withEngaged n fun ch => by
    split
    · exact .refl s
    · rename_i m gs hnames
      refine Loosens.foldl (fun t g => .freed (ungangSlave_freed m g t)) fun g hg => ?_
      unfold ungangNames at hnames
      split at hnames
      · rename_i hm
        cases hnames
        rw [List.mem_singleton.1 hg]
        exact (masterOf_mem hm).1
      · split at hnames
        · cases hnames
        · cases hnames
          exact hg

/-! ## Cue lists (R119 to R123) -/

theorem cmdListAppend (n id : Nat) (v : Option Int) (s : State) : Kept s (cmdListAppend n id v s).state := by
  unfold Machine.cmdListAppend
  split
  · exact .refl s
  · split
    · exact .refl s
    · split <;> [exact .refl s; exact .of_roster]

theorem cmdListInsert (n pos id : Nat) (v : Option Int) (s : State) : Kept s (cmdListInsert n pos id v s).state := by
  unfold Machine.cmdListInsert
  split
  · exact .refl s
  · split
    · exact .refl s
    · split <;> [exact .refl s; exact .of_roster]

theorem cmdListRemove (n pos : Nat) (s : State) : Kept s (cmdListRemove n pos s).state := by
  unfold Machine.cmdListRemove
  split
  · exact .refl s
  · split <;> [exact .refl s; exact .of_roster]

theorem cmdListClear (n : Nat) (s : State) : Kept s (cmdListClear n s).state := by
  unfold Machine.cmdListClear
  split
  · exact .refl s
  · exact of_roster (foldl_keeps State.roster (fun acc (e : CueEntry) => releaseClip e.clip acc) (fun _ _ => rfl) _ _)

theorem cmdReadList (n : Nat) (s : State) : Kept s (cmdReadList n s).state := by
  unfold Machine.cmdReadList
  split <;> exact .refl s

/-! ## Panel lines (R173 to R178) -/

theorem jogLines (a b : Level) (s : State) : Kept s (jogLines a b s) := by
  have hcount : ∀ (x : Channel) (takeover : Bool) (n : Int), x.Like (x.takeCount takeover n) := fun x takeover n => by
    unfold Channel.takeCount
    split
    · exact .refl x
    · exact .refl x
    · exact .of_same
    · rename_i hslave _
      split
      · exact .of_free hslave (by simp [Channel.toJog])
      · exact .of_same
  unfold Machine.jogLines
  dsimp only
  split
  · exact .of_roster
  · exact ((Kin.refl s).setChan (hcount _ _ _)).kept.trans .of_roster

theorem pushEdge (l : PushLine) (s : State) : Kept s (pushEdge l s) := by
  have hset : ∀ p, Kept s { s with panel := p } := fun p => .of_roster
  unfold Machine.pushEdge
  dsimp only
  split
  · exact .refl s
  · split
    · exact hset _
    · unfold edgeAction
      split
      · exact (hset _).trans (cmdMarkIn ..)
      · exact (hset _).trans (cmdMarkOut ..)
      · split
        · exact (hset _).trans (cmdPlay ..)
        · exact (hset _).trans (cmdTakeNext ..)

/-! ## The decoder and the link (R189 to R193) -/

/-- Every command the decoder takes keeps the gangs and the tags. -/
theorem runFrame (f : LinkFrame) (s : State) : Kept s (runFrame f s) := by
  unfold Machine.runFrame
  split
  · exact runCommand _ _ fun _ => cmdSetStore ..
  · exact runCommand _ _ fun _ => cmdSetFeed ..
  · exact runCommand _ _ fun _ => cmdSetChannel ..
  · exact runCommand _ _ fun _ => .of_roster
  · exact runCommand _ _ fun _ => cmdSetPanel ..
  · exact runCommand _ _ fun _ => cmdSetNotices ..
  · exact runCommand _ _ fun _ => cmdEngage s
  · exact runCommand _ _ fun _ => cmdDisengage s
  · exact runCommand _ _ fun _ => cmdRestartFeed ..
  · exact runCommand _ _ fun _ => cmdCueClip ..
  · exact runCommand _ _ fun _ => cmdCueFeed ..
  · exact runCommand _ _ fun _ => cmdPlay ..
  · exact runCommand _ _ fun _ => cmdShuttle ..
  · exact runCommand _ _ fun _ => cmdStill ..
  · exact runCommand _ _ fun _ => cmdStep ..
  · exact runCommand _ _ fun _ => cmdGoLive ..
  · exact runCommand _ _ fun _ => cmdEject ..
  · exact runCommand _ _ fun _ => cmdTakeNext ..
  · exact runCommand _ _ fun _ => cmdGang ..
  · exact runCommand _ _ fun _ => cmdUngang ..
  · exact runCommand _ _ fun _ => cmdMarkIn ..
  · exact runCommand _ _ fun _ => cmdMarkOut ..
  · exact runCommand _ _ fun _ => cmdMakeClip ..
  · exact runCommand _ _ fun _ => cmdTrimClip ..
  · exact runCommand _ _ fun _ => cmdSetClip ..
  · exact runCommand _ _ fun _ => cmdDeleteClip ..
  · exact runCommand _ _ fun _ => cmdReadClip ..
  · exact runCommand _ _ fun _ => cmdListClips ..
  · exact runCommand _ _ fun _ => cmdListAppend ..
  · exact runCommand _ _ fun _ => cmdListInsert ..
  · exact runCommand _ _ fun _ => cmdListRemove ..
  · exact runCommand _ _ fun _ => cmdListClear ..
  · exact runCommand _ _ fun _ => cmdReadList ..
  · exact runCommand _ _ fun _ => cmdReadChannel ..
  · exact runCommand _ _ fun _ => cmdReadFeed ..
  · exact runCommand _ _ fun _ => cmdReadNotices ..
  · exact runCommand _ _ fun _ => cmdAckNotice ..
  · exact runCommand _ _ fun _ => .refl s
  · exact runCommand _ _ fun _ => .of_roster
  · exact .of_roster

theorem serviceDecoder (s : State) : Kept s (serviceDecoder s) := by
  unfold Machine.serviceDecoder
  split
  · exact .refl s
  · split
    · exact Kept.trans .of_roster (runFrame _ _)
    · exact .refl s

theorem offer (f : LinkFrame) (s : State) : Kept s (offer f s) := by
  unfold Machine.offer
  split <;> exact .of_roster

theorem frameHolds (bytes : List Byte) (s : State) : Kept s (frameHolds bytes s) := by
  have hrx : ∀ r, Kept s (s.setRx r) := fun r => .of_roster
  unfold Machine.frameHolds
  split
  · exact hrx _
  · split
    · exact .of_roster
    · split
      · unfold completeFrame
        dsimp only
        split
        · split
          · exact ((hrx _).trans (offer _ _)).trans (serviceDecoder _)
          · exact hrx _
        · exact .of_roster
      · exact hrx _

theorem receiveByte (s : State) (b : Byte) : Kept s (receiveByte s b) := by
  unfold Machine.receiveByte
  split
  · split <;> [exact .of_roster; exact .refl s]
  · unfold escapedByte
    split
    · exact frameHolds ..
    · split
      · exact frameHolds ..
      · split <;> exact .of_roster
  · unfold plainByte
    split
    · split <;> [exact .refl s; exact .of_roster]
    · split <;> [exact .of_roster; exact frameHolds ..]

theorem recordSent (s : State) : Kept s (recordSent s) := by
  unfold Machine.recordSent
  split
  · exact .refl s
  · exact Kept.trans .of_roster (serviceDecoder _)

theorem arrive (f : LinkFrame) {run : State → State} (hr : Kept s (run s)) : Kept s (arrive f run s) := by
  unfold Machine.arrive
  split
  · exact hr
  · exact (offer f s).trans (serviceDecoder _)

/-! ## The step -/

theorem of_next (h : Kept s u) (e : (.next u : Host.Outcome State Fault Refusal) = .next t) : Kept s t :=
  Host.Outcome.next.inj e ▸ h

/-- Every command and every event keeps the gangs and the tags. -/
theorem exec (c : Instr) (ht : exec c s = .next t) : Kept s t := by
  cases hf : c.frame? with
  | some f =>
    rcases exec_hostCommand hf s with he | he
    · exact (arrive f (runFrame f s)).of_next (he.symm.trans ht)
    · exact (arrive f (.of_roster)).of_next (he.symm.trans ht)
  | none =>
    cases c with
    | frameStartMark f => exact (Kin.frameStart f s).kept.of_next ht
    | fragmentArrival f d => exact (Kin.fragment f d s).kept.of_next ht
    | frameEndMark f => exact (of_roster ((Ingested.refl f s).closeFrame none).roster).of_next ht
    | beat r d => exact (Kin.beat r d s).kept.of_next ht
    | outputTick ch => exact (outputTick ch s).of_next ht
    | fetchTimeout ch => exact (Kin.tickCounted ch s).kept.of_next ht
    | cacheOverwriteNotice f => exact (Kin.cacheNotice f s).kept.of_next ht
    | clipOverwriteNotice f =>
      refine (of_roster ?_).of_next ht
      unfold clipNotice
      split
      · rfl
      · exact takeTail_roster ..
    | damageReport f n => exact (Kin.damageArrives f n s).kept.of_next ht
    | fillReport ch f n => exact (Kin.reportArrives ch f n s).kept.of_next ht
    | jogLineChange a b => exact (jogLines a b s).of_next ht
    | markinEdge => exact (pushEdge .markin s).of_next ht
    | markoutEdge => exact (pushEdge .markout s).of_next ht
    | takeEdge => exact (pushEdge .take s).of_next ht
    | pushLineFall l => exact Kept.of_next .of_roster ht
    | hardwareReset l => exact (Kept.hardwareReset l s).of_next ht
    | linkFrameReceived bytes => exact (Kept.foldl Kept.receiveByte bytes s).of_next ht
    | recordSent => exact (recordSent s).of_next ht
    | _ => cases hf

theorem step (ht : step s = .next t) : Kept s t := by
  unfold Machine.step at ht
  split at ht
  · exact (Kept.refl s).of_next ht
  · exact Kept.trans .of_roster (exec _ ht)

end Kept

/-- Settles O58: what each operation leaves of the gangs, the channels' place in them and the tags, followed through
every step. -/
theorem everyStepKeepsGangsAndTags : Obligations.EveryStepKeepsGangsAndTags := fun _ _ ht =>
  have h := Kept.step ht
  ⟨h.apart, h.whole, h.tags⟩

end Sys2Proof.Machine
end

section
/-!
PROOFS. The checks of the channel commands (R76), SET_CHANNEL (R100, O16), and PLAY, SHUTTLE, STILL and STEP (R82 to
R85, O19).
-/

-- Proofs checked in turn: side by side they need more threads than the memory limit of check.sh has room for.
set_option Elab.async false

namespace Sys2Proof.Machine

variable {s t : State} {ch : ChanId} {st : Status} {result : List Byte}

/-! ## The checks of a channel command (R76) -/

section Checks

variable {act : ChanId → CmdResult}

/-- A number of a command names channel `ch` while ENGAGED. -/
abbrev names (s : State) (n : Nat) (ch : ChanId) : Prop := n = ch.val ∧ s.engaged = .engaged

theorem withEngaged_acts {n : Nat} (h : names s n ch) : withEngaged n s act = act ch := by
  obtain ⟨rfl, he⟩ := h
  simp [withEngaged, he]

theorem withFreeChannel_acts {n : Nat} (h : names s n ch) (hs : (s.chan ch).state ≠ .slave) :
    withFreeChannel n s act = act ch := (withEngaged_acts h).trans (if_neg hs)

theorem withMaterial_acts {n : Nat} (h : names s n ch) (hs : (s.chan ch).state ≠ .slave)
    (hi : (s.chan ch).state ≠ .idle) : withMaterial n s act = act ch := (withFreeChannel_acts h hs).trans (if_neg hi)

theorem withEngaged_number {n : Nat} (h : 4 ≤ n) : withEngaged n s act = refuse s .badArgument := by
  simp only [withEngaged, chanOf?_none h]

theorem withEngaged_disengaged {n : Nat} (h : n < 4) (he : s.engaged = .disengaged) :
    withEngaged n s act = refuse s .notEngaged := by
  simp only [withEngaged, chanOf?, h, dite_true, he, if_true]

theorem withFreeChannel_slave {n : Nat} (h : names s n ch) (hs : (s.chan ch).state = .slave) :
    withFreeChannel n s act = refuse s .ganged := (withEngaged_acts h).trans (if_pos hs)

theorem withMaterial_idle {n : Nat} (h : names s n ch) (hi : (s.chan ch).state = .idle) :
    withMaterial n s act = refuse s .noMaterial :=
  (withFreeChannel_acts h (by simp [hi])).trans (if_pos hi)

/-- The first three checks of R76 refuse a command with these statuses, in this order. -/
theorem withFreeChannel_refuses {n : Nat} (h : (4 ≤ n ∧ st = .badArgument) ∨
    (n < 4 ∧ s.engaged = .disengaged ∧ st = .notEngaged) ∨
    ∃ ch, names s n ch ∧ (s.chan ch).state = .slave ∧ st = .ganged) : withFreeChannel n s act = refuse s st := by
  rcases h with ⟨hn, rfl⟩ | ⟨hn, he, rfl⟩ | ⟨ch, hc, hs, rfl⟩
  · exact withEngaged_number hn
  · exact withEngaged_disengaged hn he
  · exact withFreeChannel_slave hc hs

end Checks

/-! ## The bodies of the channel commands (R200, R201) -/

theorem chanByte_toNat (ch : ChanId) : (byteOf ch.val).toNat = ch.val := byteOf_toNat_of_lt (by omega)

/-- The channel byte of a command names its channel. -/
theorem names_chanByte (he : s.engaged = .engaged) : names s (byteOf ch.val).toNat ch := ⟨chanByte_toNat ch, he⟩

theorem parseByte_one (n : Byte) : parseByte [n] = some n.toNat := by simp [parseByte]

theorem parsePlay_body (n : Byte) {speed : Option Int} (h : ∀ v, speed = some v → fitsS 4 v) :
    parsePlay (n :: packS 4 speed) = some (n.toNat, speed) := by
  have hspeed : takeOpt (takeS 4) (packS 4 speed) = some (speed, []) := by simpa using takeOpt_packS h []
  simp [parsePlay, hspeed]

theorem parseChanWord_body (n : Byte) {x : Int} (h : fitsS 2 x) :
    parseChanWord (n :: leInt 2 x) = some (n.toNat, x) := by
  have hword : takeS 2 (leInt 2 x) = some (x, []) := by simpa using takeS_fits h []
  simp [parseChanWord, hword]

theorem exec_play (hr : s.ready) (tag n : Byte) {speed : Option Int} (hv : ∀ v, speed = some v → fitsS 4 v)
    (h : cmdPlay n.toNat speed s = ⟨t, st, result⟩) :
    exec (.play tag (n :: packS 4 speed)) s = answers 12#8 tag t st result :=
  arrive_answers (act := fun a : Nat × Option Int => cmdPlay a.1 a.2) hr ⟨12#8, tag, _⟩ (parsePlay_body n hv) h

theorem exec_shuttle (hr : s.ready) (tag n : Byte) {x : Int} (hx : fitsS 2 x)
    (h : cmdShuttle n.toNat x s = ⟨t, st, result⟩) :
    exec (.shuttle tag (n :: leInt 2 x)) s = answers 13#8 tag t st result :=
  arrive_answers (act := fun a : Nat × Int => cmdShuttle a.1 a.2) hr ⟨13#8, tag, _⟩ (parseChanWord_body n hx) h

theorem exec_still (hr : s.ready) (tag n : Byte) (h : cmdStill n.toNat s = ⟨t, st, result⟩) :
    exec (.still tag [n]) s = answers 14#8 tag t st result :=
  arrive_answers (act := cmdStill) hr ⟨14#8, tag, _⟩ (parseByte_one n) h

theorem exec_step (hr : s.ready) (tag n : Byte) {x : Int} (hx : fitsS 2 x) (h : cmdStep n.toNat x s = ⟨t, st, result⟩) :
    exec (.stepCount tag (n :: leInt 2 x)) s = answers 15#8 tag t st result :=
  arrive_answers (act := fun a : Nat × Int => cmdStep a.1 a.2) hr ⟨15#8, tag, _⟩ (parseChanWord_body n hx) h

theorem exec_takeNext (hr : s.ready) (tag n : Byte) (h : cmdTakeNext n.toNat s = ⟨t, st, result⟩) :
    exec (.takeNext tag [n]) s = answers 18#8 tag t st result :=
  arrive_answers (act := cmdTakeNext) hr ⟨18#8, tag, _⟩ (parseByte_one n) h

/-! ## PLAY, SHUTTLE, STILL and STEP (R82 to R85) -/

theorem nominalSpeed_eq (s : State) (m : Option Material) : nominalSpeed s m = match m with
    | some (.clip id) => ((SMap.find s.clips id).map (·.nominal)).getD 1024
    | _ => 1024 := by
  match m with
  | some (.clip id) =>
    simp only [nominalSpeed, materialClip]
    cases SMap.find s.clips id <;> rfl
  | some (.feed _) => rfl
  | none => rfl

theorem max_min_comm (lo hi x : Int) : max lo (min x hi) = clampInt lo hi x := by rw [clampInt, min_comm]

/-- A transport command is refused by the checks of R76, or for want of material. -/
theorem withMaterial_refuses {n : Nat} {act : ChanId → CmdResult} (h : (4 ≤ n ∧ st = .badArgument) ∨
    (n < 4 ∧ s.engaged = .disengaged ∧ st = .notEngaged) ∨
    (∃ ch, n = ch.val ∧ s.engaged = .engaged ∧ (s.chan ch).state = .slave ∧ st = .ganged) ∨
    ∃ ch, n = ch.val ∧ s.engaged = .engaged ∧ (s.chan ch).state = .idle ∧ st = .noMaterial) :
    withMaterial n s act = refuse s st := by
  rcases h with h | h | ⟨ch, hn, he, hs, rfl⟩ | ⟨ch, hn, he, hi, rfl⟩
  · exact withFreeChannel_refuses (.inl h)
  · exact withFreeChannel_refuses (.inr (.inl h))
  · exact withFreeChannel_slave ⟨hn, he⟩ hs
  · exact withMaterial_idle ⟨hn, he⟩ hi

/-- Settles O19, command by command. -/
theorem transportCommandsSetTheState : Obligations.TransportCommandsSetTheState := by
  refine ⟨?_, ?_, ?_, ?_, ?_⟩
  · intro s tag n speed x st hr hv hx h
    exact ⟨exec_play hr tag n hv (withMaterial_refuses h), exec_shuttle hr tag n hx (withMaterial_refuses h),
      exec_still hr tag n (withMaterial_refuses h), exec_step hr tag n hx (withMaterial_refuses h),
      exec_takeNext hr tag n (withMaterial_refuses h)⟩
  · intro s tag ch speed hr he hi hs hv x nominal t
    refine exec_play hr tag _ hv ((withMaterial_acts (names_chanByte he) hs hi).trans ?_)
    cases speed with
    | none => simp only [done, Option.any_none, nominalSpeed_eq]; rfl
    | some v =>
      have ht : t = clampSpeed v := max_min_comm (-32768) 32768 v
      simp only [done, Option.any_some, clampSpeed, clampInt_ne_iff (show (-32768 : Int) ≤ 32768 by decide), ht]
      rfl
  · intro s tag ch lever hr he hi hs hx
    refine exec_shuttle hr tag _ hx ((withMaterial_acts (names_chanByte he) hs hi).trans ?_)
    simp only [done, clampInt_ne_iff (show (-128 : Int) ≤ 127 by decide), max_min_comm, takenAs]
  · intro s tag ch hr he hi hs
    exact exec_still hr tag _ (withMaterial_acts (names_chanByte he) hs hi)
  · intro s tag ch n hr he hi hs hx sum
    refine exec_step hr tag _ hx ((withMaterial_acts (names_chanByte he) hs hi).trans ?_)
    simp only [done, jogSum, clampInt_ne_iff (show (-2048 : Int) ≤ 2047 by decide), max_min_comm, takenAs]
    rfl

/-! ## SET_CHANNEL (R100) -/

theorem idlePicture?_eq (n : Nat) : idlePicture? n = if 2 < n then none else
    some (if n = 0 then .hold else if n = 1 then .black else .live) := by
  match n with
  | 0 => rfl
  | 1 => rfl
  | 2 => rfl
  | n + 3 => rw [if_pos (by omega)]; rfl

theorem fetchMode?_eq (n : Nat) : fetchMode? n = if 1 < n then none else some (if n = 1 then .and else .or) := by
  match n with
  | 0 => rfl
  | 1 => rfl
  | n + 2 => rw [if_pos (by omega)]; rfl

/-- The next reader goes on with what the one before it read. -/
theorem bind_of_eq_some {α β : Type} {x : Option α} {a : α} {f : α → Option β} (h : x = some a) : (x >>= f) = f a := by
  rw [h, Option.bind_eq_bind, Option.bind_some]

section Options

variable (level burst fairness look depth blend follow picture idle fetch : Option Byte) (ramp jog : Option Nat)

/-- The fields of a SET_CHANNEL whose body carries these. -/
def optionFields : ChanFields :=
  { level := level.map (·.toNat), burst := burst.map (·.toNat), fairness := fairness.map (·.toNat)
    lookahead := look.map (·.toNat), preloadDepth := depth.map (·.toNat), blend := blend.map (·.toNat)
    followLive := follow.map (·.toNat), idlePicture := picture.map (·.toNat), idleFeed := idle.map (·.toNat)
    fetchMode := fetch.map (·.toNat), ramp := ramp, jogStep := jog }

/-- An enumerated value of a SET_CHANNEL lies outside its list (R100). -/
def optionOutside : Prop :=
  carriesAbove burst 1 ∨ carriesAbove fairness 1 ∨ carriesAbove blend 1 ∨ carriesAbove follow 1 ∨
    carriesAbove picture 2 ∨ carriesAbove idle 7 ∨ carriesAbove fetch 1

theorem parseSetChannel_body (n : Byte) (hramp : ∀ v, ramp = some v → v < 2 ^ 32)
    (hjog : ∀ v, jog = some v → v < 2 ^ 32) :
    parseSetChannel (n :: (packU 1 (level.map (·.toNat)) ++ packU 1 (burst.map (·.toNat)) ++
      packU 1 (fairness.map (·.toNat)) ++ packU 1 (look.map (·.toNat)) ++ packU 1 (depth.map (·.toNat)) ++
      packU 1 (blend.map (·.toNat)) ++ packU 1 (follow.map (·.toNat)) ++ packU 1 (picture.map (·.toNat)) ++
      packU 1 (idle.map (·.toNat)) ++ packU 1 (fetch.map (·.toNat)) ++ packU 4 ramp ++ packU 4 jog)) =
      some (n.toNat, optionFields level burst fairness look depth blend follow picture idle fetch ramp jog) := by
  simp only [List.append_assoc]
  refine (bind_of_eq_some (takeU_one _ _)).trans <| (bind_of_eq_some (takeOpt_byte level _)).trans <|
    (bind_of_eq_some (takeOpt_byte burst _)).trans <| (bind_of_eq_some (takeOpt_byte fairness _)).trans <|
    (bind_of_eq_some (takeOpt_byte look _)).trans <| (bind_of_eq_some (takeOpt_byte depth _)).trans <|
    (bind_of_eq_some (takeOpt_byte blend _)).trans <| (bind_of_eq_some (takeOpt_byte follow _)).trans <|
    (bind_of_eq_some (takeOpt_byte picture _)).trans <| (bind_of_eq_some (takeOpt_byte idle _)).trans <|
    (bind_of_eq_some (takeOpt_byte fetch _)).trans <| (bind_of_eq_some (takeOpt_packU (w := 4) hramp _)).trans <|
    (bind_of_eq_some (takeOpt_packU_end (w := 4) hjog)).trans (bodyEnd_nil _)

variable {burst fairness blend follow picture idle fetch}

theorem optionWrite_outside (o : ChanOptions) (h : optionOutside burst fairness blend follow picture idle fetch) :
    (optionFields level burst fairness look depth blend follow picture idle fetch ramp jog).write? o = none := by
  unfold ChanFields.write? optionFields
  rcases h with h | h | h | h | h | h | h
  · simp only [optCode?_outside onOff?_eq h, Option.bind_eq_bind, Option.bind_none]
  · simp only [optCode?_outside onOff?_eq h, Option.bind_eq_bind, Option.bind_none, Option.bind_fun_none]
  · simp only [optCode?_outside onOff?_eq h, Option.bind_eq_bind, Option.bind_none, Option.bind_fun_none]
  · simp only [optCode?_outside onOff?_eq h, Option.bind_eq_bind, Option.bind_none, Option.bind_fun_none]
  · simp only [optCode?_outside idlePicture?_eq h, Option.bind_eq_bind, Option.bind_none, Option.bind_fun_none]
  · simp only [optCode?_outside feedOf?_eq h, Option.bind_eq_bind, Option.bind_none, Option.bind_fun_none]
  · simp only [optCode?_outside fetchMode?_eq h, Option.bind_eq_bind, Option.bind_none, Option.bind_fun_none]

theorem optionWrite_inside (o : ChanOptions) (h : ¬ optionOutside burst fairness blend follow picture idle fetch) :
    (optionFields level burst fairness look depth blend follow picture idle fetch ramp jog).write? o = some
      { level := ((level.map (·.toNat)).map (clampNat 0 15)).getD o.level
        burst := (burst.map fun b => b.toNat == 1).getD o.burst
        fairness := (fairness.map fun b => b.toNat == 1).getD o.fairness
        lookahead := ((look.map (·.toNat)).map (clampNat 0 6)).getD o.lookahead
        preloadDepth := ((depth.map (·.toNat)).map (clampNat 1 8)).getD o.preloadDepth
        blend := (blend.map fun b => b.toNat == 1).getD o.blend
        followLive := (follow.map fun b => b.toNat == 1).getD o.followLive
        idlePicture := (picture.map fun b => if b.toNat = 0 then .hold else if b.toNat = 1 then .black else .live).getD
          o.idlePicture
        idleFeed := (idle.map fun b => Fin.ofNat 8 b.toNat).getD o.idleFeed
        fetchMode := (fetch.map fun b => if b.toNat = 1 then .and else .or).getD o.fetchMode
        ramp := (ramp.map (clampNat 0 65535)).getD o.ramp
        jogStep := (jog.map (clampNat 1 65535)).getD o.jogStep } := by
  simp only [optionOutside, not_or] at h
  obtain ⟨hb, hf, hbl, hfo, hp, hi, hfe⟩ := h
  simp only [ChanFields.write?, optionFields, optCode?_inside onOff?_eq hb, optCode?_inside onOff?_eq hf,
    optCode?_inside onOff?_eq hbl, optCode?_inside onOff?_eq hfo, optCode?_inside idlePicture?_eq hp,
    optCode?_inside feedOf?_eq hi, optCode?_inside fetchMode?_eq hfe, Option.bind_eq_bind, Option.bind_some]
  rfl

/-- A value of a SET_CHANNEL is clamped (R100). -/
def optionClamped : Prop :=
  carriesAbove level 15 ∨ carriesAbove look 6 ∨ (∃ b, depth = some b ∧ (b.toNat < 1 ∨ 8 < b.toNat)) ∨
    (∃ v, ramp = some v ∧ 65535 < v) ∨ (∃ v, jog = some v ∧ (v < 1 ∨ 65535 < v))

theorem optionFields_clamped :
    (optionFields level burst fairness look depth blend follow picture idle fetch ramp jog).clamped = true ↔
      optionClamped level look depth ramp jog := by
  have hbyte : ∀ (v : Option Byte) (p : Nat → Prop),
      (∃ n, v.map (·.toNat) = some n ∧ p n) ↔ ∃ b, v = some b ∧ p b.toNat := fun v p => by
    cases v <;> simp
  simp only [ChanFields.clamped, optionFields, optionClamped, carriesAbove, Bool.or_eq_true, or_assoc,
    outside_iff (Nat.zero_le 15), outside_iff (Nat.zero_le 6), outside_iff (show 1 ≤ 8 by decide),
    outside_iff (Nat.zero_le 65535), outside_iff (show 1 ≤ 65535 by decide), hbyte, Nat.not_lt_zero, false_or]

end Options

theorem exec_setChannel (hr : s.ready) (tag : Byte) {body : List Byte} {n : Nat} {x : ChanFields}
    (hx : parseSetChannel body = some (n, x)) (h : cmdSetChannel n x s = ⟨t, st, result⟩) :
    exec (.setChannel tag body) s = answers 3#8 tag t st result :=
  arrive_answers (act := fun a : Nat × ChanFields => cmdSetChannel a.1 a.2) hr ⟨3#8, tag, body⟩ hx h

theorem cmdSetChannel_slave (x : ChanFields) (hs : (s.chan ch).state = .slave) :
    cmdSetChannel ch.val x s = refuse s .ganged := by
  simp only [cmdSetChannel, chanOf?_val, hs, if_true]

theorem cmdSetChannel_outside {x : ChanFields} (hs : (s.chan ch).state ≠ .slave)
    (hx : x.write? (s.chan ch).opts = none) : cmdSetChannel ch.val x s = refuse s .badArgument := by
  simp only [cmdSetChannel, chanOf?_val, hs, if_false, hx]

theorem cmdSetChannel_writes {x : ChanFields} {o : ChanOptions} (hs : (s.chan ch).state ≠ .slave)
    (hx : x.write? (s.chan ch).opts = some o) :
    cmdSetChannel ch.val x s = done (s.setChan ch { s.chan ch with opts := o }) x.clamped [] := by
  simp only [cmdSetChannel, chanOf?_val, hs, if_false, hx]

theorem clampNat_zero (hi n : Nat) : clampNat 0 hi n = min n hi := by rw [clampNat, Nat.zero_max, Nat.min_comm]

theorem clampNat_one (hi n : Nat) : clampNat 1 hi n = max 1 (min n hi) := by rw [clampNat, Nat.min_comm]

/-- Settles O16: the whole command is refused for one value outside its list, and else every option carried is
written. -/
theorem setChannelWritesTheOptions : Obligations.SetChannelWritesTheOptions := by
  intro s tag n level burst fairness look depth blend follow picture idle fetch ramp jog hr hramp hjog one body bad
    outside clamped flag
  have hbody : parseSetChannel body = some (n.toNat,
      optionFields level burst fairness look depth blend follow picture idle fetch ramp jog) :=
    parseSetChannel_body _ _ _ _ _ _ _ _ _ _ _ _ n hramp hjog
  refine ⟨fun hn => ?_, ?_⟩
  · refine exec_setChannel hr tag hbody ?_
    simp only [cmdSetChannel, chanOf?_none hn]
    rfl
  · intro ch hn o t
    rw [hn] at hbody
    have hexec := fun t st result => exec_setChannel (t := t) (st := st) (result := result) hr tag hbody
    have hflag : ∀ (v : Option Byte) (old : Bool), (v.map fun b => b.toNat == 1).getD old = flag v old := by
      intro v old
      cases v <;> rfl
    have hopts := congrArg Channel.opts (show t.chan ch = _ from (State.chan_setChan s ch ch _).trans (if_pos rfl))
    have hlevel : ((level.map (·.toNat)).map (clampNat 0 15)).getD o.level = (t.chan ch).opts.level := by
      rw [hopts]; cases level <;> simp [clampNat_zero]
    have hlook : ((look.map (·.toNat)).map (clampNat 0 6)).getD o.lookahead = (t.chan ch).opts.lookahead := by
      rw [hopts]; cases look <;> simp [clampNat_zero]
    have hdepth : ((depth.map (·.toNat)).map (clampNat 1 8)).getD o.preloadDepth = (t.chan ch).opts.preloadDepth := by
      rw [hopts]; cases depth <;> simp [clampNat_one]
    have hpicture : (picture.map fun b => if b.toNat = 0 then .hold else if b.toNat = 1 then .black else .live).getD
        o.idlePicture = (t.chan ch).opts.idlePicture := by
      rw [hopts]; cases picture <;> rfl
    have hidle : (idle.map fun b => Fin.ofNat 8 b.toNat).getD o.idleFeed = (t.chan ch).opts.idleFeed := by
      rw [hopts]; cases idle <;> rfl
    have hfetch : (fetch.map fun b => if b.toNat = 1 then .and else .or).getD o.fetchMode =
        (t.chan ch).opts.fetchMode := by
      rw [hopts]; cases fetch <;> rfl
    have hjog : (jog.map (clampNat 1 65535)).getD o.jogStep = (t.chan ch).opts.jogStep := by
      rw [hopts]; cases jog <;> simp [clampNat_one]
    have hramp : (ramp.map (clampNat 0 65535)).getD o.ramp = (t.chan ch).opts.ramp := by
      rw [hopts]; cases ramp <;> simp [clampNat_zero]
    have hwrite : ¬ outside →
        (optionFields level burst fairness look depth blend follow picture idle fetch ramp jog).write? o =
          some (t.chan ch).opts := fun hin => by
      rw [optionWrite_inside level look depth ramp jog _ hin, hlevel, hlook, hdepth, hpicture, hidle, hfetch, hjog,
        hramp, hopts]
      simp only [hflag]
    have hwritten : (s.chan ch).state ≠ .slave → ¬ outside → cmdSetChannel ch.val _ s = done t _ [] := fun hs hin =>
      cmdSetChannel_writes hs ((hwrite hin).trans (by simp [t]))
    refine ⟨fun hs => hexec _ _ _ (cmdSetChannel_slave _ hs),
      fun hs hout => hexec _ _ _ (cmdSetChannel_outside hs (optionWrite_outside level look depth ramp jog _ hout)),
      fun hs hin hc => hexec _ _ _ ?_, fun hs hin hc => hexec _ _ _ ?_⟩
    · rw [hwritten hs hin, (optionFields_clamped level look depth ramp jog).2 hc]
      rfl
    · rw [hwritten hs hin, Bool.eq_false_iff.2 fun h => hc ((optionFields_clamped level look depth ramp jog).1 h)]
      rfl

end Sys2Proof.Machine
end

section
/-!
PROOFS. The fill reports of a channel (R94, O47), the fetch timeout (R146, O46) and the jog lines (R173 to R176, O55).
-/

-- Proofs checked in turn: side by side they need more threads than the memory limit of check.sh has room for.
set_option Elab.async false

namespace Sys2Proof.Machine

variable {s t : State} {ch : ChanId}

/-! ## Fill reports (R94, R145) -/

/-- What a fill report answers for its frame. -/
def FillReport.answer (r : FillReport) : Answer := r.failed.elim .resident .notAvailable

/-- The first report of a frame is taken out of the queue, and is handled as its answer. -/
theorem reportArrives_first {before after : List FillReport} {r : FillReport}
    (hq : s.cache.reports.get ch = before ++ r :: after)
    (hfirst : ∀ q ∈ before, q.feed ≠ r.feed ∨ q.frame ≠ r.frame) :
    reportArrives ch r.feed r.frame s = handleAnswer ch r.feed r.frame r.answer
      { s with cache := { s.cache with reports := s.cache.reports.set ch (before ++ after) } } := by
  have hother : ∀ q ∈ before, ¬ (q.feed == r.feed && q.frame == r.frame) = true := fun q hm hc => by
    simp only [Bool.and_eq_true, beq_iff_eq] at hc
    exact (hfirst q hm).elim (· hc.1) (· hc.2)
  have hfind : (before ++ r :: after).find? (fun q => q.feed == r.feed && q.frame == r.frame) = some r := by
    rw [List.find?_append, List.find?_eq_none.2 hother]
    simp
  have herase : (before ++ r :: after).erase r = before ++ after := by
    rw [List.erase_append_right _ fun hm => hother r hm (by simp), List.erase_cons_head]
  simp only [reportArrives, hq, hfind, herase, FillReport.answer]
  cases r.failed <;> rfl

/-- An answer of damage marks the channel when its selection names the frame (R91). -/
theorem handleAnswer_marks {f : FeedId} {n : Nat} {sel : Selection} (hsel : (s.chan ch).selection = some sel)
    (hf : sel.feed = f) (hn : sel.frame = n) :
    handleAnswer ch f n (.notAvailable .damaged) s = s.setChan ch { s.chan ch with damaged := true } := by
  simp [handleAnswer, frameFailed, hsel, hf, hn]

theorem handleAnswer_unmarked {f : FeedId} {n : Nat} {why : Reason} (h : why ≠ .damaged ∨
    ∀ sel, (s.chan ch).selection = some sel → sel.feed ≠ f ∨ sel.frame ≠ n) :
    handleAnswer ch f n (.notAvailable why) s = s := by
  refine if_neg fun ⟨hwhy, hany⟩ => ?_
  cases hsel : (s.chan ch).selection with
  | none => simp [hsel] at hany
  | some sel =>
    simp only [hsel, Option.any_some, Bool.and_eq_true, beq_iff_eq] at hany
    exact h.elim (· hwhy) fun hno => (hno sel hsel).elim (· hany.1) (· hany.2)

/-- Settles O47: the first report of the frame leaves the queue, and is handled as its answer. -/
theorem fillReportActsAsTheAnswer : Obligations.FillReportActsAsTheAnswer := by
  intro s ch f n r before after hq hf hn hfirst x t clip
  subst hf hn
  have hexec : exec (.fillReport ch r.feed r.frame) s = .next (handleAnswer ch r.feed r.frame r.answer t) :=
    congrArg Host.Outcome.next (reportArrives_first hq hfirst)
  have hanswer : ∀ why, r.failed = some why → r.answer = .notAvailable why := fun why h => by
    simp [FillReport.answer, h]
  have hready : r.failed = none → r.answer = .resident := fun h => by simp [FillReport.answer, h]
  refine ⟨fun hr hc => ?_, fun hr hc => ?_, fun sel hr hsel hf hn => ?_, fun why hr h => ?_⟩
  · rw [hexec, hready hr]
    have hclip : clip = materialId x.material := by simp only [clip]; unfold materialId; rfl
    rw [hclip]
    exact congrArg Host.Outcome.next (if_pos hc)
  · rw [hexec, hready hr]
    exact congrArg Host.Outcome.next (if_neg hc)
  · rw [hexec, hanswer _ hr, handleAnswer_marks (s := t) hsel hf hn]
    rfl
  · rw [hexec, hanswer _ hr, handleAnswer_unmarked (s := t) h]

/-! ## The jog lines (R173 to R176) -/

theorem phaseCount_rise (ja ja' jb : Level) : phaseCount false ja ja' jb =
    if ja = .low ∧ ja' = .high then some (if jb = .low then 1 else -1) else none := by
  cases ja <;> cases ja' <;> cases jb <;> rfl

theorem phaseCount_both (ja ja' jb : Level) : phaseCount true ja ja' jb =
    if ja = .low ∧ ja' = .high then some (if jb = .low then 1 else -1)
    else if ja = .high ∧ ja' = .low then some (if jb = .high then 1 else -1) else none := by
  cases ja <;> cases ja' <;> cases jb <;> rfl

theorem stepCountOf_eq (ja ja' jb' : Level) : stepCountOf ja ja' jb' =
    if ja = .low ∧ ja' = .high then some (if jb' = .high then 1 else -1) else none := by
  cases ja <;> cases ja' <;> cases jb' <;> rfl

/-- A single change in X4 is a place forward or back in the ring of the four pairs of levels (R175). -/
theorem grayCount_eq (ja jb ja' jb' : Level) : grayCount ja jb ja' jb' =
    let pair := ((ja, jb), (ja', jb'))
    if pair = ((.low, .low), (.high, .low)) ∨ pair = ((.high, .low), (.high, .high)) ∨
        pair = ((.high, .high), (.low, .high)) ∨ pair = ((.low, .high), (.low, .low)) then some 1
    else if pair = ((.low, .low), (.low, .high)) ∨ pair = ((.low, .high), (.high, .high)) ∨
        pair = ((.high, .high), (.high, .low)) ∨ pair = ((.high, .low), (.low, .low)) then some (-1)
    else none := by
  cases ja <;> cases jb <;> cases ja' <;> cases jb' <;> rfl

theorem jogSum_eq (a b : Int) : jogSum a b = max (-2048) (min (a + b) 2047) := (max_min_comm ..).symm

/-- A channel without jog takes no count; another adds it, and with takeover goes to JOG (R88). -/
theorem takeCount_eq (x : Channel) (takeover : Bool) (n : Int) : x.takeCount takeover n =
    if x.state = .idle ∨ x.state = .slave then x
    else if x.state = .jog ∨ takeover = false then { x with jog := jogSum x.jog n }
    else { x with jog := jogSum x.jog n, state := .jog, speed := 0, target := 0 } := by
  unfold Channel.takeCount
  split
  · rename_i hx
    rw [if_pos (.inl hx)]
  · rename_i hx
    rw [if_pos (.inr hx)]
  · rename_i hx
    rw [if_neg (by simp [hx]), if_pos (.inl hx)]
  · rename_i hidle hslave hno
    have hjog : x.state ≠ .jog := hno
    rw [if_neg (not_or.2 ⟨hidle, hslave⟩)]
    cases takeover with
    | false => simp
    | true => simp [hjog, Channel.toJog]

theorem isGlitch_eq (p : Panel) (ja jb : Level) :
    isGlitch p ja jb = decide (p.decode = .x4 ∧ p.ja ≠ ja ∧ p.jb ≠ jb) := by
  simp [isGlitch, Bool.and_assoc, Bool.beq_eq_decide_eq, bne]

/-- Settles O55: the count by decode mode, then what the bound channel does with it. -/
theorem jogLineChangeCountsOnce : Obligations.JogLineChangeCountsOnce := by
  intro s ja jb p pair count x chans
  have hcount : jogCount p.decode p.ja p.jb ja jb = count := by
    simp only [count]
    cases p.decode with
    | x1 => exact phaseCount_rise ..
    | x2 => exact phaseCount_both ..
    | x4 => exact grayCount_eq ..
    | dirstep => exact stepCountOf_eq ..
  refine congrArg Host.Outcome.next ?_
  simp only [jogLines, isGlitch_eq]
  rw [show jogCount s.panel.decode s.panel.ja s.panel.jb ja jb = count from hcount]
  have hsame : s.chans.set p.bound x = s.chans := congrArg State.chans (s.setChan_chan p.bound)
  simp only [chans]
  cases count with
  | none => rfl
  | some n =>
    simp only [takeCount_eq, jogSum_eq, State.setChan]
    split
    · rw [hsame]
    · split <;> rfl

/-! ## The abort of a fill among the fills (R137, R144) -/

theorem Cache.abort_fills {c : Cache} {k : Nat} {z : Fill} (hz : SMap.find c.fills k = some z) (why : Reason) :
    (c.abort k why).fills = (c.freeContext k z).fills := by
  simp only [Cache.abort, hz]
  split
  · rfl
  · simp only [Cache.report, Cache.freeContext, Cache.abandonSlot]
    split
    · rfl
    · split <;> rfl

/-- An abort reports its reason to the waiters of the fill. -/
theorem Cache.abort_told {c : Cache} {k : Nat} {z : Fill} {x : Slot} (hz : SMap.find c.fills k = some z)
    (hx : SMap.find c.slots z.slot = some x) (why : Reason) (hw : z.waiters.Nodup) (w : ChanId) :
    (c.abort k why).reports.get w =
      c.reports.get w ++ if w ∈ z.waiters then [⟨x.feed, x.frame, some why⟩] else [] := by
  have hreports : ((c.abandonSlot z.slot x).freeContext k z).reports = c.reports := by
    simp only [Cache.freeContext, Cache.abandonSlot]
    split
    · rfl
    · split <;> rfl
  simp only [Cache.abort, hz, hx]
  rw [Cache.report_get _ _ _ hw, hreports]

theorem Cache.freeContext_wf {c : Cache} (h : SMap.wf c.fills = true) (k : Nat) (z : Fill) :
    SMap.wf (c.freeContext k z).fills = true :=
  SMap.wf_map (SMap.wf_del h k) _ fun r => by split <;> rfl

/-! ## The count of a tick (R146) -/

theorem Cache.ageFills_wf {c : Cache} (h : SMap.wf c.fills = true) (ch : ChanId) :
    SMap.wf (c.ageFills ch).fills = true := SMap.wf_map h _ fun r => by split <;> rfl

theorem Cache.ageFills_find (c : Cache) (ch : ChanId) (k : Nat) : SMap.find (c.ageFills ch).fills k =
    (SMap.find c.fills k).map fun z => if z.owner = ch then { z with age := z.age + 1 } else z := by
  have hmap : (c.ageFills ch).fills = c.fills.map fun r =>
      (r.1, if r.2.owner = ch then { r.2 with age := r.2.age + 1 } else r.2) :=
    List.map_congr_left fun r _ => by dsimp only; split <;> rfl
  rw [hmap, SMap.find_map c.fills fun z => if z.owner = ch then { z with age := z.age + 1 } else z]

theorem Cache.mem_timedOut {c : Cache} (h : SMap.wf c.fills = true) {ch : ChanId} {k : Nat} :
    k ∈ c.timedOut ch ↔ ∃ z, SMap.find c.fills k = some z ∧ z.owner = ch ∧ 4 ≤ z.age := by
  simp only [Cache.timedOut, List.mem_map, List.mem_insertionSort, List.mem_filter, Bool.and_eq_true, beq_iff_eq,
    decide_eq_true_eq]
  constructor
  · rintro ⟨⟨j, z⟩, ⟨hm, ho, ha⟩, rfl⟩
    exact ⟨z, SMap.find_of_mem h hm, ho, ha⟩
  · rintro ⟨z, hz, ho, ha⟩
    exact ⟨(k, z), ⟨SMap.mem_of_find hz, ho, ha⟩, rfl⟩

theorem Cache.timedOut_nodup {c : Cache} (h : SMap.wf c.fills = true) (ch : ChanId) : (c.timedOut ch).Nodup := by
  have hkeys : (c.fills.map Prod.fst).Nodup := ((SMap.wf_iff_keys _).1 h).imp fun hlt => Nat.ne_of_lt hlt
  exact ((List.perm_insertionSort _ _).map _).nodup_iff.2 (hkeys.sublist (List.filter_sublist.map _))

/-- One fill of the channel alone reaches the fetch timeout. -/
theorem Cache.timedOut_single {c : Cache} {k : Nat} {z : Fill} (h : SMap.wf c.fills = true)
    (hz : SMap.find c.fills k = some z) (ho : z.owner = ch) (ha : 3 ≤ z.age)
    (hyoung : ∀ r ∈ c.fills, r.1 ≠ k → r.2.owner = ch → r.2.age < 3) : (c.ageFills ch).timedOut ch = [k] := by
  have hwf := Cache.ageFills_wf h ch
  refine List.perm_singleton.1 ((List.perm_ext_iff_of_nodup (Cache.timedOut_nodup hwf ch) (List.nodup_singleton k)).2
    fun j => ?_)
  rw [Cache.mem_timedOut hwf, List.mem_singleton, Cache.ageFills_find]
  constructor
  · rintro ⟨w, hw, hwo, hwa⟩
    obtain ⟨v, hv, rfl⟩ := Option.map_eq_some_iff.1 hw
    refine by_contra fun hj => ?_
    split at hwo
    · rename_i hvo
      have : v.age < 3 := hyoung _ (SMap.mem_of_find hv) hj hvo
      simp only [hvo, if_true] at hwa
      omega
    · contradiction
  · rintro rfl
    exact ⟨_, congrArg _ hz, by simp [ho], by simp [ho]; omega⟩

/-- What the time-outs of a channel's fills in the contexts `l` leave of the fills (R146). -/
structure FillsTimedOut (ch : ChanId) (l : List Nat) (s t : State) : Prop where
  wf : SMap.wf t.cache.fills = true
  gone : ∀ k ∈ l, SMap.find t.cache.fills k = none
  kept : ∀ k ∉ l, ∃ o, SMap.find t.cache.fills k =
    (SMap.find s.cache.fills k).map fun z => if z.owner = ch then { z with order := o } else z
  cleared : (t.chan ch).preload = true → (s.chan ch).preload = true ∧ ∀ k ∈ l, SMap.find s.cache.fills k = none

/-- A context whose fill the channel owns times out. -/
theorem timeOut_fills {k : Nat} (h : SMap.wf s.cache.fills = true)
    (hown : ∀ z, SMap.find s.cache.fills k = some z → z.owner = ch) : FillsTimedOut ch [k] s (timeOut ch k s) := by
  cases hz : SMap.find s.cache.fills k with
  | none =>
    have hsame : timeOut ch k s = s := by simp only [timeOut, hz]
    rw [hsame]
    refine ⟨h, fun j hj => List.mem_singleton.1 hj ▸ hz, fun j hj => ?_, fun hp => ⟨hp, fun j hj =>
      List.mem_singleton.1 hj ▸ hz⟩⟩
    cases hy : SMap.find s.cache.fills j with
    | none => exact ⟨0, rfl⟩
    | some y => exact ⟨y.order, congrArg some (ite_self y).symm⟩
  | some z =>
    have hfills : (timeOut ch k s).cache.fills = (s.cache.freeContext k z).fills := by
      simp only [timeOut, hz]
      split <;> simp [Cache.abort_fills hz]
    have hpreload : ((timeOut ch k s).chan ch).preload = false := by
      simp only [timeOut, hz]
      split <;> simp
    refine ⟨hfills ▸ Cache.freeContext_wf h k z, fun j hj => ?_, fun j hj => ?_, fun hp => ?_⟩
    · rw [hfills, Cache.freeContext_find _ _ _ h, if_pos (List.mem_singleton.1 hj)]
    · rw [hfills, Cache.freeContext_find _ _ _ h, if_neg fun e => hj (List.mem_singleton.2 e)]
      cases hy : SMap.find s.cache.fills j with
      | none => exact ⟨0, rfl⟩
      | some y =>
        refine ⟨if z.order < y.order then y.order - 1 else y.order, ?_⟩
        simp only [Option.map_some, hown z hz]
        by_cases hlt : z.order < y.order
        · simp only [hlt, and_true, if_true]
        · simp only [hlt, and_false, if_false]
          exact congrArg some (ite_self y).symm
    · exact absurd (hpreload.symm.trans hp) (by decide)

namespace FillsTimedOut

variable {l m : List Nat} {u : State}

theorem refl (h : SMap.wf s.cache.fills = true) : FillsTimedOut ch [] s s where
  wf := h
  gone := by simp
  kept k _ := by
    cases hy : SMap.find s.cache.fills k with
    | none => exact ⟨0, rfl⟩
    | some y => exact ⟨y.order, congrArg some (ite_self y).symm⟩
  cleared hp := ⟨hp, by simp⟩

theorem trans (h : FillsTimedOut ch l s t) (h' : FillsTimedOut ch m t u) : FillsTimedOut ch (l ++ m) s u where
  wf := h'.wf
  gone k hk := by
    by_cases hm : k ∈ m
    · exact h'.gone k hm
    · obtain ⟨o, ho⟩ := h'.kept k hm
      rw [ho, h.gone k ((List.mem_append.1 hk).resolve_right hm), Option.map_none]
  kept k hk := by
    obtain ⟨hl, hm⟩ := not_or.1 (mt List.mem_append.2 hk)
    obtain ⟨o, ho⟩ := h.kept k hl
    obtain ⟨o', ho'⟩ := h'.kept k hm
    refine ⟨o', ?_⟩
    rw [ho', ho, Option.map_map]
    refine congrArg (Option.map · _) (funext fun z => ?_)
    by_cases hz : z.owner = ch <;> simp [hz]
  cleared hp := by
    obtain ⟨hq, hm⟩ := h'.cleared hp
    obtain ⟨hr, hl⟩ := h.cleared hq
    refine ⟨hr, fun k hk => ?_⟩
    by_cases hkl : k ∈ l
    · exact hl k hkl
    · obtain ⟨o, ho⟩ := h.kept k hkl
      have hgone := hm k ((List.mem_append.1 hk).resolve_left hkl)
      rw [ho] at hgone
      exact Option.map_eq_none_iff.1 hgone

end FillsTimedOut

theorem timeOuts_fills (l : List Nat) {s : State} (h : SMap.wf s.cache.fills = true)
    (hown : ∀ k ∈ l, ∀ z, SMap.find s.cache.fills k = some z → z.owner = ch) :
    FillsTimedOut ch l s (l.foldl (fun acc k => timeOut ch k acc) s) := by
  induction l generalizing s with
  | nil => exact .refl h
  | cons k l ih =>
    have hone := timeOut_fills h (hown k List.mem_cons_self)
    refine hone.trans (ih hone.wf fun j hj z hz => ?_)
    by_cases hjk : j ∈ [k]
    · rw [hone.gone j hjk] at hz
      cases hz
    · obtain ⟨o, ho⟩ := hone.kept j hjk
      rw [ho] at hz
      obtain ⟨y, hy, rfl⟩ := Option.map_eq_some_iff.1 hz
      have hyo := hown j (List.mem_cons_of_mem k hj) y hy
      simp [hyo]

theorem countTick_fills (h : SMap.wf s.cache.fills = true) :
    FillsTimedOut ch ((s.cache.ageFills ch).timedOut ch) { s with cache := s.cache.ageFills ch } (countTick ch s) :=
  timeOuts_fills _ (Cache.ageFills_wf h ch) fun _ hk z hz => by
    obtain ⟨w, hw, ho, -⟩ := (Cache.mem_timedOut (Cache.ageFills_wf h ch)).1 hk
    exact Option.some.inj (hz.symm.trans hw) ▸ ho

/-- A count ages the fills its channel owns, and takes away those that reach the timeout. -/
theorem countTick_counts (h : SMap.wf s.cache.fills = true) {k : Nat} {z : Fill}
    (hz : SMap.find s.cache.fills k = some z) :
    (z.owner = ch → 3 ≤ z.age →
      SMap.find (countTick ch s).cache.fills k = none ∧ ((countTick ch s).chan ch).preload = false) ∧
    (z.owner = ch → z.age < 3 →
      ∃ o, SMap.find (countTick ch s).cache.fills k = some { z with age := z.age + 1, order := o }) ∧
    (z.owner ≠ ch → SMap.find (countTick ch s).cache.fills k = some z) := by
  have hcount := countTick_fills (ch := ch) h
  have hmem := Cache.mem_timedOut (ch := ch) (k := k) (Cache.ageFills_wf h ch)
  have haged := Cache.ageFills_find s.cache ch k
  rw [hz, Option.map_some] at haged
  refine ⟨fun ho ha => ?_, fun ho ha => ?_, fun ho => ?_⟩
  · rw [if_pos ho] at haged
    have hout := hmem.2 ⟨_, haged, ho, Nat.succ_le_succ ha⟩
    refine ⟨hcount.gone k hout, Bool.eq_false_iff.2 fun hp => ?_⟩
    exact absurd (haged.symm.trans ((hcount.cleared hp).2 k hout)) (by simp)
  · rw [if_pos ho] at haged
    obtain ⟨o, hkept⟩ := hcount.kept k fun hout => by
      obtain ⟨w, hw, -, hwa⟩ := hmem.1 hout
      have : z.age + 1 = w.age := congrArg Fill.age (Option.some.inj (haged.symm.trans hw))
      omega
    refine ⟨o, hkept.trans ?_⟩
    rw [haged, Option.map_some, if_pos ho]
  · rw [if_neg ho] at haged
    obtain ⟨o, hkept⟩ := hcount.kept k fun hout => by
      obtain ⟨w, hw, hwo, -⟩ := hmem.1 hout
      exact ho (Option.some.inj (haged.symm.trans hw) ▸ hwo)
    refine hkept.trans ?_
    rw [haged, Option.map_some, if_neg ho]

theorem countTick_single {k : Nat} (h : (s.cache.ageFills ch).timedOut ch = [k]) :
    countTick ch s = timeOut ch k { s with cache := s.cache.ageFills ch } := by
  simp only [countTick, h, List.foldl_cons, List.foldl_nil]

theorem countTick_quiet (h : ∀ r ∈ s.cache.fills, r.2.owner = ch → r.2.age < 3) :
    countTick ch s = { s with cache := s.cache.ageFills ch } := by
  have hnone : (s.cache.ageFills ch).timedOut ch = [] := by
    have hyoung : (s.cache.ageFills ch).fills.filter
        (fun r => r.2.owner == ch && decide (Config.fetchTimeout ≤ r.2.age)) = [] := by
      refine List.filter_eq_nil_iff.2 fun r hr hold => ?_
      simp only [Bool.and_eq_true, beq_iff_eq, decide_eq_true_eq] at hold
      obtain ⟨q, hq, rfl⟩ := List.mem_map.1 hr
      obtain ⟨ho, ha⟩ := hold
      by_cases hqo : q.2.owner = ch
      · have hage := h q hq hqo
        simp only [hqo, if_true] at ha
        exact absurd ha (by simp only [Config.fetchTimeout]; omega)
      · rw [if_neg hqo] at ho
        exact hqo ho
    rw [Cache.timedOut, hyoung]
    rfl
  simp only [countTick, hnone, List.foldl_nil]

/-- The phase of a tick after its count (R146). -/
def phaseCounted (s : State) (ch : ChanId) : TickPhase :=
  if s.cache.ticks.get ch = .settled then .counted else .settled

theorem exec_fetchTimeout (h : s.cache.ticks.get ch ≠ .counted) :
    exec (.fetchTimeout ch) s = .next (countTick ch (s.setPhase ch (phaseCounted s ch))) := by
  refine congrArg Host.Outcome.next ?_
  simp only [tickCounted, phaseCounted]
  cases hp : s.cache.ticks.get ch with
  | settled => rfl
  | presented => rfl
  | counted => exact absurd hp h

/-- A fill with a slot times out: it is aborted, its owner's preload flag is cleared, and FETCH_TIMEOUT is raised. -/
theorem timeOut_slot {k : Nat} {z : Fill} {x : Slot} (hz : SMap.find s.cache.fills k = some z)
    (hx : SMap.find s.cache.slots z.slot = some x) : timeOut ch k s =
      raise ch.val (.fetchTimeout x.feed x.frame k z.next)
        (State.setChan { s with cache := s.cache.abort k .timeout } ch { s.chan ch with preload := false }) := by
  simp only [timeOut, hz, hx]

/-- Settles O46: fills age, and those that time out go one after the other. -/
theorem fetchTimeoutAgesAndAborts : Obligations.FetchTimeoutAgesAndAborts := by
  refine ⟨?_, ?_, ?_, ?_⟩
  · intro s ch hp hyoung aged phase
    rw [exec_fetchTimeout hp, countTick_quiet (s := s.setPhase ch _) hyoung]
    rfl
  · intro s ch k z x hp hwf hslots hz ho ha hyoung hx aged phase u
    have hone : (((s.setPhase ch phase).cache.ageFills ch).timedOut ch) = [k] :=
      Cache.timedOut_single hwf hz ho ha hyoung
    have hfind := Cache.ageFills_find (s.setPhase ch phase).cache ch k
    rw [show SMap.find (s.setPhase ch phase).cache.fills k = some z from hz, Option.map_some, if_pos ho] at hfind
    refine ⟨_, (exec_fetchTimeout hp).trans (congrArg Host.Outcome.next ((countTick_single hone).trans
      (timeOut_slot hfind hx))), ?_, ?_⟩
    · exact Cache.abort_aborted _ k _ x .timeout (Cache.ageFills_wf hwf ch) hslots hfind hx
    · rfl
  · intro s ch hp hwf
    exact ⟨_, exec_fetchTimeout hp, fun k z hz => countTick_counts (s := s.setPhase ch _) hwf hz⟩
  · intro s ch k z x hp hfills ho ha hx hcells
    have hwf : SMap.wf s.cache.fills = true := by rw [hfills]; rfl
    have hz : SMap.find s.cache.fills k = some z := by rw [hfills]; simp [SMap.find]
    have hyoung : ∀ r ∈ s.cache.fills, r.1 ≠ k → r.2.owner = ch → r.2.age < 3 := fun r hr hk => by
      rw [hfills, List.mem_singleton] at hr
      exact absurd (congrArg Prod.fst hr) hk
    let v := s.setPhase ch (phaseCounted s ch)
    have hone : (v.cache.ageFills ch).timedOut ch = [k] := Cache.timedOut_single hwf hz ho (by omega) hyoung
    have hfind := Cache.ageFills_find v.cache ch k
    rw [show SMap.find v.cache.fills k = some z from hz, Option.map_some, if_pos ho] at hfind
    have hcell : ∀ (d : Detail) (u : State), d.cls = .fetchTimeout → u.cells = s.cells →
        (raise ch.val d u).cell (28 + ch.val) = (u.cell (28 + ch.val)).take d := fun d u hd hu => by
      refine (raise_cell _ _ _ _).trans (if_pos ⟨by rw [hd]; rfl, ?_⟩)
      rw [hu, hcells]
      omega
    refine ⟨_, (exec_fetchTimeout hp).trans (congrArg Host.Outcome.next ((countTick_single hone).trans
      (timeOut_slot hfind hx))), ?_, ?_, ?_, ?_, ?_, rfl, rfl, ?_⟩
    · have hshape : ((v.cache.ageFills ch).abort k .timeout).fills = [] := by
        rw [Cache.abort_fills hfind]
        simp [Cache.freeContext, Cache.ageFills, v, State.setPhase, hfills, SMap.del, ho]
      exact hshape
    · exact (State.chan_setChan _ ch ch _).trans (if_pos rfl)
    · exact fun d hd => (State.chan_setChan _ ch d _).trans (if_neg hd)
    · exact congrArg Cell.latch (hcell _ _ rfl rfl)
    · exact congrArg Cell.detail (hcell _ _ rfl rfl)
    · exact fun w hw => Cache.abort_told hfind hx .timeout hw w

end Sys2Proof.Machine
end

section
/-!
PROOFS. EJECT (R87, R113): the channel enters IDLE, and the gang it led or followed is left (O23).
-/

-- Proofs checked in turn: side by side they need more threads than the memory limit of check.sh has room for.
set_option Elab.async false

namespace Sys2Proof.Machine

variable {s t : State} {m ch : ChanId}

/-! ## The entry into IDLE -/

/-- An entry into IDLE changes channels, gangs, use counts and the Frame Cache alone. -/
def Idled (s t : State) : Prop := ∃ g k q c, t = { s with gangs := g, cache := k, chans := q, clips := c }

theorem Idled.trans {u : State} (h : Idled s t) (h' : Idled t u) : Idled s u := by
  obtain ⟨_, _, _, _, rfl⟩ := h
  obtain ⟨g, k, q, c, rfl⟩ := h'
  exact ⟨g, k, q, c, rfl⟩

theorem enterIdle_idled (ch : ChanId) (s : State) : Idled s (enterIdle ch s) := by
  have hdrop : Idled s (dropMaterial ch s) := by
    unfold dropMaterial
    rw [changeMaterial_whole]
    exact ⟨_, _, _, _, rfl⟩
  unfold enterIdle
  dsimp only
  split
  · exact hdrop.trans ⟨_, _, _, _, rfl⟩
  · exact hdrop

theorem slaveToIdle_idled (m ch : ChanId) (s : State) : Idled s (slaveToIdle m ch s) :=
  Idled.trans ⟨_, _, _, _, rfl⟩ (enterIdle_idled ch (leaveGang m ch s))

theorem ejectSlaves_idled (m : ChanId) (s : State) : Idled s (ejectSlaves m s) :=
  List.foldlRecOn (motive := Idled s) _ _ ⟨_, _, _, _, rfl⟩ fun t h g _ => h.trans (slaveToIdle_idled m g.ch t)

theorem eject_idled (ch : ChanId) (s : State) : Idled s (eject ch s) := by
  unfold eject
  split
  · exact ⟨_, _, _, _, rfl⟩
  · split
    · exact slaveToIdle_idled _ ch s
    · exact enterIdle_idled ch s
  · exact (enterIdle_idled ch s).trans (ejectSlaves_idled ch _)

theorem enterIdle_pins (c d : ChanId) (s : State) : (enterIdle c s).cache.pins.get d =
    if d = c ∧ (s.chan c).opts.idlePicture = .black then [] else s.cache.pins.get d := by
  rw [(enterIdle_keeps s c).2.2.2]
  by_cases hb : (s.chan c).opts.idlePicture = .black
  · rw [if_pos hb, Cache.setPins_pins, Quad.get_set]
    simp only [hb, and_true]
  · rw [if_neg hb, if_neg fun h => hb h.2]

/-! ## A slave that enters IDLE -/

theorem slaveToIdle_chan (m c d : ChanId) (s : State) :
    (slaveToIdle m c s).chan d = if d = c then lostSlave (s.chan c) else s.chan d :=
  (loseSlave_does s m ⟨c, 0, 0⟩).1 d

theorem slaveToIdle_pins (m c d : ChanId) (s : State) : (slaveToIdle m c s).cache.pins.get d =
    if d = c ∧ (s.chan c).opts.idlePicture = .black then [] else s.cache.pins.get d := by
  have hown : (leaveGang m c s).chan c = { s.chan c with slaveClamped := false } :=
    (State.chan_setChan ..).trans (if_pos rfl)
  rw [slaveToIdle, enterIdle_pins, hown]
  rfl

/-- From `s` to `t` slaves `l` of master `m` entered IDLE, with no notice. -/
structure SlavesIdled (m : ChanId) (l : List GangSlave) (s t : State) : Prop where
  idle : ∀ g ∈ l, (t.chan g.ch).state = .idle ∧ (t.chan g.ch).material = none
  others : ∀ d, (∀ g ∈ l, g.ch ≠ d) → t.chan d = s.chan d ∧ t.cache.pins.get d = s.cache.pins.get d
  gang : ∀ h ∈ t.gangs.get m, h ∈ s.gangs.get m ∧ ∀ g ∈ l, h.ch ≠ g.ch

theorem slavesIdled_foldl (m : ChanId) (l : List GangSlave) (s : State) :
    SlavesIdled m l s (l.foldl (fun acc g => slaveToIdle m g.ch acc) s) := by
  induction l generalizing s with
  | nil => exact ⟨by simp, fun _ _ => ⟨rfl, rfl⟩, fun h hh => ⟨hh, by simp⟩⟩
  | cons g l ih =>
    have hrest := ih (slaveToIdle m g.ch s)
    refine ⟨List.forall_mem_cons.2 ⟨?_, hrest.idle⟩, fun d hd => ?_, fun h hh => ?_⟩
    · by_cases hin : ∃ g' ∈ l, g'.ch = g.ch
      · obtain ⟨g', hg', he⟩ := hin
        exact he ▸ hrest.idle g' hg'
      · rw [List.foldl_cons, (hrest.others g.ch fun g' hg' he => hin ⟨g', hg', he⟩).1, slaveToIdle_chan, if_pos rfl]
        exact ⟨rfl, rfl⟩
    · obtain ⟨hne, hl⟩ := List.forall_mem_cons.1 hd
      obtain ⟨hchan, hpins⟩ := hrest.others d hl
      exact ⟨hchan.trans ((slaveToIdle_chan ..).trans (if_neg hne.symm)),
        hpins.trans ((slaveToIdle_pins ..).trans (if_neg fun h => hne h.1.symm))⟩
    · obtain ⟨hmem, hout⟩ := hrest.gang h hh
      obtain ⟨hin, hne⟩ := (slaveToIdle_freed m g.ch s).mem_get.1 hmem
      exact ⟨hin, List.forall_mem_cons.2 ⟨hne rfl, hout⟩⟩

/-! ## EJECT (R87) -/

theorem exec_eject (hr : s.ready) (tag n : Byte) {st : Status} {result : List Byte}
    (h : cmdEject n.toNat s = ⟨t, st, result⟩) : exec (.eject tag [n]) s = answers 17#8 tag t st result :=
  arrive_answers (act := cmdEject) hr ⟨17#8, tag, _⟩ (parseByte_one n) h

theorem eject_idle (h : (s.chan ch).state = .idle) : eject ch s = s := by simp only [eject, h]

theorem eject_free (hi : (s.chan ch).state ≠ .idle) (hs : (s.chan ch).state ≠ .slave) :
    eject ch s = ejectSlaves ch (enterIdle ch s) := by
  unfold eject
  split
  · exact absurd ‹_› hi
  · exact absurd ‹_› hs
  · rfl

/-- A channel that is no slave takes its slaves with it into IDLE. -/
theorem eject_free_slaves (hi : (s.chan ch).state ≠ .idle) (hs : (s.chan ch).state ≠ .slave) :
    SlavesIdled ch (s.gangs.get ch) (enterIdle ch s) (eject ch s) := by
  have hslaves := slavesIdled_foldl ch ((enterIdle ch s).gangs.get ch) (enterIdle ch s)
  rw [(enterIdle_keeps s ch).1] at hslaves
  rw [eject_free hi hs]
  unfold ejectSlaves
  rw [(enterIdle_keeps s ch).1]
  exact hslaves

theorem GangsApart.others (ha : GangsApart s) : ∀ g ∈ s.gangs.get ch, g.ch ≠ ch := fun g hg he =>
  (List.nodup_cons.1 (ha ch)).1 (List.mem_map.2 ⟨g, hg, he⟩)

/-- The own fields, the pins and the gang of a channel that EJECT brought into IDLE. -/
structure Ejected (ch : ChanId) (s t : State) : Prop where
  chan : ∃ clamped, t.chan ch = { lostSlave (s.chan ch) with slaveClamped := clamped } ∧
    ((s.chan ch).state ≠ .slave → clamped = (s.chan ch).slaveClamped)
  pins : t.cache.pins.get ch = if (s.chan ch).opts.idlePicture = .black then [] else s.cache.pins.get ch
  led : (s.chan ch).state ≠ .slave → t.gangs.get ch = [] ∧
    ∀ g ∈ s.gangs.get ch, (t.chan g.ch).state = .idle ∧ (t.chan g.ch).material = none
  followed : (s.chan ch).state = .slave → ∀ m g, masterOf s ch = some (m, g) →
    (∀ g' ∈ t.gangs.get m, g'.ch ≠ ch) ∧ (t.chan ch).slaveClamped = false

theorem eject_ejected_free (ha : GangsApart s) (hi : (s.chan ch).state ≠ .idle) (hs : (s.chan ch).state ≠ .slave) :
    Ejected ch s (eject ch s) := by
  have hslaves := eject_free_slaves hi hs
  obtain ⟨hchan, hpins⟩ := hslaves.others ch ha.others
  refine ⟨⟨_, hchan.trans ((enterIdle_chan s ch ch).trans (if_pos rfl)), fun _ => rfl⟩, ?_, fun _ => ⟨?_, hslaves.idle⟩,
    fun h => absurd h hs⟩
  · rw [hpins, enterIdle_pins]
    simp only [true_and]
  · refine List.eq_nil_iff_forall_not_mem.2 fun h hh => ?_
    obtain ⟨hmem, hout⟩ := hslaves.gang h hh
    rw [(enterIdle_keeps s ch).1] at hmem
    exact hout h hmem rfl

theorem eject_slave {g : GangSlave} (hs : (s.chan ch).state = .slave) (hm : masterOf s ch = some (m, g)) :
    eject ch s = slaveToIdle m ch s := by simp only [eject, hs, hm]

theorem eject_unled (hs : (s.chan ch).state = .slave) (hm : masterOf s ch = none) :
    eject ch s = enterIdle ch s := by simp only [eject, hs, hm]

theorem eject_ejected_slave (hs : (s.chan ch).state = .slave) : Ejected ch s (eject ch s) := by
  have hled : ∀ {p : Prop}, (s.chan ch).state ≠ .slave → p := fun h => absurd hs h
  cases hm : masterOf s ch with
  | none =>
    rw [eject_unled hs hm]
    refine ⟨⟨_, (enterIdle_chan s ch ch).trans (if_pos rfl), hled⟩, ?_, hled, fun _ m g h => ?_⟩
    · rw [enterIdle_pins]
      simp only [true_and]
    · rw [hm] at h
      cases h
  | some master =>
    obtain ⟨m, g⟩ := master
    rw [eject_slave hs hm]
    refine ⟨⟨_, (slaveToIdle_chan m ch ch s).trans (if_pos rfl), hled⟩, ?_, hled, fun _ m' g' h => ⟨?_, ?_⟩⟩
    · rw [slaveToIdle_pins]
      simp only [true_and]
    · rw [hm] at h
      cases h
      exact fun g' hg' => ((slaveToIdle_freed m ch s).mem_get.1 hg').2 rfl
    · rw [slaveToIdle_chan, if_pos rfl]
      rfl

/-- Settles O23, by the part the channel has in a gang: none or master, and slave. -/
theorem ejectEntersIdle : Obligations.EjectEntersIdle := by
  refine ⟨fun s tag n hr => ⟨fun hn => ?_, fun hn he => ?_⟩, fun s tag ch hr he ha => ?_⟩
  · exact exec_eject hr tag n (withEngaged_number hn)
  · exact exec_eject hr tag n (withEngaged_disengaged hn he)
  · have hexec : exec (.eject tag [byteOf ch.val]) s = answers 17#8 tag (eject ch s) .ok [] :=
      exec_eject hr tag _ (withEngaged_acts (names_chanByte he))
    refine ⟨fun hi => ?_, fun hi => ⟨_, hexec, ?_⟩⟩
    · rw [hexec, eject_idle hi]
    · have hejected : Ejected ch s (eject ch s) := by
        by_cases hs : (s.chan ch).state = .slave
        · exact eject_ejected_slave hs
        · exact eject_ejected_free ha hi hs
      obtain ⟨hchan, hpins, hled, hfollowed⟩ := hejected
      obtain ⟨g, k, q, c, hwhole⟩ := eject_idled ch s
      refine ⟨hchan, fun hb => hpins.trans (if_pos hb), fun hb => hpins.trans (if_neg hb), hled, hfollowed, ?_⟩
      rw [hwhole]
      exact ⟨rfl, rfl, rfl, rfl, rfl, rfl, rfl, rfl⟩

end Sys2Proof.Machine
end

section
/-!
PROOFS. What a channel's cue lookups do (R79, R80), and what the slaves of a master do after its cue or GO_LIVE (R112).
-/

-- Proofs checked in turn: side by side they need more threads than the memory limit of check.sh has room for.
set_option Elab.async false

namespace Sys2Proof.Machine

variable {s t u v : State} {m ch : ChanId} {w : Window}

/-! ## Lookups of a cue (R79, R80) -/

/-- A lookup that does not end the cue wait raises nothing. -/
theorem sendLookup_unready {f : FeedId} {n : Nat}
    (h : ¬ ((lookup ch f n s).2 = .resident ∧ (s.chan ch).cueWait = some ⟨f, n⟩)) :
    ((sendLookup ch f n s).chan ch).cueWait = (s.chan ch).cueWait ∧ (sendLookup ch f n s).cells = s.cells := by
  by_cases hfailed : (lookup ch f n s).2 = .notAvailable .damaged ∧
      ∃ sel, (s.chan ch).selection = some sel ∧ sel.feed = f ∧ sel.frame = n
  · obtain ⟨sel, hsel, hf, hn⟩ := hfailed.2
    rw [sendLookup_failed ch hfailed.1 hsel hf hn, lookup_keeps]
    simp
  · rw [sendLookup_other ch h hfailed, lookup_chan, lookup_keeps]
    exact ⟨rfl, rfl⟩

/-- Lookups of other frames than the one the cue waits for raise nothing, and leave the wait. -/
theorem sendLookups_unasked {f : FeedId} {l : List Nat} (h : ∀ n ∈ l, (s.chan ch).cueWait ≠ some ⟨f, n⟩) :
    ((sendLookups ch f l s).chan ch).cueWait = (s.chan ch).cueWait ∧ (sendLookups ch f l s).cells = s.cells := by
  refine List.foldlRecOn l _
    (motive := fun t : State => (t.chan ch).cueWait = (s.chan ch).cueWait ∧ t.cells = s.cells) ⟨rfl, rfl⟩
    fun t ht n hn => ?_
  split
  · obtain ⟨hwait, hcells⟩ := sendLookup_unready (ch := ch) (f := f) (n := n) (s := t) fun hr => h n hn (ht.1 ▸ hr.2)
    exact ⟨hwait.trans ht.1, hcells.trans ht.2⟩
  · exact ht

/-- The lookups `l` of a channel begin with frame `e` and do not come back to it. -/
def startsAt (e : Nat) (l : List Nat) : Prop := l = [] ∨ ∃ rest, l = e :: rest ∧ e ∉ rest

theorem preloadFrames_bounds {reverse : Bool} {e d n : Nat} (h : n ∈ preloadFrames reverse w e d) :
    if reverse then n ≤ e else e ≤ n := by
  induction d generalizing e with
  | zero => cases h
  | succ d ih =>
    rcases List.mem_cons.1 h with rfl | h
    · split <;> exact le_rfl
    · cases reverse with
      | false =>
        simp only [Bool.false_eq_true, if_false] at h ih ⊢
        split at h
        · have := ih h
          omega
        · cases h
      | true =>
        simp only [if_true] at h ih ⊢
        split at h
        · have := ih h
          omega
        · cases h

theorem preloadFrames_startsAt (reverse : Bool) (w : Window) (e d : Nat) :
    startsAt e (preloadFrames reverse w e d) := by
  cases d with
  | zero => exact .inl rfl
  | succ d =>
    refine .inr ⟨_, rfl, fun h => ?_⟩
    cases reverse with
    | false =>
      simp only [Bool.false_eq_true, if_false] at h
      split at h
      · have := preloadFrames_bounds h
        simp only [Bool.false_eq_true, if_false] at this
        omega
      · cases h
    | true =>
      simp only [if_true] at h
      split at h
      · have := preloadFrames_bounds h
        simp only [if_true] at this
        omega
      · cases h

theorem mem_preloadFrames_self (reverse : Bool) (w : Window) (e d : Nat) :
    e ∈ preloadFrames reverse w e d ↔ 0 < d := by
  cases d with
  | zero => simp [preloadFrames]
  | succ d => simp [preloadFrames]

/-- What the lookups `l` of a waiting channel do for its cue: RESIDENT for the frame ends the wait with CUE_READY. -/
theorem sendLookups_waiting {sel : Selection} {l : List Nat} (hp : (s.chan ch).permit = true)
    (hwait : (s.chan ch).cueWait = some ⟨sel.feed, sel.frame⟩) (hl : startsAt sel.frame l) :
    let ready := sel.frame ∈ l ∧ (lookup ch sel.feed sel.frame s).2 = .resident
    let t := sendLookups ch sel.feed l s
    (t.chan ch).cueWait = (if ready then none else some ⟨sel.feed, sel.frame⟩) ∧
      (ready →
        t.cells = (raise ch.val (.cueReady (materialId (s.chan ch).material) sel.feed sel.frame) s).cells) := by
  intro ready t
  rcases hl with rfl | ⟨rest, rfl, hrest⟩
  · have hno : ¬ ready := fun h => nomatch h.1
    exact ⟨hwait.trans (if_neg hno).symm, fun h => absurd h hno⟩
  · have ht : t = sendLookups ch sel.feed rest (sendLookup ch sel.feed sel.frame s) := sendLookups_cons ch hp rest
    by_cases hr : (lookup ch sel.feed sel.frame s).2 = .resident
    · have hone := sendLookup_ready ch hr hwait
      have hnone : ((sendLookup ch sel.feed sel.frame s).chan ch).cueWait = none := by
        rw [hone, raise_chan, State.chan_setChan, if_pos rfl]
      obtain ⟨hquiet, hcells⟩ := sendLookups_quiet sel.feed rest _ hnone
      rw [← ht] at hquiet hcells
      refine ⟨hquiet.trans (if_pos ⟨List.mem_cons_self, hr⟩).symm, fun _ => hcells.trans ?_⟩
      rw [hone, lookup_keeps]
      rfl
    · have hno : ¬ ready := fun h => hr h.2
      obtain ⟨hone, -⟩ := sendLookup_unready (ch := ch) (f := sel.feed) (n := sel.frame) (s := s) fun h => hr h.1
      obtain ⟨hkept, -⟩ := sendLookups_unasked (ch := ch) (f := sel.feed) (l := rest)
        (s := sendLookup ch sel.feed sel.frame s) fun n hn he => by
          rw [hone, hwait] at he
          cases he
          exact hrest hn
      refine ⟨?_, fun h => absurd h hno⟩
      rw [if_neg hno, ht, hkept, hone, hwait]

theorem lookedUp_feeds (f : FeedId) (l : List Nat) (s : State) : (lookedUp ch f l s).feeds = s.feeds :=
  List.foldlRecOn (motive := fun t : State => t.feeds = s.feeds) l _ rfl fun t ht n _ => by
    rw [lookup_keeps]
    exact ht

/-! ## One slave after its master's command (R112) -/

/-- The frames a slave looks up after its master's command. -/
def SlaveFetch.asks : SlaveFetch → Channel → Window → List Nat
  | .preload reverse => slavePreload reverse
  | .selected => slaveFrame

/-- A slave placed inside its window, waiting for no cue. -/
structure Channel.Following (x : Channel) (g : GangSlave) (sw : Window) : Prop where
  window : x.window = some sw
  lo : sw.lo * 1024 ≤ x.pos
  hi : x.pos ≤ sw.hi * 1024 + 1023
  slave : x.state = .slave
  material : x.material = some (.feed g.feed)
  quiet : x.cueWait = none

theorem selectSlave_eq {g : GangSlave} {sw : Window} (h : (u.chan g.ch).window = some sw) : selectSlave g u =
    u.setChan g.ch { u.chan g.ch with selection := some ((u.chan g.ch).select g.feed sw), damaged := false } := by
  unfold selectSlave
  dsimp only
  split
  · rename_i hnone
    cases h.symm.trans hnone
  · rename_i hsome
    cases h.symm.trans hsome
    rfl

section Follower

variable {x : Channel} {g : GangSlave} {sw : Window} (h : x.Following g sw)
include h

/-- A slave selects at its position and looks up what the command asks for. -/
theorem fetchSlave_selectSlave (how : SlaveFetch) (hx : u.chan g.ch = x) :
    fetchSlave how g (selectSlave g u) = sendLookups g.ch g.feed (how.asks x sw)
      (u.setChan g.ch { x with selection := some (pickedAt x g.feed sw x.pos), damaged := false }) := by
  subst hx
  rw [selectSlave_eq h.window]
  obtain ⟨hlo, hhi, -⟩ := pickedAt_inside (x := u.chan g.ch) g.feed h.lo h.hi
  simp only [fetchSlave, State.chan_setChan, if_true, h.window]
  cases how with
  | preload reverse => exact congrArg (fun l => sendLookups g.ch g.feed l _) (preloadFrames_eq _ _ _ _ hlo hhi)
  | selected => rfl

theorem cuedSlave_eq (s : State) (asks : Channel → Window → List Nat) :
    let sel := pickedAt x g.feed sw x.pos
    cuedSlave s asks g sw x = { x with
      selection := some sel, damaged := decide (sel.frame ∈ asks x sw ∧ namesDamaged s g.ch sel) } := by
  have hx : ({ x with material := some (.feed g.feed) } : Channel) = x := by rw [← h.material]
  simp only [cuedSlave, hx, h.material]

/-- What one slave does after its master's command. -/
theorem fetchSlave_does (how : SlaveFetch) (hx : u.chan g.ch = x) (hf : u.feeds = s.feeds) :
    let t := fetchSlave how g (selectSlave g u)
    t.chan g.ch = cuedSlave s how.asks g sw x ∧
      t.cache = (lookedUp g.ch g.feed (how.asks x sw) u).cache := by
  intro t
  let sel := pickedAt x g.feed sw x.pos
  let v := u.setChan g.ch { x with selection := some sel, damaged := false }
  have ht : t = sendLookups g.ch sel.feed (how.asks x sw) v := fetchSlave_selectSlave h how hx
  have hv : v.chan g.ch = { x with selection := some sel, damaged := false } :=
    (State.chan_setChan ..).trans (if_pos rfl)
  have hp : (v.chan g.ch).permit = true := by
    rw [hv, permit_iff]
    exact ⟨by simp [h.slave], .inl h.slave⟩
  have hquiet : (t.chan g.ch).cueWait = x.cueWait := by
    rw [h.quiet, ht]
    exact (sendLookups_quiet sel.feed (how.asks x sw) v (by rw [hv]; exact h.quiet)).1
  have hdamaged : namesDamaged v g.ch sel ↔ namesDamaged s g.ch sel :=
    lookup_damaged_congr g.ch sel.feed (s := s) (t := v) hf g.ch sel.frame
  have hchan := sendLookups_chan (how.asks x sw) v (congrArg Channel.selection hv)
  rw [← ht, hp, hquiet, hv] at hchan
  simp only [Bool.false_or, Bool.true_and, hdamaged] at hchan
  refine ⟨hchan.trans (cuedSlave_eq h s how.asks).symm, ?_⟩
  rw [ht, sendLookups_cache _ _ _ _ hp]
  exact lookedUp_reads _ _ _ rfl rfl

end Follower

/-! ## The slaves of a master after its command (R108, R112) -/

theorem selectSlave_alone (g : GangSlave) (s : State) : Alone g.ch [g.ch.val] s (selectSlave g s) := by
  unfold selectSlave
  dsimp only
  split
  · exact .refl _ _ s
  · exact (Alone.refl g.ch _ s).setChan

theorem fetchSlave_alone (how : SlaveFetch) (g : GangSlave) (s : State) :
    Alone g.ch [g.ch.val] s (fetchSlave how g s) := by
  unfold fetchSlave
  dsimp only
  split
  · split <;> exact sendLookups_alone ..
  · exact .refl _ _ s

/-- The selections and lookups of some slaves, in list order. -/
def fetchSlaves (how : SlaveFetch) (l : List GangSlave) (s : State) : State :=
  l.foldl (fun acc g => fetchSlave how g (selectSlave g acc)) s

/-- From `s` to `t` the slaves `l` alone have acted: on themselves, the cache, their own cells of CUE_READY. -/
structure SlavesActed (l : List GangSlave) (s t : State) : Prop where
  gangs : t.gangs = s.gangs
  feeds : t.feeds = s.feeds
  lists : t.lists = s.lists
  others : ∀ d, (∀ g ∈ l, g.ch ≠ d) → t.chan d = s.chan d
  cell : ∀ i, (∀ g ∈ l, i ≠ g.ch.val) → t.cell i = s.cell i

theorem fetchSlaves_acted (how : SlaveFetch) (l : List GangSlave) (s : State) :
    SlavesActed l s (fetchSlaves how l s) := by
  refine List.foldlRecOn (motive := SlavesActed l s) l _ ⟨rfl, rfl, rfl, fun _ _ => rfl, fun _ _ => rfl⟩
    fun t ht g hg => ?_
  have halone := (selectSlave_alone g t).trans (fetchSlave_alone how g (selectSlave g t))
  exact ⟨halone.gangs.trans ht.gangs, halone.feeds.trans ht.feeds, halone.lists.trans ht.lists,
    fun d hd => (halone.other d (hd g hg).symm).trans (ht.others d hd),
    fun i hi => (halone.cell i (by simpa using hi g hg)).trans (ht.cell i hi)⟩

theorem followMaster_eq (m : ChanId) (how : SlaveFetch) (s : State) :
    followMaster m how s = fetchSlaves how ((derive m s).gangs.get m) (derive m s) := rfl

/-- What a master's command leaves: its slaves and the cells of CUE_READY and WINDOW_LOST for them alone change. -/
structure Followed (m : ChanId) (s t : State) : Prop where
  others : ∀ d, (∀ g ∈ s.gangs.get m, g.ch ≠ d) → t.chan d = s.chan d
  feeds : t.feeds = s.feeds
  lists : t.lists = s.lists
  cell : ∀ i, (∀ d : ChanId, i ≠ 24 + d.val) → (∀ g ∈ s.gangs.get m, i ≠ g.ch.val) → t.cell i = s.cell i

theorem followMaster_followed (how : SlaveFetch) (hw : (s.chan m).window = some w)
    (hn : (m :: (s.gangs.get m).map (·.ch)).Nodup) : Followed m s (followMaster m how s) := by
  obtain ⟨hfollows, hothers, hfeeds, -⟩ := derive_does s m w hw hn
  obtain ⟨hlists, -, hcell⟩ := derive_keeps m s
  have hacted := fetchSlaves_acted how ((derive m s).gangs.get m) (derive m s)
  have hmem : ∀ g ∈ (derive m s).gangs.get m, g ∈ s.gangs.get m := fun g hg =>
    (List.mem_filter.1 (hfollows.record ▸ hg)).1
  rw [followMaster_eq]
  exact ⟨fun d hd => (hacted.others d fun g hg => hd g (hmem g hg)).trans (hothers d hd), hacted.feeds.trans hfeeds,
    hacted.lists.trans hlists, fun i hi hg => (hacted.cell i fun g hmem' => hg g (hmem g hmem')).trans (hcell i hi)⟩

/-- With no slaves nothing follows. -/
theorem followMaster_nil (how : SlaveFetch) (h : s.gangs.get m = []) : followMaster m how s = s := by
  have hderive : derive m s = s := by simp only [derive, h, List.foldl_nil]
  rw [followMaster_eq, hderive, h]
  rfl

/-- The lookups of one slave placed from master `y` in the window `w`, as `slavesLookedUp` has them. -/
def slaveLookedUp (s : State) (w : Window) (y : Channel) (asks : Channel → Window → List Nat) (acc : State)
    (g : GangSlave) : State :=
  match (s.feed g.feed).range with
  | none => acc
  | some r =>
    let sw := slaveSpan w r g.offset
    lookedUp g.ch g.feed (asks (derivedSlave (s.chan g.ch) y sw g.offset) sw) acc

theorem slavesLookedUp_eq (s : State) (gs : List GangSlave) (w : Window) (y : Channel)
    (asks : Channel → Window → List Nat) (t : State) : slavesLookedUp s gs w y asks t =
      (gs.filter fun g => (s.feed g.feed).range.isSome).foldl (slaveLookedUp s w y asks)
        { t with cache := lostPins s (windowless s gs) t.cache } := by
  rw [List.foldl_filter]
  refine List.foldl_ext _ _ _ fun acc g _ => ?_
  cases h : (s.feed g.feed).range <;> simp [slaveLookedUp, h]

/-- The slave of entry `g` on the feed of its entry, placed from master `y` in the window `w`. -/
def placedSlave (s : State) (y : Channel) (w r : Window) (g : GangSlave) : Channel :=
  derivedSlave (onAngle g (s.chan g.ch)) y (slaveSpan w r g.offset) g.offset

theorem placedSlave_following {y : Channel} {r : Window} {g : GangSlave} (hle : w.lo ≤ w.hi)
    (hr : (s.feed g.feed).range = some r) (hs : (s.chan g.ch).state = .slave) (hq : (s.chan g.ch).cueWait = none) :
    (placedSlave s y w r g).Following g (slaveSpan w r g.offset) := by
  obtain ⟨-, hsw, -⟩ := slaveWindow_spec (r := r) (a := (w.lo : Int) + g.offset) (b := (w.hi : Int) + g.offset)
    (Feed.range_eq hr).2.2 (by omega)
  obtain ⟨hlo, hhi, -⟩ := placeSlave_spec (w := slaveSpan w r g.offset) hsw ((y.pos : Int) + g.offset * 1024)
  exact ⟨rfl, hlo, hhi, hs, rfl, hq⟩

/-- The placed slaves of a list select and send their lookups one after the other. -/
theorem fetchSlaves_cues (how : SlaveFetch) (y : Channel) {l : List GangSlave} {a b : State} (hn : (l.map (·.ch)).Nodup)
    (ha : a.feeds = s.feeds) (hb : b.feeds = s.feeds) (hc : a.cache = b.cache)
    (hl : ∀ g ∈ l, ∃ r, (s.feed g.feed).range = some r ∧ a.chan g.ch = placedSlave s y w r g ∧
      (placedSlave s y w r g).Following g (slaveSpan w r g.offset)) :
    (∀ g ∈ l, ∀ r, (s.feed g.feed).range = some r → (fetchSlaves how l a).chan g.ch =
      cuedSlave s how.asks g (slaveSpan w r g.offset) (placedSlave s y w r g)) ∧
    (fetchSlaves how l a).cache = (l.foldl (slaveLookedUp s w y how.asks) b).cache := by
  induction l generalizing a b with
  | nil => exact ⟨by simp, hc⟩
  | cons g l ih =>
    obtain ⟨hg, hnl⟩ := List.nodup_cons.1 hn
    obtain ⟨⟨r, hr, hchan, hplaced⟩, hrest⟩ := List.forall_mem_cons.1 hl
    have hne : ∀ g' ∈ l, g'.ch ≠ g.ch := fun g' hg' he => hg (List.mem_map.2 ⟨g', hg', he⟩)
    obtain ⟨hcued, hcache⟩ := fetchSlave_does hplaced how hchan ha
    have halone := (selectSlave_alone g a).trans (fetchSlave_alone how g (selectSlave g a))
    have hlook : slaveLookedUp s w y how.asks b g =
        lookedUp g.ch g.feed (how.asks (placedSlave s y w r g) (slaveSpan w r g.offset)) b := by
      simp only [slaveLookedUp, hr]
      cases how <;> rfl
    obtain ⟨hchans, hcaches⟩ := ih (a := fetchSlave how g (selectSlave g a)) (b := slaveLookedUp s w y how.asks b g) hnl
      (halone.feeds.trans ha) (by rw [hlook, lookedUp_feeds, hb])
      (by rw [hcache, hlook]; exact lookedUp_reads _ _ _ (ha.trans hb.symm) hc)
      fun g' hg' => by
        rw [halone.other g'.ch (hne g' hg')]
        exact hrest g' hg'
    refine ⟨List.forall_mem_cons.2 ⟨fun r' hr' => ?_, hchans⟩, hcaches⟩
    cases hr.symm.trans hr'
    exact ((fetchSlaves_acted how l _).others g.ch hne).trans hcued

/-- A master's slaves, on the feeds of the entries `gs`, are placed from it, select and send their lookups. -/
theorem followMaster_cued (how : SlaveFetch) {gs : List GangSlave} {own : State}
    (hgangs : u.gangs = s.gangs.set m gs) (hslaves : ∀ g ∈ gs, u.chan g.ch = onAngle g (s.chan g.ch))
    (hfeeds : u.feeds = s.feeds) (hlength : u.cells.length = s.cells.length) (hw : (u.chan m).window = some w)
    (hle : w.lo ≤ w.hi) (hn : (m :: gs.map (·.ch)).Nodup)
    (hwhole : ∀ g ∈ gs, (s.chan g.ch).state = .slave ∧ (s.chan g.ch).cueWait = none) (hown : own.feeds = s.feeds)
    (hcache : u.cache = own.cache) : GangCued s (followMaster m how u) m gs w how.asks own := by
  have hgs : u.gangs.get m = gs := by rw [hgangs, Quad.get_set, if_pos rfl]
  have hfeed : ∀ f, u.feed f = s.feed f := State.feed_congr hfeeds
  obtain ⟨hm, hnl⟩ := List.nodup_cons.1 hn
  have hne : ∀ g ∈ gs, g.ch ≠ m := fun g hg he => hm (List.mem_map.2 ⟨g, hg, he⟩)
  obtain ⟨hfollows, hothers, hdfeeds, hdcache⟩ := derive_does u m w hw (hgs ▸ hn)
  simp only [hgs] at hfollows hothers hdcache
  have hrecord : (derive m u).gangs.get m = gs.filter fun g => (s.feed g.feed).range.isSome := by
    simpa only [hfeed] using hfollows.record
  have hmaster : (derive m u).chan m = u.chan m := hothers m hne
  have hacted := fetchSlaves_acted how (gs.filter fun g => (s.feed g.feed).range.isSome) (derive m u)
  have ht : followMaster m how u =
      fetchSlaves how (gs.filter fun g => (s.feed g.feed).range.isSome) (derive m u) := by
    rw [followMaster_eq, hrecord]
  have hpins : (derive m u).cache = lostPins s (windowless s gs) own.cache := by
    have hless : windowless u gs = windowless s gs := by simp only [windowless, hfeed]
    rw [hdcache, hcache, hless]
    exact lostPins_congr (fun g hg => by rw [hslaves g (List.mem_of_mem_filter hg)]; rfl) _
  obtain ⟨hcued, hlooked⟩ := fetchSlaves_cues (w := w) (a := derive m u)
    (b := { own with cache := lostPins s (windowless s gs) own.cache }) (s := s) how (u.chan m)
    (hnl.sublist (List.filter_sublist.map _)) (hdfeeds.trans hfeeds) hown hpins fun g hg => by
      obtain ⟨hmem, hsome⟩ := List.mem_filter.1 hg
      obtain ⟨r, hr⟩ := Option.isSome_iff_exists.1 hsome
      obtain ⟨hstate, hquiet⟩ := hwhole g hmem
      refine ⟨r, hr, ?_, placedSlave_following hle hr hstate hquiet⟩
      rw [hfollows.placed g hmem r (by rw [hfeed]; exact hr), hmaster, hslaves g hmem]
      rfl
  have hlost : ∀ g ∈ gs, (s.feed g.feed).range = none →
      ∀ g' ∈ gs.filter fun g => (s.feed g.feed).range.isSome, g'.ch ≠ g.ch := fun g hg hr g' hg' he => by
    obtain ⟨hmem, hsome⟩ := List.mem_filter.1 hg'
    cases List.inj_on_of_nodup_map hnl hmem hg he
    rw [hr] at hsome
    cases hsome
  have hown' : (followMaster m how u).chan m = u.chan m := by
    rw [ht]
    exact (hacted.others m fun g hg => hne g (List.mem_of_mem_filter hg)).trans hmaster
  refine ⟨⟨?_, fun k hk => ?_, fun g hg r hr => ?_, fun g hg hr => ?_⟩, ?_⟩
  · rw [ht, hacted.gangs, hrecord]
  · rw [ht, hacted.gangs, hfollows.others k hk, hgangs, Quad.get_set, if_neg hk]
  · rw [hown', ht, hcued g (List.mem_filter.2 ⟨hg, by rw [hr]; rfl⟩) r hr]
    cases how <;> rfl
  · obtain ⟨hchan, htold⟩ := hfollows.lost g hg (by rw [hfeed]; exact hr)
    refine ⟨?_, fun hlen => ?_⟩
    · rw [ht, hacted.others g.ch (hlost g hg hr), hchan, hslaves g hg]
      rfl
    · have hcell := hacted.cell (24 + g.ch.val) fun g' _ => by omega
      have := htold (hlength.trans hlen)
      rw [hfeed] at this
      rwa [ht, hcell]
  · rw [hown', ht, hlooked, slavesLookedUp_eq]

end Sys2Proof.Machine
end

section
/-!
PROOFS. A channel that takes material, is placed in its window and leads its slaves there: what CUE_CLIP, CUE_FEED,
GO_LIVE and TAKE_NEXT share (R75 to R81, R86, R111, R112).
-/

-- Proofs checked in turn: side by side they need more threads than the memory limit of check.sh has room for.
set_option Elab.async false

namespace Sys2Proof.Machine

variable {s t u v p : State} {ch : ChanId} {w : Window}

/-! ## What no cue changes -/

namespace TickFrame

variable (h : TickFrame ch s t)
include h

theorem aloneAt {d : ChanId} {ks : List Nat} (hd : s.reaches ch d) (ha : Alone d ks t u) : TickFrame ch s u where
  fixed := by
    rw [← h.fixed]
    have hopts : (fun e => (u.chan e).opts) = fun e => (t.chan e).opts := funext fun e => by
      by_cases he : e = d
      · rw [he, ha.opts]
      · rw [ha.other e he]
    have hlever : (fun e => (u.chan e).lever) = fun e => (t.chan e).lever := funext fun e => by
      by_cases he : e = d
      · rw [he, ha.lever]
      · rw [ha.other e he]
    obtain ⟨l, cs, k, q, rfl⟩ := ha.whole
    have hlatch : k.errorLatch = t.cache.errorLatch := ha.latch
    simp only [State.fixed, hopts, hlever, hlatch]
  lists e he := by rw [ha.lists]; exact h.lists e he
  gang := by rw [ha.gangs]; exact h.gang
  others e he := (ha.other e fun hed => he (hed ▸ hd)).trans (h.others e he)

theorem followMaster (how : SlaveFetch) : TickFrame ch s (followMaster ch how t) := by
  have hderive := h.derive
  exact hderive.foldl _ _ fun u hu g hg =>
    hu.aloneAt (hderive.slaves g hg) ((selectSlave_alone g u).trans (fetchSlave_alone how g _))

theorem feeds : t.feeds = s.feeds := congrArg Fixed.feeds h.fixed
theorem arbiter : t.arbiter = s.arbiter := congrArg Fixed.arbiter h.fixed
theorem curve : t.curve = s.curve := congrArg Fixed.curve h.fixed
theorem markRefs : t.markRefs = s.markRefs := congrArg Fixed.markRefs h.fixed
theorem panel : t.panel = s.panel := congrArg Fixed.panel h.fixed
theorem engaged : t.engaged = s.engaged := congrArg Fixed.engaged h.fixed
theorem storeSize : t.storeSize = s.storeSize := congrArg Fixed.storeSize h.fixed
theorem defaultLen : t.defaultLen = s.defaultLen := congrArg Fixed.defaultLen h.fixed

/-- The channels out of reach of a cue stay. -/
theorem unreached (d : ChanId) (hd : d ≠ ch) (hg : ∀ g ∈ s.gangs.get ch, g.ch ≠ d) : t.chan d = s.chan d :=
  h.others d fun hr => hr.elim hd fun ⟨g, hm, he⟩ => hg g hm he

theorem clip (k : Nat) : (SMap.find t.clips k).map (fun y => { y with useCount := 0 }) =
    (SMap.find s.clips k).map fun y => { y with useCount := 0 } := congrFun (congrArg Fixed.clip h.fixed) k

/-- A clip of the table keeps its angles. -/
theorem find_clip {id : Nat} {c : Clip} (hc : SMap.find s.clips id = some c) :
    ∃ d, SMap.find t.clips id = some d ∧ d.angles = c.angles := by
  have hclip := h.clip id
  rw [hc, Option.map_some, Option.map_eq_some_iff] at hclip
  obtain ⟨d, hd, hsame⟩ := hclip
  exact ⟨d, hd, (congrArg Clip.angles hsame :)⟩

end TickFrame

/-! ## A channel with new material -/

/-- From `s` to `v` channel `ch` has taken material `mat`, and no other channel has changed, nor has any gang. -/
structure Loaded (ch : ChanId) (mat : Material) (s v : State) : Prop where
  frame : TickFrame ch s v
  chan : v.chan ch = { s.chan ch with material := some mat }
  others : ∀ d, d ≠ ch → v.chan d = s.chan d
  gangs : v.gangs = s.gangs
  cache : v.cache = s.cache
  length : v.cells.length = s.cells.length

theorem changeMaterial_loaded (ch : ChanId) (mat : Material) (s : State) :
    Loaded ch mat s (changeMaterial ch (some mat) s) := by
  obtain ⟨hgangs, -, hcache, hcells⟩ := changeMaterial_keeps s ch (some mat)
  exact ⟨(TickFrame.refl ch s).changeMaterial (TickFrame.own ch s) _, (changeMaterial_chan ..).trans (if_pos rfl),
    fun d hd => (changeMaterial_chan ..).trans (if_neg hd), hgangs, hcache, congrArg List.length hcells⟩

theorem changeMaterial_lists (ch : ChanId) (mat : Material) (s : State) :
    (changeMaterial ch (some mat) s).lists = s.lists := by
  rw [changeMaterial_whole]
  rfl

/-! ## A channel placed in its window -/

/-- From `s` by way of `v`, with its new material, channel `ch` has been placed, as `x`, and has sent its lookups. -/
structure Asked (ch : ChanId) (x : Channel) (own s v p : State) : Prop where
  frame : TickFrame ch s p
  chan : p.chan ch = x
  others : ∀ d, d ≠ ch → p.chan d = s.chan d
  gangs : p.gangs = s.gangs
  cache : p.cache = own.cache
  lists : p.lists = v.lists
  cell : ∀ i, i ≠ ch.val → p.cell i = v.cell i
  length : p.cells.length = s.cells.length

/-- The lookups of a channel placed on a selection whose damaged mark is clear. -/
theorem sendLookups_asked {mat : Material} (h : Loaded ch mat s v) {x : Channel} {sel : Selection} (l : List Nat)
    (hsel : x.selection = some sel) (hmark : x.damaged = false) (hp : x.permit = true)
    (ho : x.opts = (s.chan ch).opts) (hl : x.lever = (s.chan ch).lever) :
    let p := sendLookups ch sel.feed l (v.setChan ch x)
    Asked ch { x with
      cueWait := (p.chan ch).cueWait
      damaged := decide (sel.frame ∈ l ∧ namesDamaged s ch sel) } (lookedUp ch sel.feed l s) s v p := by
  intro p
  have hx : (v.setChan ch x).chan ch = x := (State.chan_setChan ..).trans (if_pos rfl)
  have halone : Alone ch [ch.val] (v.setChan ch x) p := sendLookups_alone ch sel.feed l _
  have hframe : TickFrame ch s (v.setChan ch x) :=
    h.frame.setChan (TickFrame.own ch s) (by rw [h.chan]; exact ho) (by rw [h.chan]; exact hl)
  have hdamaged : namesDamaged (v.setChan ch x) ch sel ↔ namesDamaged s ch sel :=
    lookup_damaged_congr ch sel.feed (s := s) (t := v.setChan ch x) hframe.feeds ch sel.frame
  have hchan := sendLookups_chan l (v.setChan ch x) (by rw [hx]; exact hsel)
  rw [hx, hp, hmark] at hchan
  simp only [Bool.false_or, Bool.true_and, hdamaged] at hchan
  refine ⟨hframe.alone halone, hchan, fun d hd => ?_, halone.gangs.trans h.gangs, ?_, halone.lists,
    fun i hi => halone.cell i (by simpa using hi), halone.length.trans h.length⟩
  · rw [halone.other d hd, State.chan_setChan, if_neg hd, h.others d hd]
  · refine (sendLookups_cache ch sel.feed l _ (by rw [hx]; exact hp)).trans ?_
    exact lookedUp_reads ch sel.feed l hframe.feeds h.cache

/-! ## The channel cued (R77 to R80) -/

/-- The channel on frame `e` of its new material by a cue: waiting for the frame unless it is ready. -/
def Channel.cuedOn (x : Channel) (mat : Material) (f : FeedId) (w : Window) (e : Nat) (ready bad : Bool) : Channel :=
  { x with
    material := some mat, pos := e * 1024, speed := 0, target := 0, state := .cued, atLive := false, atTail := false
    window := some w, damaged := bad, preload := true, idleSel := none
    cueWait := if ready then none else some ⟨f, e⟩
    selection := some { feed := f, frame := e, partner := none, weight := 0, clip := materialId (some mat) } }

/-- The entry frame is RESIDENT at its preload (R80). -/
abbrev readyAt (s : State) (ch : ChanId) (f : FeedId) (e : Nat) : Prop :=
  0 < (s.chan ch).opts.preloadDepth ∧ (lookup ch f e s).2 = .resident

/-- The entry frame is DAMAGED at its preload (R91). -/
abbrev damagedAt (s : State) (ch : ChanId) (f : FeedId) (e : Nat) : Prop :=
  0 < (s.chan ch).opts.preloadDepth ∧ (lookup ch f e s).2 = .notAvailable .damaged

/-- The channel of a cue, placed and with its preload lookups sent, and CUE_READY if the frame was there. -/
theorem preload_asked {mat : Material} (h : Loaded ch mat s v) (f : FeedId) (reverse : Bool) {e : Nat}
    (hlo : w.lo ≤ e) (hhi : e ≤ w.hi) :
    let p := preload ch f w e reverse (v.setChan ch ((v.chan ch).cued f w e))
    Asked ch ((s.chan ch).cuedOn mat f w e (decide (readyAt s ch f e)) (decide (damagedAt s ch f e)))
        (lookedUp ch f (preloadList reverse w e (s.chan ch).opts.preloadDepth) s) s v p ∧
      (readyAt s ch f e → p.cells = (raise ch.val (.cueReady (materialId (some mat)) f e) v).cells) := by
  intro p
  let depth := (s.chan ch).opts.preloadDepth
  let sel : Selection := { feed := f, frame := e, partner := none, weight := 0, clip := materialId (some mat) }
  let x := (v.chan ch).cued f w e
  have hx : x = { s.chan ch with
      material := some mat, pos := e * 1024, speed := 0, target := 0, state := .cued, atLive := false, atTail := false
      window := some w, selection := some sel, damaged := false, preload := true, cueWait := some ⟨f, e⟩
      idleSel := none } := by
    simp only [x, h.chan]
    rfl
  have hown : (v.setChan ch x).chan ch = x := (State.chan_setChan ..).trans (if_pos rfl)
  have hp : p = sendLookups ch sel.feed (preloadFrames reverse w e depth) (v.setChan ch x) := by
    have hdepth : ((v.setChan ch x).chan ch).opts.preloadDepth = depth := by rw [hown, hx]
    show sendLookups ch f (preloadFrames reverse w e ((v.setChan ch x).chan ch).opts.preloadDepth) _ = _
    rw [hdepth]
  have hpermit : x.permit = true := by
    rw [permit_iff, hx]
    exact ⟨by simp, .inr (.inr rfl)⟩
  have hmem : e ∈ preloadFrames reverse w e depth ↔ 0 < depth := mem_preloadFrames_self reverse w e depth
  have hlook : (lookup ch f e (v.setChan ch x)).2 = (lookup ch f e s).2 :=
    (lookup_reads ch f e (s := s) (t := v.setChan ch x) h.frame.feeds h.cache).1
  obtain ⟨hwait, htold⟩ := sendLookups_waiting (ch := ch) (s := v.setChan ch x) (sel := sel)
    (l := preloadFrames reverse w e depth) (by rw [hown]; exact hpermit) (by rw [hown, hx])
    (preloadFrames_startsAt reverse w e depth)
  have hready : (sel.frame ∈ preloadFrames reverse w e depth ∧
      (lookup ch sel.feed sel.frame (v.setChan ch x)).2 = .resident) ↔ readyAt s ch f e := by
    rw [hmem]
    exact and_congr_right fun _ => by rw [hlook]
  have hasked := sendLookups_asked h (x := x) (sel := sel) (preloadFrames reverse w e depth) (by rw [hx])
    (by rw [hx]) hpermit (by rw [hx]) (by rw [hx])
  have hframes : preloadFrames reverse w e depth = preloadList reverse w e depth := preloadFrames_eq _ _ _ _ hlo hhi
  dsimp only at hasked
  rw [← hp] at hwait htold hasked
  have hwait' : (p.chan ch).cueWait = if readyAt s ch f e then none else some ⟨f, e⟩ :=
    hwait.trans (if_congr hready rfl rfl)
  have hbad : decide (sel.frame ∈ preloadFrames reverse w e depth ∧ namesDamaged s ch sel) =
      decide (damagedAt s ch f e) := decide_eq_decide.2 (and_congr hmem Iff.rfl)
  have hplaced : ({ x with cueWait := (p.chan ch).cueWait, damaged := decide (damagedAt s ch f e) } : Channel) =
      (s.chan ch).cuedOn mat f w e (decide (readyAt s ch f e)) (decide (damagedAt s ch f e)) := by
    rw [hwait', hx]
    simp only [Channel.cuedOn, decide_eq_true_eq]
    rfl
  rw [hbad, hplaced, hframes] at hasked
  refine ⟨hasked, fun hr => (htold (hready.2 hr)).trans ?_⟩
  rw [hown, show x.material = some mat by rw [hx]]
  exact (raise_congr (s := v) (t := v.setChan ch x) rfl rfl _ _).1

/-! ## The slaves after a placed master (R111, R112) -/

/-- From `p` to `u` the slaves of `ch` have taken the entries `gs`, and if `sure` each is on the feed of its entry. -/
structure Angled (ch : ChanId) (gs : List GangSlave) (sure : Prop) (p u : State) : Prop where
  gangs : u.gangs = p.gangs.set ch gs
  names : gs.map (·.ch) = (p.gangs.get ch).map (·.ch)
  slaves : sure → ∀ g ∈ gs, u.chan g.ch = onAngle g (p.chan g.ch)
  others : ∀ d, (∀ g ∈ p.gangs.get ch, g.ch ≠ d) → u.chan d = p.chan d
  feeds : u.feeds = p.feeds
  cache : u.cache = p.cache
  cells : u.cells = p.cells
  lists : u.lists = p.lists

/-- A clip gives the slaves of its master its angles. -/
theorem assignOwnAngles_angled {id : Nat} {c : Clip} (hm : (p.chan ch).material = some (.clip id))
    (hc : SMap.find p.clips id = some c) (hn : ((p.gangs.get ch).map (·.ch)).Nodup) :
    Angled ch (assigned (p.gangs.get ch) c.angles) True p (assignOwnAngles ch p) := by
  have hassign : assignOwnAngles ch p = assignAngles ch id p := by simp only [assignOwnAngles, hm, materialId]
  obtain ⟨hgangs, hslaves, hothers, hfeeds, hcache, hcells⟩ := assignAngles_does p ch id c hc hn
  rw [hassign]
  exact ⟨hgangs, assigned_ch _ _, fun _ => hslaves, hothers, hfeeds, hcache, hcells,
    (Prod.mk.inj (assignAngles_lists_link ch id p)).1⟩

/-- Feed material leaves the slaves on their entries; in whole gangs they are on the feeds of these. -/
theorem angled_self (ch : ChanId) (p : State) {sure : Prop}
    (hsure : sure → ∀ g ∈ p.gangs.get ch, (p.chan g.ch).material = some (.feed g.feed)) :
    Angled ch (p.gangs.get ch) sure p p := by
  refine ⟨Quad.ext_get fun k => ?_, rfl, fun hs g hg => ?_, fun _ _ => rfl, rfl, rfl, rfl, rfl⟩
  · rw [Quad.get_set]
    split
    · rename_i hk
      rw [hk]
    · rfl
  · simp only [onAngle, hsure hs g hg, decide_true, Bool.and_true]
    rw [← hsure hs g hg]

/-- A master placed as `x`, its own lookups having left `own`, and its slaves, on the entries `gs`, after it. -/
structure Led (ch : ChanId) (gs : List GangSlave) (w : Window) (asks : Channel → Window → List Nat) (x : Channel)
    (own s v t : State) : Prop where
  chan : t.chan ch = x
  lists : t.lists = v.lists
  cell : ∀ i, (∀ d : ChanId, i ≠ d.val) → (∀ d : ChanId, i ≠ 24 + d.val) → t.cell i = v.cell i
  alone : s.gangs.get ch = [] → t.cache = own.cache
  whole : GangsWhole s → GangCued s t ch gs w asks own

/-- The entry of a slave in a whole gang. -/
theorem GangsWhole.slave_of_mem (h : GangsWhole s) {g : GangSlave} (hg : g ∈ s.gangs.get ch) :
    (s.chan g.ch).state = .slave ∧ (s.chan g.ch).cueWait = none :=
  ⟨(h.slave g.ch).2 ((masterOf_isSome_iff s g.ch).2 ⟨ch, g, hg, rfl⟩), (h.onFeed ch g hg).2⟩

/-- The slaves of a placed master follow it; its own channel and its own cell of CUE_READY stay. -/
theorem Asked.led {x : Channel} {own : State} (h : Asked ch x own s v p) {gs : List GangSlave} {sure : Prop}
    (hu : Angled ch gs sure p u) (hsure : GangsWhole s → sure) (how : SlaveFetch) (ha : GangsApart s)
    (hw : x.window = some w) (hle : w.lo ≤ w.hi) (hown : own.feeds = s.feeds) :
    Led ch gs w how.asks x own s v (followMaster ch how u) ∧ (followMaster ch how u).cell ch.val = p.cell ch.val := by
  have hnames : gs.map (·.ch) = (s.gangs.get ch).map (·.ch) := by rw [hu.names, h.gangs]
  have hentry : ∀ g ∈ gs, ∃ g' ∈ s.gangs.get ch, g'.ch = g.ch := fun g hg =>
    List.mem_map.1 (hnames ▸ List.mem_map_of_mem hg)
  have hgangs : u.gangs = s.gangs.set ch gs := by rw [hu.gangs, h.gangs]
  have hgs : u.gangs.get ch = gs := by rw [hgangs, Quad.get_set, if_pos rfl]
  have hn : (ch :: gs.map (·.ch)).Nodup := hnames ▸ ha ch
  have hne : ∀ g ∈ gs, g.ch ≠ ch := fun g hg he => (List.nodup_cons.1 hn).1 (List.mem_map.2 ⟨g, hg, he⟩)
  have hchan : u.chan ch = x := (hu.others ch fun g hg => ha.others g (h.gangs ▸ hg)).trans h.chan
  have hfollowed := followMaster_followed (m := ch) (s := u) (w := w) how (by rw [hchan]; exact hw) (hgs ▸ hn)
  have hcells : ∀ i, u.cell i = p.cell i := fun i => congrArg (fun cs : List Cell => cs.getD i Cell.clear) hu.cells
  refine ⟨⟨?_, ?_, fun i hi hl => ?_, fun hnil => ?_, fun hg => ?_⟩, ?_⟩
  · rw [hfollowed.others ch fun g hg => hne g (hgs ▸ hg), hchan]
  · rw [hfollowed.lists, hu.lists, h.lists]
  · rw [hfollowed.cell i hl fun g _ => hi g.ch, hcells, h.cell i (hi ch)]
  · have hnone : gs = [] := List.map_eq_nil_iff.1 (hnames.trans (by rw [hnil]; rfl))
    rw [followMaster_nil how (hgs.trans hnone), hu.cache, h.cache]
  · refine followMaster_cued how hgangs (fun g hmem => ?_) ?_ ?_ (by rw [hchan]; exact hw) hle hn
      (fun g hmem => ?_) hown ?_
    · rw [hu.slaves (hsure hg) g hmem, h.others g.ch (hne g hmem)]
    · rw [hu.feeds, h.frame.feeds]
    · rw [hu.cells, h.length]
    · obtain ⟨g', hg', he⟩ := hentry g hmem
      exact he ▸ hg.slave_of_mem hg'
    · rw [hu.cache, h.cache]
  · rw [hfollowed.cell ch.val (fun d => by omega) fun g hg he => hne g (hgs ▸ hg) (Fin.ext he.symm), hcells]

end Sys2Proof.Machine
end

section
/-!
PROOFS. CUE_CLIP (R77, O20), CUE_FEED (R81, O21) and GO_LIVE (R86, O22).
-/

-- Proofs checked in turn: side by side they need more threads than the memory limit of check.sh has room for.
set_option Elab.async false

namespace Sys2Proof.Machine

variable {s t u v p : State} {ch : ChanId} {f : FeedId} {w : Window} {st : Status} {result : List Byte}

/-! ## The slaves of a placed channel by its material (R111) -/

section Angles

variable {x : Channel} {own : State} (h : Asked ch x own s v p)
include h

theorem Asked.angled_clip {id : Nat} {c : Clip} (hx : x.material = some (.clip id))
    (hc : SMap.find s.clips id = some c) (ha : GangsApart s) :
    Angled ch (assigned (s.gangs.get ch) c.angles) True p (assignOwnAngles ch p) := by
  obtain ⟨d, hd, hangles⟩ := h.frame.find_clip hc
  rw [← hangles, ← h.gangs]
  exact assignOwnAngles_angled (by rw [h.chan]; exact hx) hd (by rw [h.gangs]; exact (List.nodup_cons.1 (ha ch)).2)

theorem Asked.angled_self (ha : GangsApart s) : Angled ch (s.gangs.get ch) (GangsWhole s) p p := by
  rw [← h.gangs]
  refine Machine.angled_self ch p fun hg g hmem => ?_
  rw [h.gangs] at hmem
  rw [h.others g.ch (ha.others g hmem)]
  exact (hg.onFeed ch g hmem).1

theorem Asked.angled_feed {f : FeedId} (hx : x.material = some (.feed f)) (ha : GangsApart s) :
    Angled ch (s.gangs.get ch) (GangsWhole s) p (assignOwnAngles ch p) := by
  have hsame : assignOwnAngles ch p = p := by simp only [assignOwnAngles, h.chan, hx, materialId]
  rw [hsame]
  exact h.angled_self ha

end Angles

/-! ## A cue, whole (R77, R79, R80, R112) -/

/-- What a cue onto frame `e` in the window `w` leaves, the slaves on the entries `gs`. -/
structure Cued (ch : ChanId) (mat : Material) (f : FeedId) (w : Window) (e : Nat) (reverse : Bool)
    (gs : List GangSlave) (s v t : State) : Prop where
  frame : TickFrame ch s t
  led : Led ch gs w (slavePreload reverse)
    ((s.chan ch).cuedOn mat f w e (decide (readyAt s ch f e)) (decide (damagedAt s ch f e)))
    (lookedUp ch f (preloadList reverse w e (s.chan ch).opts.preloadDepth) s) s v t
  told : readyAt s ch f e → s.cells.length = 54 → (t.cell ch.val).latch = true ∧
    (t.cell ch.val).detail = some (.cueReady (materialId (some mat)) f e)

/-- A cue, given what its material makes of the slaves' entries. -/
theorem cue_cued {mat : Material} (h : Loaded ch mat s v) (ha : GangsApart s) (f : FeedId) (reverse : Bool) {e : Nat}
    (hlo : w.lo ≤ e) (hhi : e ≤ w.hi) {gs : List GangSlave} {sure : Prop} (hsure : GangsWhole s → sure)
    (hangles : ∀ {x own p}, Asked ch x own s v p → x.material = some mat →
      Angled ch gs sure p (assignOwnAngles ch p)) :
    Cued ch mat f w e reverse gs s v (cue ch f w e reverse v) := by
  obtain ⟨hasked, htold⟩ := preload_asked h f reverse hlo hhi
  obtain ⟨hled, hcell⟩ := hasked.led (hangles hasked rfl) hsure (.preload reverse) ha rfl (hlo.trans hhi)
    (lookedUp_feeds ..)
  refine ⟨hasked.frame.assignOwnAngles.followMaster _, hled, fun hr hlen => ?_⟩
  have hraised : (cue ch f w e reverse v).cell ch.val =
      (v.cell ch.val).take (.cueReady (materialId (some mat)) f e) := by
    refine hcell.trans ((congrArg (fun cs : List Cell => cs.getD ch.val Cell.clear) (htold hr)).trans ?_)
    refine (raise_cell ..).trans (if_pos ⟨(Nat.zero_add _).symm, ?_⟩)
    rw [h.length, hlen]
    omega
  rw [hraised]
  exact ⟨rfl, rfl⟩

/-! ## CUE_CLIP (R77) -/

theorem parseCueClip_body (n : Byte) {id : Nat} (h : id < 65536) :
    parseCueClip (n :: leBytes 2 id) = some (n.toNat, id) := by
  simp [parseCueClip, takeU_leBytes_end 2 h]

theorem exec_cueClip (hr : s.ready) (tag n : Byte) {id : Nat} (hid : id < 65536)
    (h : cmdCueClip n.toNat id s = ⟨t, st, result⟩) :
    exec (.cueClip tag (n :: leBytes 2 id)) s = answers 10#8 tag t st result :=
  arrive_answers (act := fun a : Nat × Nat => cmdCueClip a.1 a.2) hr ⟨10#8, tag, _⟩ (parseCueClip_body n hid) h

/-- The entry frame of a clip, in the window (R75). -/
theorem entryIn_eq (c : Clip) (x : Feed) (reverse : Bool) (w : Window) : c.entryIn x reverse w =
    max w.lo (min w.hi (if reverse = true then (match c.markOut with | some o => o | none => x.head.getD c.markIn)
      else c.markIn)) := rfl

theorem clampNat_inside {n : Nat} (h : w.lo ≤ w.hi) :
    w.lo ≤ max w.lo (min w.hi n) ∧ max w.lo (min w.hi n) ≤ w.hi := by omega

/-- Settles O20: past its checks the command is a cue, its gang on the angles of the clip. -/
theorem cueClipEntersCued : Obligations.CueClipEntersCued := by
  refine ⟨?_, ?_⟩
  · intro s tag n id st hr hid h
    refine exec_cueClip hr tag n hid ?_
    rcases h with h | h | ⟨ch, hn, he, hs, rfl⟩ | ⟨ch, hn, he, hs, h⟩
    · exact withFreeChannel_refuses (.inl h)
    · exact withFreeChannel_refuses (.inr (.inl h))
    · exact withFreeChannel_slave ⟨hn, he⟩ hs
    · refine (withFreeChannel_acts ⟨hn, he⟩ hs).trans ?_
      rcases h with ⟨hlarge, rfl⟩ | ⟨hsmall, hnone, rfl⟩ | ⟨c, hsmall, hc, h⟩
      · exact if_pos hlarge
      · rw [if_neg (show ¬ Config.clipRecords ≤ id from Nat.not_le.2 (Nat.lt_succ_of_le hsmall)), hnone]
        rfl
      · rw [if_neg (show ¬ Config.clipRecords ≤ id from Nat.not_le.2 (Nat.lt_succ_of_le hsmall)), hc]
        rcases h with ⟨hx, rfl⟩ | ⟨hx, hw, rfl⟩
        · exact if_pos hx
        · exact (if_neg hx).trans (by rw [hw]; rfl)
  · intro s tag ch id c w hr he hs hid hc hx hw ha named e depth ready bad
    have hentry : c.entryIn (s.feed c.feed) (decide (c.nominal < 0)) w = e := by
      rw [entryIn_eq]
      simp only [decide_eq_true_eq]
      rfl
    obtain ⟨hlo, hhi⟩ := clampNat_inside (n := named) (Clip.window_le hw)
    have hload := changeMaterial_loaded ch (.clip id) s
    have hcued := cue_cued hload ha c.feed (decide (c.nominal < 0)) hlo hhi (fun _ => trivial) fun hasked hm =>
      hasked.angled_clip hm hc ha
    obtain ⟨hframe, hled, htold⟩ := hcued
    refine ⟨cue ch c.feed w e (decide (c.nominal < 0)) (changeMaterial ch (some (.clip id)) s), ?_, ?_, htold,
      hled.alone, hled.whole, hframe.feeds, hframe.arbiter, hframe.curve,
      hled.lists.trans (changeMaterial_lists ch _ s),
      hframe.markRefs, hframe.panel, hframe.engaged, hframe.storeSize, hframe.defaultLen, hframe.unreached, hframe.clip⟩
    · refine exec_cueClip hr tag _ (by omega) ((withFreeChannel_acts (names_chanByte he) hs).trans ?_)
      rw [if_neg (show ¬ Config.clipRecords ≤ id from Nat.not_le.2 hid), hc]
      refine (if_neg hx).trans ?_
      rw [hw]
      simp only [cueClip, hentry]
      rfl
    · rw [hled.chan]
      simp only [Channel.cuedOn, decide_eq_true_eq]
      rfl

/-! ## CUE_FEED (R81) -/

theorem parseCueFeed_body (n f ref : Byte) {value : Nat} (h : value < 2 ^ 32) :
    parseCueFeed (n :: f :: ref :: leBytes 4 value) = some (n.toNat, f.toNat, ref.toNat, value) := by
  simp [parseCueFeed, takeU_leBytes_end 4 h]

theorem exec_cueFeed (hr : s.ready) (tag n f ref : Byte) {value : Nat} (hv : value < 2 ^ 32)
    (h : cmdCueFeed n.toNat f.toNat ref.toNat value s = ⟨t, st, result⟩) :
    exec (.cueFeed tag (n :: f :: ref :: leBytes 4 value)) s = answers 11#8 tag t st result :=
  arrive_answers (act := fun a : Nat × Nat × Nat × Nat => cmdCueFeed a.1 a.2.1 a.2.2.1 a.2.2.2) hr ⟨11#8, tag, _⟩
    (parseCueFeed_body n f ref hv) h

theorem cueFrame?_outside {ref : Nat} (h : 1 < ref) (value head : Nat) : cueFrame? ref value head = none := by
  match ref with
  | n + 2 => rfl

theorem cueFrame?_behind (behind : Bool) (value head : Nat) :
    cueFrame? (boolByte behind).toNat value head = some (if behind then (head : Int) - value else value) := by
  cases behind <;> rfl

section CueFeed

variable (hs : (s.chan ch).state ≠ .slave) (he : s.engaged = .engaged) (behind : Bool) (value : Nat)
include hs he

theorem cmdCueFeed_noHead (h : (s.feed f).range = none) :
    cmdCueFeed (byteOf ch.val).toNat (byteOf f.val).toNat (boolByte behind).toNat value s = refuse s .noHead := by
  refine (withFreeChannel_acts (names_chanByte he) hs).trans ?_
  rw [byteOf_toNat_of_lt (by omega), feedOf?_val, cueFrame?_behind]
  dsimp only
  rw [h]

theorem cmdCueFeed_onto (h : (s.feed f).range = some w) :
    cmdCueFeed (byteOf ch.val).toNat (byteOf f.val).toNat (boolByte behind).toNat value s =
      cueFeed ch f w (if behind then (w.hi : Int) - value else value) s := by
  refine (withFreeChannel_acts (names_chanByte he) hs).trans ?_
  rw [byteOf_toNat_of_lt (by omega), feedOf?_val, cueFrame?_behind]
  dsimp only
  rw [h]
  simp only [cueFrame?_behind, Option.getD_some]

end CueFeed

/-- Settles O21: past its checks the command is a cue, its gang on the entries it has. -/
theorem cueFeedEntersCued : Obligations.CueFeedEntersCued := by
  refine ⟨?_, ?_⟩
  · intro s tag n f ref value st hr hv h
    refine exec_cueFeed hr tag n f ref hv ?_
    rcases h with h | h | ⟨ch, hn, he, hs, rfl⟩ | ⟨ch, hn, he, hs, h, rfl⟩
    · exact withFreeChannel_refuses (.inl h)
    · exact withFreeChannel_refuses (.inr (.inl h))
    · exact withFreeChannel_slave ⟨hn, he⟩ hs
    · refine (withFreeChannel_acts ⟨hn, he⟩ hs).trans ?_
      rcases h with h | h
      · rw [feedOf?_none h]
        rfl
      · rw [cueFrame?_outside h]
        cases feedOf? f.toNat <;> rfl
  · intro s tag ch f behind value hr he hs hv ha body
    refine ⟨fun hnone => exec_cueFeed hr tag _ _ _ hv (cmdCueFeed_noHead hs he behind value hnone), ?_⟩
    intro w hw named e depth ready bad
    have hle := (Feed.range_eq hw).2.2
    have hinside : w.lo ≤ e ∧ e ≤ w.hi := by
      simp only [e]
      omega
    have hload := changeMaterial_loaded ch (.feed f) s
    obtain ⟨hframe, hled, htold⟩ := cue_cued hload ha f false hinside.1 hinside.2 id fun hasked hm =>
      hasked.angled_feed hm ha
    refine ⟨cue ch f w e false (changeMaterial ch (some (.feed f)) s), ?_, ?_, htold, hled.alone, hled.whole,
      hframe.feeds, hframe.arbiter, hframe.curve, hled.lists.trans (changeMaterial_lists ch _ s), hframe.markRefs,
      hframe.panel, hframe.unreached, hframe.clip⟩
    · refine exec_cueFeed hr tag _ _ _ hv ((cmdCueFeed_onto hs he behind value hw).trans ?_)
      have hcarried : ((e : Int) != named) = decide ((e : Int) ≠ named) := by
        rw [bne, Bool.beq_eq_decide_eq, decide_not]
      show done _ ((e : Int) != named) _ = _
      rw [hcarried]
      rfl
    · rw [hled.chan]
      simp only [Channel.cuedOn, decide_eq_true_eq]
      rfl

/-! ## GO_LIVE (R86) -/

theorem parseGoLive_body (n : Byte) {v : Option Nat} (h : ∀ x, v = some x → x < 256) :
    parseGoLive (n :: packU 1 v) = some (n.toNat, v) := by
  simp [parseGoLive, takeOpt_packU_end (w := 1) h]

theorem exec_goLive (hr : s.ready) (tag n : Byte) {given : Option Nat} (hv : ∀ x, given = some x → x < 256)
    (h : cmdGoLive n.toNat given s = ⟨t, st, result⟩) :
    exec (.goLive tag (n :: packU 1 given)) s = answers 16#8 tag t st result :=
  arrive_answers (act := fun a : Nat × Option Nat => cmdGoLive a.1 a.2) hr ⟨16#8, tag, _⟩ (parseGoLive_body n hv) h

/-- The channel on the head of its live feed by GO_LIVE. -/
def Channel.liveOn (x : Channel) (f : FeedId) (w : Window) (bad : Bool) : Channel :=
  { x with
    material := some (.feed f), pos := w.hi * 1024, speed := 1024, target := 1024, state := .live, atLive := false
    atTail := false, cueWait := none, window := some w, preload := true, idleSel := none, damaged := bad
    selection := some { feed := f, frame := w.hi, partner := none, weight := 0, clip := none } }

/-- The channel of a GO_LIVE, placed, and its one lookup sent. -/
theorem goLive_asked (h : Loaded ch (.feed f) s v) :
    Asked ch ((s.chan ch).liveOn f w (decide ((lookup ch f w.hi s).2 = .notAvailable .damaged))) (lookup ch f w.hi s).1
      s v (sendLookups ch f [w.hi] (v.setChan ch ((v.chan ch).goneLive f w))) := by
  let sel : Selection := { feed := f, frame := w.hi, partner := none, weight := 0, clip := none }
  have hx : (v.chan ch).goneLive f w = (s.chan ch).liveOn f w false := by
    rw [h.chan]
    rfl
  have hown : (v.setChan ch ((s.chan ch).liveOn f w false)).chan ch = (s.chan ch).liveOn f w false :=
    (State.chan_setChan ..).trans (if_pos rfl)
  have hasked := sendLookups_asked h (x := (s.chan ch).liveOn f w false) (sel := sel) [w.hi] rfl rfl
    ((permit_iff _).2 ⟨by simp [Channel.liveOn], .inr (.inr rfl)⟩) rfl rfl
  have hquiet := (sendLookups_quiet f [w.hi] (v.setChan ch ((s.chan ch).liveOn f w false)) (by rw [hown]; rfl)).1
  have hbad : decide (sel.frame ∈ [w.hi] ∧ namesDamaged s ch sel) =
      decide ((lookup ch f w.hi s).2 = .notAvailable .damaged) :=
    decide_eq_decide.2 ⟨fun hd => hd.2, fun hd => ⟨List.mem_singleton_self _, hd⟩⟩
  dsimp only at hasked
  rw [hbad, hquiet] at hasked
  rw [hx]
  exact hasked

theorem optCode?_given (given : Option FeedId) : optCode? feedOf? (given.map (·.val)) = some given := by
  cases given <;> simp [optCode?]

section GoLive

variable (hs : (s.chan ch).state ≠ .slave) (he : s.engaged = .engaged) {given : Option FeedId}
include hs he

theorem cmdGoLive_noMaterial (h : given.or (sourceFeed s (.chan ch)) = none) :
    cmdGoLive (byteOf ch.val).toNat (given.map (·.val)) s = refuse s .noMaterial := by
  obtain ⟨rfl, hsource⟩ := Option.or_eq_none_iff.1 h
  refine (withFreeChannel_acts (names_chanByte he) hs).trans ?_
  rw [optCode?_given]
  dsimp only
  rw [hsource]

theorem cmdGoLive_noHead (h : given.or (sourceFeed s (.chan ch)) = some f) (hf : (s.feed f).range = none) :
    cmdGoLive (byteOf ch.val).toNat (given.map (·.val)) s = refuse s .noHead := by
  refine (withFreeChannel_acts (names_chanByte he) hs).trans ?_
  rw [optCode?_given]
  rcases Option.or_eq_some_iff.1 h with rfl | ⟨rfl, hsource⟩
  · dsimp only
    rw [hf]
  · dsimp only
    rw [hsource]
    dsimp only
    rw [hf]

theorem cmdGoLive_goes (h : given.or (sourceFeed s (.chan ch)) = some f) (hf : (s.feed f).range = some w) :
    cmdGoLive (byteOf ch.val).toNat (given.map (·.val)) s = goLive ch f w s := by
  refine (withFreeChannel_acts (names_chanByte he) hs).trans ?_
  rw [optCode?_given]
  rcases Option.or_eq_some_iff.1 h with rfl | ⟨rfl, hsource⟩
  · dsimp only
    rw [hf]
  · dsimp only
    rw [hsource]
    dsimp only
    rw [hf]

end GoLive

/-- Settles O22: past its checks the channel is placed on the head, and its slaves follow with one lookup each. -/
theorem goLiveEntersLive : Obligations.GoLiveEntersLive := by
  refine ⟨?_, ?_⟩
  · intro s tag n given st hr h
    refine exec_goLive hr tag n (fun x hx => ?_) ?_
    · obtain ⟨b, -, rfl⟩ := Option.map_eq_some_iff.1 hx
      exact b.isLt
    rcases h with h | h | ⟨ch, hn, he, hs, rfl⟩ | ⟨ch, b, hn, he, hs, hgiven, hb, rfl⟩
    · exact withFreeChannel_refuses (.inl h)
    · exact withFreeChannel_refuses (.inr (.inl h))
    · exact withFreeChannel_slave ⟨hn, he⟩ hs
    · refine (withFreeChannel_acts ⟨hn, he⟩ hs).trans ?_
      rw [optCode?_outside feedOf?_eq ⟨b, hgiven, hb⟩]
      rfl
  · intro s tag ch given hr he hs ha body live
    have hlive : given.or (sourceFeed s (.chan ch)) = live := by
      simp only [live]
      cases given <;> rfl
    have hexec : ∀ {t st result}, cmdGoLive (byteOf ch.val).toNat (given.map (·.val)) s = ⟨t, st, result⟩ →
        exec (.goLive tag body) s = answers 16#8 tag t st result := fun h => exec_goLive hr tag _ (fun x hx => by
      obtain ⟨f, -, rfl⟩ := Option.map_eq_some_iff.1 hx
      omega) h
    refine ⟨fun h => hexec (cmdGoLive_noMaterial hs he (hlive.trans h)),
      fun f h hf => hexec (cmdGoLive_noHead hs he (hlive.trans h) hf), fun f w h hw => ?_⟩
    have hload := changeMaterial_loaded ch (.feed f) s
    have hasked := goLive_asked (w := w) hload
    have hown : (lookup ch f w.hi s).1.feeds = s.feeds := by rw [lookup_keeps]
    obtain ⟨hled, -⟩ := hasked.led (hasked.angled_self ha) id .selected ha rfl (Feed.range_eq hw).2.2 hown
    have hframe := hasked.frame.followMaster .selected
    exact ⟨_, hexec (cmdGoLive_goes hs he (hlive.trans h) hw), hled.chan, hled.alone, hled.whole, hframe.feeds,
      hframe.arbiter, hframe.curve, hled.lists.trans (changeMaterial_lists ch _ s), hframe.markRefs, hframe.panel,
      hframe.unreached, hframe.clip⟩

end Sys2Proof.Machine
end

section
/-!
PROOFS. TAKE_NEXT (R127 to R131, O38): the chosen entry is cued, or taken while the channel runs.
-/

-- Proofs checked in turn: side by side they need more threads than the memory limit of check.sh has room for.
set_option Elab.async false

namespace Sys2Proof.Machine

variable {s t u v p : State} {ch : ChanId} {w : Window} {passed rest : List CueEntry} {e : CueEntry} {c : Clip}

/-! ## The choice of the entry (R125, R127) -/

section Choice

variable (he : s.engaged = .engaged) (hi : (s.chan ch).state ≠ .idle) (hs : (s.chan ch).state ≠ .slave)
include he hi hs

theorem cmdTakeNext_none (h : ∀ e ∈ s.lists.get ch, takeable s e = none) :
    cmdTakeNext (byteOf ch.val).toNat s = refuse s .notFound := by
  refine (withMaterial_acts (names_chanByte he) hs hi).trans ?_
  rw [searchList_none h]

variable (hl : s.lists.get ch = passed ++ e :: rest) (hpassed : ∀ p ∈ passed, s.passesOver p)
  (hc : takeable s e = some c)
include hl hpassed hc

theorem cmdTakeNext_noHead (hw : c.window (s.feed c.feed) = none) :
    cmdTakeNext (byteOf ch.val).toNat s = refuse s .noHead := by
  refine (withMaterial_acts (names_chanByte he) hs hi).trans ?_
  rw [hl, searchList_some hpassed hc]
  dsimp only
  rw [hw]

theorem cmdTakeNext_runs (hw : c.window (s.feed c.feed) = some w)
    (hr : (s.chan ch).state = .playing ∨ (s.chan ch).state = .shuttle) :
    cmdTakeNext (byteOf ch.val).toNat s = takeRunning ch passed e c rest w s := by
  refine (withMaterial_acts (names_chanByte he) hs hi).trans ?_
  rw [hl, searchList_some hpassed hc]
  dsimp only
  rw [hw]
  dsimp only
  rcases hr with hr | hr
  · rw [hr]
  · rw [hr]

theorem cmdTakeNext_cues (hw : c.window (s.feed c.feed) = some w)
    (hr : ¬ ((s.chan ch).state = .playing ∨ (s.chan ch).state = .shuttle)) :
    cmdTakeNext (byteOf ch.val).toNat s = takeCue ch passed e c rest w s := by
  obtain ⟨hplay, hshuttle⟩ := not_or.1 hr
  refine (withMaterial_acts (names_chanByte he) hs hi).trans ?_
  rw [hl, searchList_some hpassed hc]
  dsimp only
  rw [hw]
  dsimp only
  split
  · exact absurd ‹_› hplay
  · exact absurd ‹_› hshuttle
  · rfl

end Choice

/-! ## The entry taken (R125, R127) -/

theorem takeEntry_loaded (ch : ChanId) (passed : List CueEntry) (e : CueEntry) (rest : List CueEntry) (s : State) :
    Loaded ch (.clip e.clip) s (takeEntry ch passed e rest s) := by
  obtain ⟨m, hm⟩ := takeEntry_eq ch passed e rest s
  have hframe := (TickFrame.refl ch s).takeEntry passed e rest
  rw [hm] at hframe ⊢
  exact ⟨hframe, (State.chan_setChan ..).trans (if_pos rfl), fun d hd => (State.chan_setChan ..).trans (if_neg hd), rfl,
    rfl, raiseSkipped_cells_length ch passed s⟩

theorem takeEntry_lists_cells (ch : ChanId) (passed : List CueEntry) (e : CueEntry) (rest : List CueEntry) (s : State) :
    (takeEntry ch passed e rest s).lists = s.lists.set ch rest ∧
      (takeEntry ch passed e rest s).cells = (raiseSkipped ch passed s).cells := by
  obtain ⟨m, hm⟩ := takeEntry_eq ch passed e rest s
  rw [hm]
  exact ⟨rfl, rfl⟩

theorem Loaded.raise {mat : Material} (h : Loaded ch mat s v) (n : Nat) (d : Detail) : Loaded ch mat s (raise n d v) :=
  ⟨h.frame.raise n d, h.chan, h.others, h.gangs, h.cache, (raise_cells_length ..).trans h.length⟩

/-- The cell of CLIP_TAKEN of a channel, and that of CLIP_EXPIRED, after CLIP_TAKEN. -/
theorem raise_clipTaken {id n left : Nat} {why : TakeCause} (hlen : u.cells.length = 54) :
    let d : Detail := .clipTaken id n why left
    (raise ch.val d u).cell (8 + ch.val) = (u.cell (8 + ch.val)).take d ∧ (raise ch.val d u).cell 50 = u.cell 50 := by
  intro d
  have hindex : cellIndex d.cls ch.val = 8 + ch.val := rfl
  refine ⟨(raise_cell ..).trans (if_pos ⟨hindex.symm, ?_⟩), (raise_cell ..).trans (if_neg ?_)⟩
  · omega
  · omega

/-- What TAKE_NEXT of entry `e` leaves, with the channel as `x`, onto frame `n` of its clip. -/
structure Taken (ch : ChanId) (passed : List CueEntry) (e : CueEntry) (rest : List CueEntry) (n : Nat) (x : Channel)
    (s t : State) : Prop where
  frame : TickFrame ch s t
  chan : t.chan ch = x
  lists : t.lists = s.lists.set ch rest
  told : s.cells.length = 54 → (t.cell (8 + ch.val)).latch = true ∧
    (t.cell (8 + ch.val)).detail = some (.clipTaken e.clip n .take rest.length)
  skipped : s.cells.length = 54 → t.cell 50 = (raiseSkipped ch passed s).cell 50

/-! ## A take that cues (R128) -/

/-- The state a cueing take leaves. -/
def cuedTake (ch : ChanId) (passed : List CueEntry) (e : CueEntry) (rest : List CueEntry) (f : FeedId) (w : Window)
    (n : Nat) (reverse : Bool) (s : State) : State :=
  cue ch f w n reverse (raise ch.val (.clipTaken e.clip n .take rest.length) (takeEntry ch passed e rest s))

theorem takeCue_eq {n : Nat} {reverse : Bool} (hr : reverse = decide (e.target c < 0))
    (hn : c.entryIn (s.feed c.feed) reverse w = n) : takeCue ch passed e c rest w s =
      done (cuedTake ch passed e rest c.feed w n reverse s) false (takeReply e.clip n .cued rest.length) := by
  subst hr hn
  rfl

/-- A cueing take is a cue of the entry's clip, its gang on the angles of the clip. -/
theorem cuedTake_taken (ha : GangsApart s) (hc : SMap.find s.clips e.clip = some c) (reverse : Bool) {n : Nat}
    (hlo : w.lo ≤ n) (hhi : n ≤ w.hi) :
    let t := cuedTake ch passed e rest c.feed w n reverse s
    let x := (s.chan ch).cuedOn (.clip e.clip) c.feed w n (decide (readyAt s ch c.feed n))
      (decide (damagedAt s ch c.feed n))
    let own := lookedUp ch c.feed (preloadList reverse w n (s.chan ch).opts.preloadDepth) s
    Taken ch passed e rest n x s t ∧ (s.gangs.get ch = [] → t.cache = own.cache) ∧
      (GangsWhole s → GangCued s t ch (assigned (s.gangs.get ch) c.angles) w (slavePreload reverse) own) := by
  intro t x own
  have htake := takeEntry_loaded ch passed e rest s
  obtain ⟨hlists, hcells⟩ := takeEntry_lists_cells ch passed e rest s
  have hload := htake.raise ch.val (.clipTaken e.clip n .take rest.length)
  obtain ⟨hframe, hled, -⟩ := cue_cued hload ha c.feed reverse hlo hhi (fun _ => trivial) fun hasked hm =>
    hasked.angled_clip hm hc ha
  have hcell : ∀ i, 8 ≤ i → (∀ d : ChanId, i ≠ 24 + d.val) → t.cell i =
      (raise ch.val (.clipTaken e.clip n .take rest.length) (takeEntry ch passed e rest s)).cell i := fun i hi hd =>
    hled.cell i (fun d => by omega) hd
  have hraised := fun hlen : s.cells.length = 54 =>
    raise_clipTaken (ch := ch) (u := takeEntry ch passed e rest s) (id := e.clip) (n := n) (left := rest.length)
      (why := .take) (htake.length.trans hlen)
  refine ⟨⟨hframe, hled.chan, hled.lists.trans hlists, fun hlen => ?_, fun hlen => ?_⟩, hled.alone, hled.whole⟩
  · rw [hcell (8 + ch.val) (by omega) fun d => by omega, (hraised hlen).1]
    exact ⟨rfl, rfl⟩
  · rw [hcell 50 (by omega) fun d => by omega, (hraised hlen).2]
    exact congrArg (fun cs : List Cell => cs.getD 50 Cell.clear) hcells

/-! ## A take while the channel runs (R129, R131) -/

/-- The state a running take leaves. -/
def runningTake (ch : ChanId) (passed : List CueEntry) (e : CueEntry) (rest : List CueEntry) (f : FeedId) (w : Window)
    (n : Nat) (target : Int) (reverse : Bool) (s : State) : State :=
  let v := takeEntry ch passed e rest s
  let u := assignOwnAngles ch (v.setChan ch ((v.chan ch).jumped f w n target))
  raise ch.val (.clipTaken e.clip n .take rest.length) (preload ch f w n reverse u)

/-- The channel in its new clip, still running. -/
def Channel.jumpedOn (x : Channel) (id : Nat) (f : FeedId) (w : Window) (n : Nat) (target : Int) (bad : Bool) :
    Channel :=
  { x with
    material := some (.clip id), pos := n * 1024, target := target, window := some w, atLive := false, atTail := false
    cueWait := none, preload := true, damaged := bad
    selection := some { feed := f, frame := n, partner := none, weight := 0, clip := some id } }

/-- A running take places the channel, puts its gang on the angles of the clip, and sends its own lookups. -/
theorem runningTake_taken (ha : GangsApart s) (hc : SMap.find s.clips e.clip = some c)
    (hr : (s.chan ch).state = .playing ∨ (s.chan ch).state = .shuttle) (target : Int) (reverse : Bool) {n : Nat}
    (hlo : w.lo ≤ n) (hhi : n ≤ w.hi) :
    let t := runningTake ch passed e rest c.feed w n target reverse s
    let x := (s.chan ch).jumpedOn e.clip c.feed w n target (decide (damagedAt s ch c.feed n))
    let gs := assigned (s.gangs.get ch) c.angles
    Taken ch passed e rest n x s t ∧
      (t.gangs = s.gangs.set ch gs ∧ ∀ g ∈ gs, t.chan g.ch = onAngle g (s.chan g.ch)) ∧
      t.cache = (lookedUp ch c.feed (preloadList reverse w n (s.chan ch).opts.preloadDepth) s).cache := by
  intro t x gs
  let depth := (s.chan ch).opts.preloadDepth
  let v := takeEntry ch passed e rest s
  let y := v.setChan ch ((v.chan ch).jumped c.feed w n target)
  let u := assignOwnAngles ch y
  let sel : Selection := { feed := c.feed, frame := n, partner := none, weight := 0, clip := some e.clip }
  have htake : Loaded ch (.clip e.clip) s v := takeEntry_loaded ch passed e rest s
  obtain ⟨hlists, hcells⟩ := takeEntry_lists_cells ch passed e rest s
  have hy : y.chan ch = (s.chan ch).jumpedOn e.clip c.feed w n target false := by
    refine (State.chan_setChan ..).trans ((if_pos rfl).trans ?_)
    rw [htake.chan]
    rfl
  have hyframe : TickFrame ch s y := htake.frame.setChan (TickFrame.own ch s)
  obtain ⟨d, hd, hangles⟩ := hyframe.find_clip hc
  have hygangs : y.gangs = s.gangs := htake.gangs
  have hangled := assignOwnAngles_angled (ch := ch) (p := y) (by rw [hy]; rfl) hd
    (by rw [hygangs]; exact (List.nodup_cons.1 (ha ch)).2)
  rw [hangles, hygangs] at hangled
  have hown : u.chan ch = (s.chan ch).jumpedOn e.clip c.feed w n target false :=
    (hangled.others ch fun g hg => ha.others g (hygangs ▸ hg)).trans hy
  have hself : Loaded ch (.clip e.clip) u u := ⟨.refl ch u, by rw [hown]; rfl, fun _ _ => rfl, rfl, rfl, rfl⟩
  have hpermit : (u.chan ch).permit = true := by
    rw [hown, permit_iff]
    refine ⟨fun hi => ?_, .inr (.inr rfl)⟩
    rcases hr with hr | hr <;> cases hr.symm.trans hi
  have hp : preload ch c.feed w n reverse u = sendLookups ch sel.feed (preloadFrames reverse w n depth) u := by
    have hdepth : (u.chan ch).opts.preloadDepth = depth := by rw [hown]; rfl
    simp only [preload, hdepth, sel]
  have hasked := sendLookups_asked hself (x := u.chan ch) (sel := sel) (preloadFrames reverse w n depth)
    (by rw [hown]; rfl) (by rw [hown]; rfl) hpermit rfl rfl
  have hquiet := (sendLookups_quiet sel.feed (preloadFrames reverse w n depth) u (by rw [hown]; rfl)).1
  have huframe : TickFrame ch s u := hyframe.assignOwnAngles
  have hbad : decide (sel.frame ∈ preloadFrames reverse w n depth ∧ namesDamaged u ch sel) =
      decide (damagedAt s ch c.feed n) :=
    decide_eq_decide.2 (and_congr (mem_preloadFrames_self reverse w n depth)
      (lookup_damaged_congr ch c.feed (s := s) (t := u) huframe.feeds ch n))
  dsimp only at hasked
  rw [State.setChan_chan, hbad, hquiet, ← hp, hown] at hasked
  have hcache : (preload ch c.feed w n reverse u).cache =
      (lookedUp ch c.feed (preloadList reverse w n depth) s).cache := by
    rw [hasked.cache, preloadFrames_eq _ _ _ _ hlo hhi]
    exact lookedUp_reads _ _ _ huframe.feeds (hangled.cache.trans htake.cache)
  have hne : ∀ g ∈ gs, g.ch ≠ ch := fun g hg he => by
    have hmem : g.ch ∈ gs.map (·.ch) := List.mem_map_of_mem hg
    rw [assigned_ch, he] at hmem
    exact (List.nodup_cons.1 (ha ch)).1 hmem
  have hucells : u.cells = (raiseSkipped ch passed s).cells := hangled.cells.trans hcells
  have hraised := fun hlen : s.cells.length = 54 =>
    raise_clipTaken (ch := ch) (u := preload ch c.feed w n reverse u) (id := e.clip) (n := n) (left := rest.length)
      (why := .take) (by rw [hasked.length, hucells, raiseSkipped_cells_length, hlen])
  refine ⟨⟨(huframe.alone (hp ▸ sendLookups_alone ch _ _ u)).raise _ _, hasked.chan,
    (hasked.lists.trans hangled.lists).trans hlists, fun hlen => ?_, fun hlen => ?_⟩, ⟨?_, fun g hg => ?_⟩, hcache⟩
  · refine ⟨congrArg Cell.latch (hraised hlen).1, congrArg Cell.detail (hraised hlen).1⟩
  · refine (hraised hlen).2.trans ((hasked.cell 50 (by omega)).trans ?_)
    exact congrArg (fun cs : List Cell => cs.getD 50 Cell.clear) hucells
  · exact hasked.gangs.trans (hangled.gangs.trans (by rw [hygangs]))
  · refine (hasked.others g.ch (hne g hg)).trans ((hangled.slaves trivial g hg).trans ?_)
    exact congrArg (onAngle g) ((State.chan_setChan ..).trans ((if_neg (hne g hg)).trans (htake.others _ (hne g hg))))

theorem takeRunning_eq {n : Nat} {reverse : Bool} (hr : takeReverse (s.chan ch).speed (e.target c) = reverse)
    (hn : c.entryIn (s.feed c.feed) reverse w = n) : takeRunning ch passed e c rest w s =
      done (runningTake ch passed e rest c.feed w n (e.target c) reverse s) false
        (takeReply e.clip n ((runningTake ch passed e rest c.feed w n (e.target c) reverse s).chan ch).state
          rest.length) := by
  subst hr hn
  rfl

/-- A take goes against the frames by its speed, or from a standstill by its target (R129). -/
theorem takeReverse_iff (speed target : Int) :
    takeReverse speed target = true ↔ speed < 0 ∨ (speed = 0 ∧ target < 0) := by
  unfold takeReverse
  split
  · simp only [Bool.false_eq_true, false_iff]
    omega
  · split
    · simp only [true_iff]
      omega
    · rw [decide_eq_true_eq]
      omega

/-! ## TAKE_NEXT -/

/-- Settles O38: a search with no find, one without a window, and a take that runs on or cues. -/
theorem takeNextTakesTheChosenEntry : Obligations.TakeNextTakesTheChosenEntry := by
  refine ⟨?_, ?_, ?_⟩
  · intro s tag ch hr he hi hs h
    refine exec_takeNext hr tag _ (cmdTakeNext_none he hi hs fun e hmem => ?_)
    rcases h e hmem with hnone | hpassed
    · simp only [takeable, hnone]
    · exact takeable_none hpassed
  · intro s tag ch passed rest e c hr he hi hs hl hpassed hc hx ht hw
    exact exec_takeNext hr tag _ (cmdTakeNext_noHead he hi hs hl hpassed (takeable_some hc hx ht) hw)
  · intro s tag ch passed rest e c w hr he hi hs ha hl hpassed hc hx ht hw x goal runs reverse named r hrev frame answer
      depth
    have hentry : c.entryIn (s.feed c.feed) r w = frame := rfl
    obtain ⟨hlo, hhi⟩ : w.lo ≤ frame ∧ frame ≤ w.hi := clampNat_inside (Clip.window_le hw)
    by_cases hruns : runs
    · have hdir : takeReverse (s.chan ch).speed (e.target c) = r := by
        refine Bool.eq_iff_iff.2 ((takeReverse_iff _ _).trans ?_)
        rw [hrev]
        simp only [reverse, if_pos hruns]
        rfl
      obtain ⟨⟨hframe, hchan, hlists, htold, hskipped⟩, hgang, hcache⟩ :=
        runningTake_taken (passed := passed) (rest := rest) ha hc hruns (e.target c) r hlo hhi
      refine ⟨_, exec_takeNext hr tag _ ((cmdTakeNext_runs he hi hs hl hpassed (takeable_some hc hx ht) hw hruns).trans
        ((takeRunning_eq hdir hentry).trans ?_)), hlists, hframe.feeds, hframe.panel, hframe.arbiter, hframe.unreached,
        ?_, htold, hskipped, ⟨fun _ => hgang, fun hno => absurd hruns hno⟩, fun _ => hcache⟩
      · rw [hchan]
        show CmdResult.mk _ _ (takeReply e.clip frame x.state rest.length) = _
        rcases hruns with hplay | hshuttle
        · simp only [hplay, if_true]
          rfl
        · simp only [hshuttle, if_true, reduceCtorEq, if_false]
          rfl
      · rw [hchan]
        simp only [if_pos hruns, if_pos (Or.inl hruns : runs ∨ _)]
        rfl
    · have hdir : r = decide (e.target c < 0) := by
        refine Bool.eq_iff_iff.2 (hrev.trans ?_)
        rw [decide_eq_true_eq]
        simp only [reverse, if_neg hruns]
        rfl
      obtain ⟨⟨hframe, hchan, hlists, htold, hskipped⟩, hcache, hwhole⟩ :=
        cuedTake_taken (passed := passed) (rest := rest) ha hc r hlo hhi
      refine ⟨_, exec_takeNext hr tag _ ((cmdTakeNext_cues he hi hs hl hpassed (takeable_some hc hx ht) hw hruns).trans
        ((takeCue_eq hdir hentry).trans ?_)), hlists, hframe.feeds, hframe.panel, hframe.arbiter, hframe.unreached,
        ?_, htold, hskipped, ⟨fun h => absurd h hruns, fun _ => hwhole⟩, fun h => hcache (h.resolve_left hruns)⟩
      · obtain ⟨hplay, hshuttle⟩ := not_or.1 hruns
        simp only [if_neg hplay, if_neg hshuttle]
        rfl
      · rw [hchan]
        simp only [if_neg hruns, Channel.cuedOn, decide_eq_true_eq]
        have hwait : (if runs ∨ (0 < depth ∧ answer = .resident) then none else some (⟨c.feed, frame⟩ : FrameRef)) =
            if readyAt s ch c.feed frame then none else some ⟨c.feed, frame⟩ := if_congr (or_iff_right hruns) rfl rfl
        rw [hwait]
        rfl

end Sys2Proof.Machine
end

section
/-!
PROOFS. A tick presents the selection its channel holds, or repeats the last presentation, and its step leaves what was
shown (R89 to R93, O51).
-/

-- Proofs checked in turn: side by side they need more threads than the memory limit of check.sh has room for.
set_option Elab.async false

namespace Sys2Proof.Machine

variable {s t u : State} {ch : ChanId} {w : Window}

/-! ## What is shown at a channel -/

/-- From `s` to `t` the record and the data sent at channel `ch`, its pins and its cell of LATE_FRAME have stayed. -/
structure StaysShown (ch : ChanId) (s t : State) : Prop where
  lastRec : (t.chan ch).lastRec = (s.chan ch).lastRec
  outData : (t.chan ch).outData = (s.chan ch).outData
  pins : t.cache.pins.get ch = s.cache.pins.get ch
  cell : t.cell (12 + ch.val) = s.cell (12 + ch.val)

theorem lostPins_pins {l : List GangSlave} (h : ∀ g ∈ l, g.ch ≠ ch) (s : State) (c : Cache) :
    (lostPins s l c).pins.get ch = c.pins.get ch := by
  refine List.foldlRecOn (motive := fun d : Cache => d.pins.get ch = c.pins.get ch) l _ rfl fun d hd g hg => ?_
  split
  · rw [Cache.setPins_pins, Quad.get_set, if_neg (h g hg).symm, hd]
  · exact hd

theorem raiseSkipped_cell {i : Nat} (hi : i ≠ 50) (ch : ChanId) (l : List CueEntry) (s : State) :
    (raiseSkipped ch l s).cell i = s.cell i := by
  rw [raiseSkipped_eq_tell]
  refine tell_cell_other (fun p hp => ?_) s
  obtain ⟨e, -, hp⟩ := List.mem_flatMap.1 hp
  unfold skipNotice at hp
  cases hc : SMap.find s.clips e.clip with
  | none => simp [hc] at hp
  | some c =>
    simp only [hc, Option.map_some, Option.toList_some, List.mem_singleton] at hp
    subst hp
    exact hi

theorem lookedUp_pins (f : FeedId) (l : List Nat) (s : State) : (lookedUp ch f l s).cache.pins = s.cache.pins :=
  List.foldlRecOn (motive := fun t : State => t.cache.pins = s.cache.pins) l _ rfl fun t ht n _ =>
    (lookup_cache_keeps ch f n t).1.trans ht

theorem tickCache_pins (t : State) (w : Window) (c : State) : (tickCache ch t w c).pins = c.cache.pins := by
  unfold tickCache
  split
  · rfl
  · split
    · exact lookedUp_pins _ _ c
    · rfl

namespace StaysShown

theorem refl (ch : ChanId) (s : State) : StaysShown ch s s := ⟨rfl, rfl, rfl, rfl⟩

/-- A change of neither the channel nor the cache nor the cells. -/
theorem of_same (hc : t.chan ch = s.chan ch := by rfl) (hk : t.cache = s.cache := by rfl)
    (hs : t.cells = s.cells := by rfl) : StaysShown ch s t :=
  ⟨by rw [hc], by rw [hc], by rw [hk], congrArg (fun cs : List Cell => cs.getD (12 + ch.val) Cell.clear) hs⟩

section

variable (h : StaysShown ch s t)
include h

theorem trans (h' : StaysShown ch t u) : StaysShown ch s u :=
  ⟨h'.lastRec.trans h.lastRec, h'.outData.trans h.outData, h'.pins.trans h.pins, h'.cell.trans h.cell⟩

theorem setChan {x : Channel} (hr : x.lastRec = (t.chan ch).lastRec := by rfl)
    (hd : x.outData = (t.chan ch).outData := by rfl) : StaysShown ch s (t.setChan ch x) := by
  have hown : (t.setChan ch x).chan ch = x := (State.chan_setChan ..).trans (if_pos rfl)
  exact h.trans ⟨by rw [hown, hr], by rw [hown, hd], rfl, rfl⟩

theorem raise {n : Nat} {d : Detail} (hi : cellIndex d.cls n ≠ 12 + ch.val := by
    simp [cellIndex, Detail.cls, NoticeClass.firstCell]) :
    StaysShown ch s (raise n d t) :=
  h.trans ⟨rfl, rfl, rfl, (raise_cell ..).trans (if_neg fun hc => hi hc.1.symm)⟩

end

/-! ### Cue lists and angles -/

theorem passAll (l : List CueEntry) (s : State) : StaysShown ch s (passAll ch l s) := by
  obtain ⟨m, hm⟩ := passAll_eq ch l s
  rw [hm]
  exact ⟨rfl, rfl, rfl, raiseSkipped_cell (by omega) ch l s⟩

theorem takeEntry (passed : List CueEntry) (e : CueEntry) (rest : List CueEntry) (s : State) :
    StaysShown ch s (takeEntry ch passed e rest s) := by
  obtain ⟨m, hm⟩ := takeEntry_eq ch passed e rest s
  have hskipped : StaysShown ch s { s with
      clips := m, lists := s.lists.set ch rest
      cells := (raiseSkipped ch passed s).cells, link := (raiseSkipped ch passed s).link } :=
    ⟨rfl, rfl, rfl, raiseSkipped_cell (by omega) ch passed s⟩
  rw [hm]
  exact hskipped.setChan

theorem assignOwnAngles (c : ChanId) (s : State) : StaysShown ch s (assignOwnAngles c s) := by
  have hadopt : ∀ (t : State) (g : GangSlave), StaysShown ch t (adoptAngle g t) := fun t g => by
    obtain ⟨hchan, -, -, hcache, hcells⟩ := adoptAngle_does t g
    by_cases hg : ch = g.ch
    · subst hg
      have hown := (hchan g.ch).trans (if_pos rfl)
      exact ⟨by rw [hown]; rfl, by rw [hown]; rfl, by rw [hcache],
        congrArg (fun cs : List Cell => cs.getD (12 + g.ch.val) Cell.clear) hcells⟩
    · exact .of_same ((hchan ch).trans (if_neg hg)) hcache hcells
  unfold Machine.assignOwnAngles assignAngles
  split
  · exact .refl ch s
  · split
    · exact .refl ch s
    · exact List.foldlRecOn (motive := StaysShown ch s) _ _ .of_same fun t ht g _ => ht.trans (hadopt t g)

/-- A channel that ends by an empty window keeps what it shows, and so do its pins (R54, R98). -/
theorem windowLost (hn : (ch :: (s.gangs.get ch).map (·.ch)).Nodup) : StaysShown ch s (windowLost ch s) := by
  obtain ⟨hchan, -, -, -, -, hcache, -, hcell, -⟩ := windowLost_does ch s hn
  refine ⟨by rw [hchan]; rfl, by rw [hchan]; rfl, ?_, hcell _ fun d => by omega⟩
  rw [hcache]
  exact lostPins_pins (fun g hg he => (List.nodup_cons.1 hn).1 (List.mem_map.2 ⟨g, hg, he⟩)) s s.cache

theorem advanceNext (hn : (ch :: (s.gangs.get ch).map (·.ch)).Nodup) (b : WindowEnd) (passed : List CueEntry)
    (e : CueEntry) (c : Clip) (rest : List CueEntry) : StaysShown ch s (advanceNext ch b passed e c rest s) := by
  have htake : StaysShown ch s (Machine.assignOwnAngles ch (Machine.takeEntry ch passed e rest s)) :=
    (takeEntry passed e rest s).trans (assignOwnAngles ch _)
  have hframe := ((TickFrame.refl ch s).takeEntry passed e rest).assignOwnAngles
  unfold Machine.advanceNext
  dsimp only
  split
  · exact htake.trans (windowLost (hframe.apart hn))
  · exact htake.setChan.raise

/-! ### The bound stage (R60 to R67) -/

section

variable (h : StaysShown ch s t)
include h

theorem stopEnd (w : Window) (e : WindowEnd) : StaysShown ch s (stopEnd ch w e t) := h.setChan.raise

theorem setAtLive (n : Nat) : StaysShown ch s (setAtLive ch n t) := by
  unfold Machine.setAtLive
  dsimp only
  split
  · exact h.setChan
  · exact h.setChan.raise

theorem setAtTail (n : Nat) : StaysShown ch s (setAtTail ch n t) := by
  unfold Machine.setAtTail
  dsimp only
  split
  · exact h.setChan
  · exact h.setChan.raise

end

theorem nextEnd (hn : (ch :: (s.gangs.get ch).map (·.ch)).Nodup) (w : Window) (e : WindowEnd) :
    StaysShown ch s (nextEnd ch w e s) := by
  unfold Machine.nextEnd
  split
  · exact advanceNext hn ..
  · exact ((of_same (s := s) (t := s.setList ch [])).trans (passAll _ (s.setList ch []))).stopEnd w e

theorem clipBoundEnd (hn : (ch :: (s.gangs.get ch).map (·.ch)).Nodup) (w : Window) (e : WindowEnd) (q : Int)
    (m : EndMode) : StaysShown ch s (clipBoundEnd ch w e q m s) := by
  have hrun : StaysShown ch s (match m with
      | .stop => Machine.stopEnd ch w e s
      | .loop => s.setChan ch { s.chan ch with pos := w.wrap q }
      | .next => Machine.nextEnd ch w e s) := by
    cases m with
    | stop => exact (refl ch s).stopEnd w e
    | loop => exact (refl ch s).setChan
    | next => exact nextEnd hn w e
  unfold Machine.clipBoundEnd
  dsimp only
  split
  · exact hrun
  · exact hrun
  · exact (refl ch s).stopEnd w e
  · exact (refl ch s).setChan

theorem settle (hn : (ch :: (s.gangs.get ch).map (·.ch)).Nodup) (w : Window) (q : Int) :
    StaysShown ch s (settle ch w q s) := by
  unfold Machine.settle
  split
  · unfold settleInside
    dsimp only
    split
    · exact (refl ch s).setChan.setAtLive _
    · exact (refl ch s).setChan
  · split
    · exact clipBoundEnd hn ..
    · split
      · exact ((refl ch s).setAtLive _).setChan
      · exact ((refl ch s).setAtTail _).setChan

/-! ### The step (R51, R110) -/

theorem selectAndFetch (hw : (s.chan ch).window = some w) (hn : (ch :: (s.gangs.get ch).map (·.ch)).Nodup) :
    StaysShown ch s (selectAndFetch ch w s) := by
  have hsel := selectAndFetch_selected hw hn
  refine ⟨by rw [hsel.chan], by rw [hsel.chan], ?_, hsel.cell _ (by omega) fun d => by omega⟩
  rw [hsel.cache, tickCache_pins]
  refine lostPins_pins (fun g hg he => ?_) s s.cache
  exact (List.nodup_cons.1 hn).1 (List.mem_map.2 ⟨g, List.mem_of_mem_filter hg, he⟩)

theorem stepSlave (hn : (ch :: (s.gangs.get ch).map (·.ch)).Nodup) : StaysShown ch s (stepSlave ch s) := by
  have hjog : StaysShown ch s (s.setChan ch { s.chan ch with jog := 0 }) := (refl ch s).setChan
  unfold Machine.stepSlave
  dsimp only
  split
  · exact hjog
  · rename_i w hw
    exact hjog.trans (selectAndFetch hw hn)

end StaysShown

/-! ## What a tick's step leaves -/

theorem ticked_staysShown (he : s.engaged = .engaged) (hn : GangsApart s) (hi : (s.chan ch).state ≠ .idle) :
    StaysShown ch (shownState ch s) (ticked ch s) := by
  have hapart : (ch :: ((shownState ch s).gangs.get ch).map (·.ch)).Nodup := by
    rw [(shownState_alone ch s).gangs]
    exact hn ch
  by_cases hs : (s.chan ch).state = .slave
  · rw [ticked_slave he hs]
    exact .stepSlave hapart
  · cases hw : (s.chan ch).material.bind (materialWindow s) with
    | none =>
      rw [ticked_lost he hi hs hw]
      exact .windowLost hapart
    | some w =>
      obtain ⟨m, hm, hmw⟩ := Option.bind_eq_some_iff.1 hw
      obtain ⟨hended, hgoes⟩ := ticked_settles he hi hs hm hmw
      have hstart : StaysShown ch (shownState ch s) (boundStart ch w s) := (StaysShown.refl ch _).setChan
      have hsettled := hstart.trans (StaysShown.settle (s := boundStart ch w s) hapart w (boundStep ch m s))
      have hframe := ((TickFrame.refl ch (shownState ch s)).setChan (TickFrame.own ch _) :
        TickFrame ch (shownState ch s) (boundStart ch w s)).settle w (boundStep ch m s)
      cases hwindow : ((settle ch w (boundStep ch m s) (boundStart ch w s)).chan ch).window with
      | none =>
        rw [hended hwindow]
        exact hsettled
      | some w' =>
        rw [hgoes w' hwindow]
        refine hsettled.setChan.trans (.selectAndFetch ?_ (hframe.apart hapart))
        exact (congrArg Channel.window ((State.chan_setChan ..).trans (if_pos rfl))).trans hwindow

/-! ## The presentation (R89 to R93) -/

theorem Cache.abort_pins (c : Cache) (k : Nat) (why : Reason) : (c.abort k why).pins = c.pins := by
  unfold Cache.abort Cache.abandonSlot
  split
  · rfl
  · split
    · rfl
    · split
      · rfl
      · split <;> rfl

theorem timeOut_pins (c : ChanId) (k : Nat) (s : State) : (timeOut c k s).cache.pins = s.cache.pins := by
  unfold timeOut
  split
  · rfl
  · dsimp only
    split <;> exact Cache.abort_pins ..

/-- The count owed for the tick before leaves the pins. -/
theorem beforeTick_pins (ch : ChanId) (s : State) : (beforeTick ch s).cache.pins = s.cache.pins := by
  unfold beforeTick
  split
  · rfl
  · exact foldl_keeps (fun t : State => t.cache.pins) _ (fun t k => timeOut_pins ch k t) _ _
  · rfl

/-- The slots a tick presents from. -/
theorem beforeTick_slots (ch : ChanId) (s : State) : (beforeTick ch s).cache.slots =
    (if s.cache.ticks.get ch = .presented then countTick ch s else s).cache.slots := by
  unfold beforeTick
  split <;> rename_i h
  · rw [h]; rfl
  · rw [h]; rfl
  · rw [h]; rfl

theorem validSlot_congr {c d : Cache} (h : d.slots = c.slots) (f : FeedId) : d.validSlot f = c.validSlot f :=
  funext fun n => by simp only [Cache.validSlot, h]

theorem sendRecord_shown (r : PresRecord) (s : State) : ((sendRecord ch r s).chan ch).lastRec = r ∧
    ((sendRecord ch r s).chan ch).outData = s.cache.pinnedData ch ∧ (sendRecord ch r s).cache = s.cache := by
  have hown : (sendRecord ch r s).chan ch = { s.chan ch with lastRec := r, outData := s.cache.pinnedData ch } :=
    (State.chan_setChan ..).trans (if_pos rfl)
  exact ⟨by rw [hown], by rw [hown], rfl⟩

section Presentation

variable {sel : Selection} {cause : RepeatCause} {i j : Nat}

/-- A presentation without its partner pins the frame alone. -/
theorem presentSelection_single (h : s.cache.validSlot sel.feed sel.frame = some i)
    (hp : sel.partner.bind (s.cache.validSlot sel.feed) = none) : presentSelection ch sel cause s =
      sendRecord ch (shownRecord sel false) { s with cache := (s.cache.touch i).setPins ch [i] } := by
  unfold presentSelection
  simp only [Cache.present, h, hp]

/-- A blended presentation pins both frames. -/
theorem presentSelection_pair (h : s.cache.validSlot sel.feed sel.frame = some i)
    (hp : sel.partner.bind (s.cache.validSlot sel.feed) = some j) : presentSelection ch sel cause s =
      sendRecord ch (shownRecord sel true) { s with cache := ((s.cache.touch i).touch j).setPins ch [i, j] } := by
  unfold presentSelection
  simp only [Cache.present, h, hp]

end Presentation

theorem presentActive_selection {sel : Selection} (h : (s.chan ch).selection = some sel) : presentActive ch s =
    presentSelection ch (sel.named (s.chan ch).opts.blend) (if (s.chan ch).damaged then .damaged else .late) s := by
  simp only [presentActive, h]

/-- Settles O51: the presentation by what the cache holds, which the step after it leaves. -/
theorem tickPresentsOrRepeats : Obligations.TickPresentsOrRepeats := by
  intro s ch sel he hi hn hsel c partner
  have hstays := ticked_staysShown he hn hi
  let b := beforeTick ch s
  let cause := if (s.chan ch).damaged then RepeatCause.damaged else .late
  let named := sel.named (s.chan ch).opts.blend
  have hbchan : b.chan ch = { s.chan ch with preload := (b.chan ch).preload } := beforeTick_chan ch s
  have hslots : b.cache.slots = c.slots := beforeTick_slots ch s
  have hvalid : b.cache.validSlot sel.feed = c.validSlot sel.feed := validSlot_congr hslots sel.feed
  have hfeed : named.feed = sel.feed := by simp only [named, Selection.named]; split <;> rfl
  have hframe : named.frame = sel.frame := by simp only [named, Selection.named]; split <;> rfl
  have hpartner : named.partner = partner := by simp only [named, Selection.named, partner]; split <;> rfl
  have hclip : named.clip = sel.clip := by simp only [named, Selection.named]; split <;> rfl
  have hshown : shownState ch s = presentSelection ch named cause b := by
    have := presentActive_selection (s := b) (ch := ch) (by rw [hbchan]; exact hsel)
    rw [hbchan] at this
    exact this
  refine ⟨_, exec_outputTick ch s, fun i hvi => ⟨fun hp => ?_, fun j hp => ?_⟩, fun hnone => ?_⟩
  · have hone : presentSelection ch named cause b =
        sendRecord ch (shownRecord named false) { b with cache := (b.cache.touch i).setPins ch [i] } :=
      presentSelection_single (by rw [hfeed, hframe, hvalid]; exact hvi) (by rw [hfeed, hpartner, hvalid]; exact hp)
    obtain ⟨hrec, hdata, hcache⟩ := sendRecord_shown (ch := ch) (shownRecord named false)
      { b with cache := (b.cache.touch i).setPins ch [i] }
    rw [← hone, ← hshown] at hrec hdata hcache
    refine ⟨hstays.lastRec.trans (hrec.trans ?_), hstays.pins.trans ?_,
      fun y hy => hstays.outData.trans (hdata.trans ?_)⟩
    · simp only [shownRecord, hfeed, hframe, hpartner, hclip, Bool.not_false, Bool.and_true, Bool.false_eq_true,
        if_false]
    · rw [hcache, Cache.setPins_pins, Quad.get_set, if_pos rfl]
    · exact pinnedData_setPins (by rw [← hy, ← hslots]; rfl)
  · have hblend : (s.chan ch).opts.blend = true := by
      by_contra hb
      simp only [partner, if_neg hb, Option.bind_none, reduceCtorEq] at hp
    have hnamed : named = sel := by simp only [named, Selection.named, hblend, if_true]
    have hone : presentSelection ch named cause b =
        sendRecord ch (shownRecord named true) { b with cache := ((b.cache.touch i).touch j).setPins ch [i, j] } :=
      presentSelection_pair (by rw [hfeed, hframe, hvalid]; exact hvi) (by rw [hfeed, hpartner, hvalid]; exact hp)
    obtain ⟨hrec, -, hcache⟩ := sendRecord_shown (ch := ch) (shownRecord named true)
      { b with cache := ((b.cache.touch i).touch j).setPins ch [i, j] }
    rw [← hone, ← hshown] at hrec hcache
    refine ⟨hstays.lastRec.trans (hrec.trans ?_), hstays.pins.trans ?_⟩
    · simp only [shownRecord, hnamed, if_true, Bool.not_true, Bool.and_false]
    · rw [hcache, Cache.setPins_pins, Quad.get_set, if_pos rfl]
  · have hlate : presentSelection ch named cause b = repeatLast ch named.feed (some named.frame) cause b :=
      presentSelection_late (by rw [hfeed, hframe, hvalid]; exact hnone)
    rw [hlate, hfeed, hframe] at hshown
    refine ⟨hstays.lastRec.trans ?_, hstays.pins.trans ?_, fun hlen => ?_⟩
    · rw [hshown, repeatLast_chan, hbchan]
    · rw [hshown]
      exact congrArg (fun q : Quad (List Nat) => q.get ch) (beforeTick_pins ch s)
    · have hcell := repeatLast_cell (s := b) (ch := ch) (cause := cause) sel.feed (some sel.frame)
        ((beforeTick_alone ch s).length.trans hlen)
      rw [← hshown, ← hstays.cell] at hcell
      exact hcell

end Sys2Proof.Machine
end

section
/-!
PROOFS. UNGANG (R113, R115): each named slave leaves its gang into JOG on its feed, or into IDLE without a playable
range (O25).
-/

-- Proofs checked in turn: side by side they need more threads than the memory limit of check.sh has room for.
set_option Elab.async false

namespace Sys2Proof.Machine

variable {s t : State} {m ch : ChanId} {g : GangSlave}

/-! ## What the operations on slaves leave aside -/

/-- The feeds, the cue lists, the panel and the arbiter, which no operation of Gang Control reaches. -/
def State.aside (s : State) : Oct Feed × Quad (List CueEntry) × Panel × Arbiter :=
  (s.feeds, s.lists, s.panel, s.arbiter)

theorem State.aside_eq_iff : t.aside = s.aside ↔
    t.feeds = s.feeds ∧ t.lists = s.lists ∧ t.panel = s.panel ∧ t.arbiter = s.arbiter := by
  simp only [State.aside, Prod.mk.injEq]

theorem feed_of_aside (h : t.aside = s.aside) (f : FeedId) : t.feed f = s.feed f :=
  State.feed_congr (State.aside_eq_iff.1 h).1 f

theorem aside_changeMaterial (c : ChanId) (x : Option Material) (s : State) :
    (changeMaterial c x s).aside = s.aside := by
  rw [changeMaterial_whole]
  rfl

theorem aside_loseWindow (c : ChanId) (s : State) : (loseWindow c s).aside = s.aside :=
  aside_changeMaterial c none s

theorem aside_ungangSlave (m : ChanId) (g : GangSlave) (s : State) : (ungangSlave m g s).aside = s.aside := by
  unfold ungangSlave
  dsimp only
  split
  · exact aside_loseWindow g.ch (leaveGang m g.ch s)
  · rfl

/-! ## One slave under UNGANG (R115) -/

/-- Where slave `g` of the state `s` stands once UNGANG has freed it: in JOG on its feed, or in IDLE without a playable
range (R115). -/
structure StandsFree (s : State) (g : GangSlave) (x : Channel) : Prop where
  jog : ∀ w, (s.feed g.feed).range = some w → x =
    { s.chan g.ch with state := .jog, speed := 0, target := 0, window := some w, slaveClamped := false }
  idle : (s.feed g.feed).range = none → x.state = .idle ∧ x.material = none

theorem StandsFree.congr {x : Channel} (h : StandsFree t g x) (hf : t.feed g.feed = s.feed g.feed)
    (hc : t.chan g.ch = s.chan g.ch) : StandsFree s g x :=
  ⟨fun w hw => hc ▸ h.jog w (hf ▸ hw), fun hw => h.idle (hf ▸ hw)⟩

theorem ungangSlave_standsFree (m : ChanId) (g : GangSlave) (s : State) :
    StandsFree s g ((ungangSlave m g s).chan g.ch) := by
  have hleft : (leaveGang m g.ch s).chan g.ch = { s.chan g.ch with slaveClamped := false } :=
    (State.chan_setChan ..).trans (if_pos rfl)
  have hfeed : (leaveGang m g.ch s).feed g.feed = s.feed g.feed := rfl
  unfold ungangSlave
  refine ⟨fun w hw => ?_, fun hw => ?_⟩
  · simp only [hfeed, hw, State.chan_setChan, if_true, hleft]
    rfl
  · simp only [hfeed, hw]
    obtain ⟨hown, -⟩ := loseWindow_does g.ch (leaveGang m g.ch s)
    rw [hown]
    exact ⟨rfl, rfl⟩

/-! ## The named slaves in turn -/

/-- From `s` to `t` UNGANG has freed slaves `l` of master `m`. -/
structure Unganged (m : ChanId) (l : List GangSlave) (s t : State) : Prop where
  slaves : ∀ g ∈ l, StandsFree s g (t.chan g.ch)
  others : ∀ d, (∀ g ∈ l, g.ch ≠ d) → t.chan d = s.chan d
  gone : ∀ h ∈ t.gangs.get m, h ∈ s.gangs.get m ∧ ∀ g ∈ l, h.ch ≠ g.ch
  aside : t.aside = s.aside

theorem ungangSlave_foldl (m : ChanId) {l : List GangSlave} (hn : (l.map (·.ch)).Nodup) (s : State) :
    Unganged m l s (l.foldl (fun acc g => ungangSlave m g acc) s) := by
  induction l generalizing s with
  | nil => exact ⟨by simp, fun _ _ => rfl, fun h hh => ⟨hh, by simp⟩, rfl⟩
  | cons g l ih =>
    obtain ⟨hg, hl⟩ := List.nodup_cons.1 hn
    have hne : ∀ g' ∈ l, g'.ch ≠ g.ch := fun g' hg' he => hg (List.mem_map.2 ⟨g', hg', he⟩)
    have hfreed := ungangSlave_freed m g s
    have haside := aside_ungangSlave m g s
    have hrest := ih hl (ungangSlave m g s)
    refine ⟨List.forall_mem_cons.2 ⟨?_, fun g' hg' => ?_⟩, fun d hd => ?_, fun h hh => ?_, hrest.aside.trans haside⟩
    · rw [List.foldl_cons, hrest.others g.ch hne]
      exact ungangSlave_standsFree m g s
    · exact (hrest.slaves g' hg').congr (feed_of_aside haside _) (hfreed.others _ (hne g' hg'))
    · obtain ⟨hd0, hdl⟩ := List.forall_mem_cons.1 hd
      exact (hrest.others d hdl).trans (hfreed.others d hd0.symm)
    · obtain ⟨hmem, hout⟩ := hrest.gone h hh
      obtain ⟨hin, hg'⟩ := hfreed.mem_get.1 hmem
      exact ⟨hin, List.forall_mem_cons.2 ⟨hg' rfl, hout⟩⟩

/-! ## The command -/

theorem exec_ungang (hr : s.ready) (tag n : Byte) {st : Status} {result : List Byte}
    (h : cmdUngang n.toNat s = ⟨t, st, result⟩) : exec (.ungang tag [n]) s = answers 20#8 tag t st result :=
  arrive_answers (act := cmdUngang) hr ⟨20#8, tag, _⟩ (parseByte_one n) h

/-- The slaves UNGANG names are distinct, and stand apart from their master (R105, R115). -/
theorem ungangNames_apart (ha : GangsApart s) {gs : List GangSlave} (h : ungangNames s ch = some (m, gs)) :
    (m :: gs.map (·.ch)).Nodup := by
  unfold ungangNames at h
  split at h
  · rename_i hm
    cases h
    obtain ⟨hmem, -⟩ := masterOf_mem hm
    simpa using (ha.others _ hmem).symm
  · split at h
    · cases h
    · cases h
      exact ha _

theorem ungangNames_none (hm : masterOf s ch = none) (hg : s.gangs.get ch = []) : ungangNames s ch = none := by
  simp only [ungangNames, hm, hg, if_true]

/-- Settles O25: the named slaves are freed one after the other, each apart from the rest and from the master. -/
theorem ungangFreesTheSlaves : Obligations.UngangFreesTheSlaves := by
  refine ⟨fun s tag n hr => ⟨fun hn => ?_, fun hn he => ?_⟩,
    fun s tag ch hr he ha => ⟨fun hm hg => ?_, fun m gs h => ?_⟩⟩
  · exact exec_ungang hr tag n (withEngaged_number hn)
  · exact exec_ungang hr tag n (withEngaged_disengaged hn he)
  · refine exec_ungang hr tag _ ((withEngaged_acts (names_chanByte he)).trans ?_)
    rw [ungangNames_none hm hg]
    rfl
  · obtain ⟨hm, hl⟩ := List.nodup_cons.1 (ungangNames_apart ha h)
    obtain ⟨hslaves, hothers, hgone, haside⟩ := ungangSlave_foldl m hl s
    obtain ⟨hfeeds, hlists, hpanel, harbiter⟩ := State.aside_eq_iff.1 haside
    refine ⟨gs.foldl (fun acc g => ungangSlave m g acc) s, ?_,
      hothers m fun g hg hgm => hm (List.mem_map.2 ⟨g, hg, hgm⟩), hfeeds, hlists, hpanel, harbiter,
      fun g hg => ⟨fun g' hg' => (hgone g' hg').2 g hg, (hslaves g hg).jog, (hslaves g hg).idle⟩⟩
    refine exec_ungang hr tag _ ((withEngaged_acts (names_chanByte he)).trans ?_)
    rw [h]
    rfl

end Sys2Proof.Machine
end

section
/-!
PROOFS. GANG (R106 to R109): its checks, the slaves it places from their master, and those without a playable range
(O24).
-/

-- Proofs checked in turn: side by side they need more threads than the memory limit of check.sh has room for.
set_option Elab.async false

namespace Sys2Proof.Machine

variable {s t : State} {m : ChanId} {g : GangSlave} {w : Window} {st : Status} {result : List Byte}

/-! ## The body of GANG (R106, R200) -/

/-- The bytes of one slave in a GANG body: channel, feed, offset. -/
def slaveEntry (a : Byte × Byte × Int) : List Byte := a.1 :: a.2.1 :: leInt 4 a.2.2

/-- The numbers the bytes of one slave name. -/
def slaveNumbers (a : Byte × Byte × Int) : Nat × Nat × Int := (a.1.toNat, a.2.1.toNat, a.2.2)

theorem takeSlave_entry {a : Byte × Byte × Int} (h : fitsS 4 a.2.2) (rest : List Byte) :
    takeSlave (slaveEntry a ++ rest) = some (slaveNumbers a, rest) := by
  simp only [takeSlave, slaveEntry, List.cons_append, takeU_one, takeS_fits h, Option.bind_eq_bind, Option.bind_some]
  rfl

theorem parseGang_body (n : Byte) {l : List (Byte × Byte × Int)} (hlen : l.length < 256)
    (hfits : ∀ a ∈ l, fitsS 4 a.2.2) :
    parseGang (n :: byteOf l.length :: l.flatMap slaveEntry) = some (n.toNat, l.map slaveNumbers) := by
  have hentries := takeTimes_flatMap (fun a ha rest => takeSlave_entry (hfits a ha) rest) []
  rw [List.append_nil] at hentries
  simp only [parseGang, takeList, takeU_one, byteOf_toNat_of_lt hlen, hentries, Option.bind_eq_bind, Option.bind_some,
    bodyEnd_nil]

theorem exec_gang (hr : s.ready) (tag n : Byte) {l : List (Byte × Byte × Int)} (hlen : l.length < 256)
    (hfits : ∀ a ∈ l, fitsS 4 a.2.2) (h : cmdGang n.toNat (l.map slaveNumbers) s = ⟨t, st, result⟩) :
    exec (.gang tag (n :: byteOf l.length :: l.flatMap slaveEntry)) s = answers 19#8 tag t st result :=
  arrive_answers (act := fun a : Nat × List (Nat × Nat × Int) => cmdGang a.1 a.2) hr ⟨19#8, tag, _⟩
    (parseGang_body n hlen hfits) h

/-! ## The checks (R106) -/

/-- The slave that the bytes of an entry in range name. -/
def slaveOf (a : Byte × Byte × Int) : GangSlave := ⟨Fin.ofNat 4 a.1.toNat, Fin.ofNat 8 a.2.1.toNat, clampOffset a.2.2⟩

theorem slaveList?_outside {l : List (Byte × Byte × Int)} (h : ∃ a ∈ l, 3 < a.1.toNat ∨ 7 < a.2.1.toNat) :
    slaveList? (l.map slaveNumbers) = none := by
  obtain ⟨a, ha, hout⟩ := h
  refine mapM_eq_none ⟨slaveNumbers a, List.mem_map_of_mem ha, ?_⟩
  rcases hout with hch | hfeed
  · simp only [slaveNumbers, chanOf?_none hch, Option.bind_none]
  · simp only [slaveNumbers, feedOf?_none hfeed, Option.map_none, Option.bind_fun_none]

theorem slaveList?_inside {l : List (Byte × Byte × Int)} (h : ¬ ∃ a ∈ l, 3 < a.1.toNat ∨ 7 < a.2.1.toNat) :
    slaveList? (l.map slaveNumbers) = some (l.map slaveOf) := by
  unfold slaveList?
  rw [List.mapM_map]
  refine mapM_eq_some fun a ha => ?_
  obtain ⟨hch, hfeed⟩ := not_or.1 fun hout => h ⟨a, ha, hout⟩
  simp only [Function.comp, slaveNumbers, chanOf?_eq, feedOf?_eq, if_neg hch, if_neg hfeed]
  rfl

/-- A channel in a gang is a slave of it or its master (R105). -/
theorem isGanged_iff (s : State) (c : ChanId) :
    isGanged s c = true ↔ (masterOf s c).isSome = true ∨ s.gangs.get c ≠ [] := by
  simp only [isGanged, Bool.or_eq_true, bne_iff_ne]

/-- The state in which the slaves `gs` of the new master `m` have joined (R107). -/
def joined (m : ChanId) (gs : List GangSlave) (s : State) : State :=
  gs.foldl (fun acc g => joinGang m g acc) { s with gangs := s.gangs.set m gs }

/-- GANG of channels and feeds in range: its other checks in their order, and its effect. -/
theorem cmdGang_eq {n : Nat} {slaves : List (Nat × Nat × Int)} {gs : List GangSlave} (hm : chanOf? n = some m)
    (hgs : slaveList? slaves = some gs) : cmdGang n slaves s =
      if gs = [] ∨ 3 < gs.length then refuse s .badArgument
      else if ¬ (m :: gs.map (·.ch)).Nodup then refuse s .badArgument
      else if s.engaged = .disengaged then refuse s .notEngaged
      else if isGanged s m = true then refuse s .ganged
      else if gs.any (fun g => isGanged s g.ch) = true then refuse s .ganged
      else if (s.chan m).state = .idle then refuse s .noMaterial
      else done (joined m gs s) (slaves.any fun a => clampOffset a.2.2 != a.2.2) (gangReply (joined m gs s) gs) := by
  simp only [cmdGang, hm, hgs, isGanged_iff]
  rfl

section Refusals

variable {n : Byte} {l : List (Byte × Byte × Int)}

/-- The numbers of a GANG fail its first two checks: a channel, a feed or the number of slaves lies outside its range,
or a channel stands twice (R106). -/
abbrev gangOutside (n : Byte) (l : List (Byte × Byte × Int)) : Prop :=
  3 < n.toNat ∨ (∃ a ∈ l, 3 < a.1.toNat ∨ 7 < a.2.1.toNat) ∨ l = [] ∨ 3 < l.length ∨
    ¬ (n.toNat :: l.map fun a => a.1.toNat).Nodup

/-- A GANG names a channel that is in a gang (R106). -/
abbrev gangNamesGanged (s : State) (n : Byte) (l : List (Byte × Byte × Int)) : Prop :=
  ∃ c : ChanId, (c.val = n.toNat ∨ ∃ a ∈ l, c.val = a.1.toNat) ∧
    ((masterOf s c).isSome = true ∨ s.gangs.get c ≠ [])

theorem chanNumber_val {k : Nat} (h : ¬ 3 < k) : (Fin.ofNat 4 k).val = k := Nat.mod_eq_of_lt (by omega)

/-- Channels in range are distinct when their numbers are. -/
theorem gangNumbers_nodup_iff (hn : ¬ 3 < n.toNat) (hl : ¬ ∃ a ∈ l, 3 < a.1.toNat ∨ 7 < a.2.1.toNat) :
    (Fin.ofNat 4 n.toNat :: (l.map slaveOf).map (·.ch)).Nodup ↔ (n.toNat :: l.map fun a => a.1.toNat).Nodup := by
  have hnumbers : (Fin.ofNat 4 n.toNat :: (l.map slaveOf).map (·.ch)).map Fin.val =
      n.toNat :: l.map fun a => a.1.toNat := by
    rw [List.map_cons, chanNumber_val hn, List.map_map, List.map_map]
    exact congrArg _ (List.map_congr_left fun a ha => chanNumber_val fun h => hl ⟨a, ha, .inl h⟩)
  rw [← hnumbers, List.nodup_map_iff Fin.val_injective]

/-- Of channels in range, one in a gang is the master named or a slave named. -/
theorem gangNamesGanged_iff (h : ¬ gangOutside n l) : gangNamesGanged s n l ↔
    isGanged s (Fin.ofNat 4 n.toNat) = true ∨ (l.map slaveOf).any (fun g => isGanged s g.ch) = true := by
  have hn : ¬ 3 < n.toNat := fun hn => h (.inl hn)
  have hval : ∀ a ∈ l, (slaveOf a).ch.val = a.1.toNat := fun a ha =>
    chanNumber_val fun hch => h (.inr (.inl ⟨a, ha, .inl hch⟩))
  simp only [gangNamesGanged, ← isGanged_iff, List.any_map, List.any_eq_true, Function.comp]
  constructor
  · rintro ⟨c, hc | ⟨a, ha, hc⟩, hg⟩
    · exact .inl (Fin.ext (hc.trans (chanNumber_val hn).symm) ▸ hg)
    · exact .inr ⟨a, ha, Fin.ext (hc.trans (hval a ha).symm) ▸ hg⟩
  · rintro (hg | ⟨a, ha, hg⟩)
    · exact ⟨_, .inl (chanNumber_val hn), hg⟩
    · exact ⟨_, .inr ⟨a, ha, hval a ha⟩, hg⟩

theorem cmdGang_outside (h : gangOutside n l) :
    cmdGang n.toNat (l.map slaveNumbers) s = refuse s .badArgument := by
  by_cases hn : 3 < n.toNat
  · simp only [cmdGang, chanOf?_none hn]
  by_cases hl : ∃ a ∈ l, 3 < a.1.toNat ∨ 7 < a.2.1.toNat
  · simp only [cmdGang, slaveList?_outside hl]
    cases chanOf? n.toNat <;> rfl
  rw [cmdGang_eq ((chanOf?_eq _).trans (if_neg hn)) (slaveList?_inside hl)]
  rcases (h.resolve_left hn).resolve_left hl with hnil | hlong | hdup
  · exact if_pos (.inl (List.map_eq_nil_iff.2 hnil))
  · exact if_pos (.inr (by rwa [List.length_map]))
  · rw [if_pos (c := ¬ _) fun hd => hdup ((gangNumbers_nodup_iff hn hl).1 hd), ite_self]

/-- Past its first two checks, GANG looks at the engagement state, at the gangs, and at the master's state (R106). -/
theorem cmdGang_inside (h : ¬ gangOutside n l) : cmdGang n.toNat (l.map slaveNumbers) s =
    if s.engaged = .disengaged then refuse s .notEngaged
    else if isGanged s (Fin.ofNat 4 n.toNat) = true ∨ (l.map slaveOf).any (fun g => isGanged s g.ch) = true then
      refuse s .ganged
    else if (s.chan (Fin.ofNat 4 n.toNat)).state = .idle then refuse s .noMaterial
    else done (joined (Fin.ofNat 4 n.toNat) (l.map slaveOf) s)
      ((l.map slaveNumbers).any fun a => clampOffset a.2.2 != a.2.2)
      (gangReply (joined (Fin.ofNat 4 n.toNat) (l.map slaveOf) s) (l.map slaveOf)) := by
  simp only [gangOutside, not_or, not_not] at h
  obtain ⟨hn, hl, hnil, hfew, hnodup⟩ := h
  have hl' : ¬ ∃ a ∈ l, 3 < a.1.toNat ∨ 7 < a.2.1.toNat := by simpa using hl
  have hlist : ¬ (l.map slaveOf = [] ∨ 3 < (l.map slaveOf).length) := by
    rw [List.map_eq_nil_iff, List.length_map]
    exact not_or.2 ⟨hnil, hfew⟩
  rw [cmdGang_eq ((chanOf?_eq _).trans (if_neg hn)) (slaveList?_inside hl'), if_neg hlist,
    if_neg (not_not.2 ((gangNumbers_nodup_iff hn hl').2 hnodup))]
  split
  · rfl
  · simp only [ite_or]

end Refusals

/-! ## One slave that joins (R107 to R109) -/

theorem Alone.aside {c : ChanId} {ks : List Nat} (h : Alone c ks s t) : t.aside = s.aside := by
  obtain ⟨_, _, _, _, rfl⟩ := h.whole
  rfl

theorem aside_loseSlave (m : ChanId) (g : GangSlave) (s : State) : (loseSlave m g s).aside = s.aside := by
  obtain ⟨_, _, _, _, hidled⟩ := slaveToIdle_idled m g.ch s
  show (slaveToIdle m g.ch s).aside = s.aside
  rw [hidled]
  rfl

/-- The slave `x` as it stands in SLAVE on its feed before its derivation (R107 steps 1 and 2). -/
def Channel.enlisted (x : Channel) (g : GangSlave) : Channel :=
  { x with material := some (.feed g.feed), state := .slave, cueWait := none, atLive := false, atTail := false,
           damaged := false, idleSel := none }

theorem enlisted_chan (g : GangSlave) (s : State) (d : ChanId) :
    (enlisted g s).chan d = if d = g.ch then (s.chan g.ch).enlisted g else s.chan d := by
  rw [enlisted, State.chan_setChan, changeMaterial_chan, if_pos rfl]
  split
  · rfl
  · rw [changeMaterial_chan, if_neg ‹_›]

theorem enlisted_aside (g : GangSlave) (s : State) : (enlisted g s).aside = s.aside := aside_changeMaterial ..

/-- The slave `x` placed from its master `y` in the window `w` with its selection, and a damaged mark by the answer to
its lookups (R107 steps 3 to 5). -/
def Channel.joined (x y : Channel) (g : GangSlave) (w r : Window) (bad : Bool) : Channel :=
  let sw := slaveSpan w r g.offset
  let z := derivedSlave (x.enlisted g) y sw g.offset
  { z with selection := some (z.select g.feed sw), damaged := bad }

/-- Where slave `g` of the state `s` stands once it has joined a gang with master `y` in the window `w` (R107). -/
structure JoinedAs (s : State) (y : Channel) (w : Window) (g : GangSlave) (x : Channel) : Prop where
  placed : ∀ r, (s.feed g.feed).range = some r → ∃ bad, x = (s.chan g.ch).joined y g w r bad
  lost : (s.feed g.feed).range = none → x.state = .idle ∧ x.material = none

theorem JoinedAs.congr {x y : Channel} (h : JoinedAs t y w g x) (hf : t.feed g.feed = s.feed g.feed)
    (hc : t.chan g.ch = s.chan g.ch) : JoinedAs s y w g x :=
  ⟨fun r hr => hc ▸ h.placed r (hf ▸ hr), fun hr => h.lost (hf ▸ hr)⟩

/-- From `s` to `t` slaves `l` have joined the gang of `m`, which has the window `w`; those without a playable range
have left its record. -/
structure Joins (m : ChanId) (w : Window) (l : List GangSlave) (s t : State) : Prop where
  slaves : ∀ g ∈ l, JoinedAs s (s.chan m) w g (t.chan g.ch)
  others : ∀ d, (∀ g ∈ l, g.ch ≠ d) → t.chan d = s.chan d
  record : t.gangs.get m =
    (s.gangs.get m).filter fun h => l.all fun g => h.ch != g.ch || (s.feed g.feed).range.isSome
  gangs : ∀ k, k ≠ m → t.gangs.get k = s.gangs.get k
  aside : t.aside = s.aside

/-- A slave joins by its derivation; one that stays in the gang selects and sends its lookups (R107). -/
theorem joinGang_eq (m : ChanId) (g : GangSlave) (s : State) : joinGang m g s =
    if (masterOf (deriveSlave m g (enlisted g s)) g.ch).isSome = true then
      sendLookups g.ch g.feed (selectionFrames ((selectSlave g (deriveSlave m g (enlisted g s))).chan g.ch))
        (selectSlave g (deriveSlave m g (enlisted g s)))
    else deriveSlave m g (enlisted g s) := rfl

/-- A slave whose feed has no playable range leaves again, into IDLE (R107, R113). -/
theorem joinGang_lost (hown : ∀ k, k ≠ m → ∀ h ∈ s.gangs.get k, h.ch ≠ g.ch) (hr : (s.feed g.feed).range = none) :
    joinGang m g s = loseSlave m g (enlisted g s) := by
  have hderive : deriveSlave m g (enlisted g s) = loseSlave m g (enlisted g s) := by
    simp only [deriveSlave, feed_of_aside (enlisted_aside g s), hr]
  have hgone : masterOf (loseSlave m g (enlisted g s)) g.ch = none := by
    rw [masterOf_none_iff]
    rintro ⟨k, h, hh, he⟩
    obtain ⟨hin, hout⟩ := (loseSlave_freed m g (enlisted g s)).mem_get.1 hh
    rw [(enlisted_keeps g s).1] at hin
    by_cases hk : k = m
    · exact hout hk he
    · exact hown k hk h hin he
  rw [joinGang_eq, hderive, hgone]
  rfl

/-- A slave whose feed has a playable range is placed, selects, and sends its lookups (R107). -/
theorem joinGang_placed (hm : g.ch ≠ m) (hw : (s.chan m).window = some w) (hg : g ∈ s.gangs.get m) {r : Window}
    (hr : (s.feed g.feed).range = some r) : joinGang m g s =
      let x := (s.chan g.ch).joined (s.chan m) g w r false
      sendLookups g.ch g.feed (selectionFrames x) ((enlisted g s).setChan g.ch x) := by
  have hmaster : (enlisted g s).chan m = s.chan m := (enlisted_chan g s m).trans (if_neg hm.symm)
  have hslave : (enlisted g s).chan g.ch = (s.chan g.ch).enlisted g := (enlisted_chan g s g.ch).trans (if_pos rfl)
  let z := derivedSlave ((s.chan g.ch).enlisted g) (s.chan m) (slaveSpan w r g.offset) g.offset
  have hderive : deriveSlave m g (enlisted g s) = (enlisted g s).setChan g.ch z := by
    simp only [deriveSlave, feed_of_aside (enlisted_aside g s), hr, hmaster, hw, hslave]
    rfl
  have hstays : (masterOf ((enlisted g s).setChan g.ch z) g.ch).isSome = true := by
    rw [masterOf_isSome_iff, State.gangs_setChan, (enlisted_keeps g s).1]
    exact ⟨m, g, hg, rfl⟩
  have hplaced : ((enlisted g s).setChan g.ch z).chan g.ch = z := (State.chan_setChan ..).trans (if_pos rfl)
  have hselect : selectSlave g ((enlisted g s).setChan g.ch z) =
      (enlisted g s).setChan g.ch ((s.chan g.ch).joined (s.chan m) g w r false) := by
    rw [selectSlave_eq (congrArg Channel.window hplaced), hplaced, State.setChan_setChan]
    rfl
  rw [joinGang_eq, hderive, if_pos hstays, hselect, State.chan_setChan, if_pos rfl]

/-- The lookups of a placed slave reach its damaged mark alone (R94, R107 step 5). -/
theorem sendLookups_joined {x y : Channel} {r : Window} (l : List Nat)
    (hs : s.chan g.ch = x.joined y g w r false) :
    ∃ bad, (sendLookups g.ch g.feed l s).chan g.ch = x.joined y g w r bad := by
  obtain ⟨hwait, -⟩ := sendLookups_quiet (ch := g.ch) g.feed l s (congrArg Channel.cueWait hs)
  have hchan : ∃ bad, (sendLookups g.ch g.feed l s).chan g.ch = { s.chan g.ch with
      cueWait := ((sendLookups g.ch g.feed l s).chan g.ch).cueWait, damaged := bad } :=
    ⟨_, sendLookups_chan l s (congrArg Channel.selection hs)⟩
  obtain ⟨bad, hchan⟩ := hchan
  rw [hwait, hs] at hchan
  exact ⟨bad, hchan⟩

theorem joinGang_joins (hm : g.ch ≠ m) (hw : (s.chan m).window = some w) (hg : g ∈ s.gangs.get m)
    (hown : ∀ k, k ≠ m → ∀ h ∈ s.gangs.get k, h.ch ≠ g.ch) : Joins m w [g] s (joinGang m g s) := by
  cases hr : (s.feed g.feed).range with
  | none =>
    rw [joinGang_lost hown hr]
    obtain ⟨hchan, hgangs, -⟩ := loseSlave_does (enlisted g s) m g
    rw [(enlisted_keeps g s).1] at hgangs
    refine ⟨?_, fun d hd => ?_, ?_, fun k hk => ?_, (aside_loseSlave ..).trans (enlisted_aside g s)⟩
    · simp only [List.mem_singleton, forall_eq, hchan, if_true]
      exact ⟨fun r hr' => (nomatch hr.symm.trans hr'), fun _ => ⟨rfl, rfl⟩⟩
    · have hne : d ≠ g.ch := (hd g (List.mem_singleton_self g)).symm
      rw [hchan, if_neg hne, enlisted_chan, if_neg hne]
    · simp only [hgangs, Quad.get_set, if_true, List.all_cons, List.all_nil, Bool.and_true, hr, Option.isSome_none,
        Bool.or_false]
    · rw [hgangs, Quad.get_set, if_neg hk]
  | some r =>
    have halone := sendLookups_alone g.ch g.feed (selectionFrames ((s.chan g.ch).joined (s.chan m) g w r false))
      ((enlisted g s).setChan g.ch ((s.chan g.ch).joined (s.chan m) g w r false))
    rw [joinGang_placed hm hw hg hr]
    have hgangs := halone.gangs.trans (enlisted_keeps g s).1
    refine ⟨?_, fun d hd => ?_, ?_, fun k _ => congrArg (Quad.get · k) hgangs, halone.aside.trans (enlisted_aside g s)⟩
    · simp only [List.mem_singleton, forall_eq]
      refine ⟨fun r' hr' => ?_, fun hr' => nomatch hr.symm.trans hr'⟩
      obtain rfl := Option.some.inj (hr.symm.trans hr')
      exact sendLookups_joined _ ((State.chan_setChan ..).trans (if_pos rfl))
    · have hne : d ≠ g.ch := (hd g (List.mem_singleton_self g)).symm
      rw [halone.other d hne, State.chan_setChan, if_neg hne, enlisted_chan, if_neg hne]
    · simp only [hgangs, List.all_cons, List.all_nil, hr, Option.isSome_some, Bool.or_true, Bool.and_true,
        List.filter_true]

/-! ## The named slaves in turn -/

theorem Joins.cons {l : List GangSlave} {u : State} (h : Joins m w [g] s t) (h' : Joins m w l t u) (hm : g.ch ≠ m)
    (hg : ∀ g' ∈ l, g'.ch ≠ g.ch) : Joins m w (g :: l) s u := by
  have hfeed := feed_of_aside h.aside
  have hother : ∀ d, d ≠ g.ch → t.chan d = s.chan d := fun d hd => h.others d (by simpa using hd.symm)
  refine ⟨List.forall_mem_cons.2 ⟨?_, fun g' hg' => ?_⟩, fun d hd => ?_, ?_,
    fun k hk => (h'.gangs k hk).trans (h.gangs k hk), h'.aside.trans h.aside⟩
  · rw [h'.others g.ch hg]
    exact h.slaves g (List.mem_singleton_self g)
  · have hjoined := h'.slaves g' hg'
    rw [hother m hm.symm] at hjoined
    exact hjoined.congr (hfeed _) (hother _ (hg g' hg'))
  · obtain ⟨hd0, hdl⟩ := List.forall_mem_cons.1 hd
    exact (h'.others d hdl).trans (hother d hd0.symm)
  · rw [h'.record, h.record, List.filter_filter]
    refine List.filter_congr fun x _ => ?_
    simp only [List.all_cons, List.all_nil, Bool.and_true, hfeed]
    exact Bool.and_comm ..

/-- Slaves of one record, in no other gang and apart from each other and from their master, join in turn. -/
theorem joinGang_foldl_joins {l : List GangSlave} (hn : (m :: l.map (·.ch)).Nodup)
    (hw : (s.chan m).window = some w) (hl : ∀ g ∈ l, g ∈ s.gangs.get m)
    (hown : ∀ k, k ≠ m → ∀ h ∈ s.gangs.get k, ∀ g ∈ l, h.ch ≠ g.ch) :
    Joins m w l s (l.foldl (fun acc g => joinGang m g acc) s) := by
  induction l generalizing s with
  | nil => exact ⟨by simp, fun _ _ => rfl, by simp, fun _ _ => rfl, rfl⟩
  | cons g l ih =>
    simp only [List.map_cons, List.nodup_cons, List.mem_cons, not_or] at hn
    obtain ⟨⟨hmg, hml⟩, hgl, hnl⟩ := hn
    have hne : ∀ g' ∈ l, g'.ch ≠ g.ch := fun g' hg' he => hgl (List.mem_map.2 ⟨g', hg', he⟩)
    obtain ⟨hg, hl'⟩ := List.forall_mem_cons.1 hl
    have hone : Joins m w [g] s (joinGang m g s) :=
      joinGang_joins (Ne.symm hmg) hw hg fun k hk h hh => hown k hk h hh g List.mem_cons_self
    refine hone.cons (ih (List.nodup_cons.2 ⟨hml, hnl⟩) ?_ (fun g' hg' => ?_) fun k hk h hh g' hg' => ?_)
      (Ne.symm hmg) hne
    · rw [hone.others m (by simpa using Ne.symm hmg), hw]
    · rw [hone.record]
      exact List.mem_filter.2 ⟨hl' g' hg', by simp [hne g' hg']⟩
    · rw [hone.gangs k hk] at hh
      exact hown k hk h hh g' (List.mem_cons_of_mem g hg')

/-- The new gang of a master: its record keeps the slaves whose feeds have a playable range (R107). -/
theorem joined_joins {gs : List GangSlave} (hn : (m :: gs.map (·.ch)).Nodup) (hw : (s.chan m).window = some w)
    (hfree : ∀ g ∈ gs, isGanged s g.ch = false) :
    Joins m w gs { s with gangs := s.gangs.set m gs } (joined m gs s) ∧
      (joined m gs s).gangs.get m = gs.filter fun g => (s.feed g.feed).range.isSome := by
  have hrecord : (s.gangs.set m gs).get m = gs := (Quad.get_set ..).trans (if_pos rfl)
  have hjoins : Joins m w gs { s with gangs := s.gangs.set m gs } (joined m gs s) := by
    refine joinGang_foldl_joins hn hw (fun g hg => hrecord.symm ▸ hg) fun k hk h hh g hg he => ?_
    have hh' : h ∈ s.gangs.get k := by
      rwa [Quad.get_set, if_neg hk] at hh
    have hnamed : (masterOf s g.ch).isSome = true := (masterOf_isSome_iff s _).2 ⟨k, h, hh', he⟩
    have hganged := (isGanged_iff s g.ch).2 (.inl hnamed)
    rw [hfree g hg] at hganged
    cases hganged
  refine ⟨hjoins, hjoins.record.trans ?_⟩
  show ((s.gangs.set m gs).get m).filter _ = _
  rw [hrecord]
  refine List.filter_congr fun h hh => Bool.eq_iff_iff.2 ?_
  simp only [List.all_eq_true, Bool.or_eq_true, bne_iff_ne]
  refine ⟨fun hall => (hall h hh).resolve_left fun hne => hne rfl, fun hsome g hg => ?_⟩
  by_cases he : h.ch = g.ch
  · obtain rfl := List.inj_on_of_nodup_map (List.nodup_cons.1 hn).2 hh hg he
    exact .inr hsome
  · exact .inl he

/-! ## The command -/

/-- The bytes that name the slave `g` in a GANG. -/
def gangEntry (g : GangSlave) : Byte × Byte × Int := (byteOf g.ch.val, byteOf g.feed.val, g.offset)

/-- The slave with its offset clamped (R106). -/
def clampedSlave (g : GangSlave) : GangSlave := { g with offset := max (-65536) (min g.offset 65535) }

theorem slaveList?_entries (named : List GangSlave) :
    slaveList? ((named.map gangEntry).map slaveNumbers) = some (named.map clampedSlave) := by
  unfold slaveList?
  rw [List.mapM_map, List.mapM_map]
  refine mapM_eq_some fun g _ => ?_
  have hfeed : (byteOf g.feed.val).toNat = g.feed.val := byteOf_toNat_of_lt (by omega)
  simp only [Function.comp, slaveNumbers, gangEntry, chanByte_toNat, hfeed, chanOf?_val, feedOf?_val, Option.map_some,
    Option.bind_some, clampOffset, clampInt, min_comm, clampedSlave]

/-- GANG of channels in no gang, with a master that has material, is taken (R106, R107). -/
theorem cmdGang_joins {named : List GangSlave} (he : s.engaged = .engaged) (hnil : named ≠ []) (hfew : named.length ≤ 3)
    (hn : (m :: named.map (·.ch)).Nodup) (hm : isGanged s m = false) (hfree : ∀ g ∈ named, isGanged s g.ch = false)
    (hi : (s.chan m).state ≠ .idle) :
    cmdGang (byteOf m.val).toNat ((named.map gangEntry).map slaveNumbers) s =
      let gs := named.map clampedSlave
      ⟨joined m gs s, takenAs (named.any fun g => decide (g.offset < -65536 ∨ 65535 < g.offset)),
        gangReply (joined m gs s) gs⟩ := by
  have hlist : ¬ (named.map clampedSlave = [] ∨ 3 < (named.map clampedSlave).length) := by
    rw [List.map_eq_nil_iff, List.length_map]
    exact not_or.2 ⟨hnil, Nat.not_lt.2 hfew⟩
  have hchans : (named.map clampedSlave).map (·.ch) = named.map (·.ch) := by
    rw [List.map_map]
    rfl
  have hslaves : ¬ (named.map clampedSlave).any (fun g => isGanged s g.ch) = true := by
    simpa [clampedSlave] using hfree
  have hclamped : (((named.map gangEntry).map slaveNumbers).any fun a => clampOffset a.2.2 != a.2.2) =
      named.any fun g => decide (g.offset < -65536 ∨ 65535 < g.offset) := by
    rw [List.any_map, List.any_map]
    exact congrArg named.any (funext fun g => clampInt_ne_iff (by decide) g.offset)
  rw [cmdGang_eq ((congrArg chanOf? (chanByte_toNat m)).trans (chanOf?_val m)) (slaveList?_entries named), if_neg hlist,
    if_neg (not_not.2 (hchans ▸ hn)), if_neg (by simp [he]), if_neg (by simp [hm]), if_neg hslaves, if_neg hi, hclamped]
  rfl

/-- Settles O24: the checks in their order, and past them the slaves that join one after the other. -/
theorem gangPlacesItsSlaves : Obligations.GangPlacesItsSlaves := by
  refine ⟨fun s tag n l st hr hlen hfits => ?_, ?_⟩
  · intro outside ganged h
    refine exec_gang hr tag n hlen hfits ?_
    rcases h with ⟨hout, rfl⟩ | ⟨hin, he, rfl⟩ | ⟨hin, he, hganged, rfl⟩ | ⟨hin, he, hfree, rfl, m, hm, hi⟩
    · exact cmdGang_outside hout
    · exact (cmdGang_inside hin).trans (if_pos he)
    · rw [cmdGang_inside hin, if_neg (by simp [he])]
      exact if_pos ((gangNamesGanged_iff hin).1 hganged)
    · have hmaster : Fin.ofNat 4 n.toNat = m := Fin.ext ((chanNumber_val fun hn => hin (.inl hn)).trans hm.symm)
      rw [cmdGang_inside hin, if_neg (by simp [he]), if_neg fun hg => hfree ((gangNamesGanged_iff hin).2 hg), hmaster]
      exact if_pos hi
  · intro s tag m named w hr he hnil hfew hn hm hfree hi hw hfits gs
    have hn' : (m :: gs.map (·.ch)).Nodup := by
      rw [List.map_map]
      exact hn
    obtain ⟨hjoins, hrecord⟩ := joined_joins (gs := gs) hn' hw (List.forall_mem_map.2 hfree)
    obtain ⟨hslaves, hothers, -, hgangs, haside⟩ := hjoins
    obtain ⟨hfeeds, hlists, hpanel, harbiter⟩ := State.aside_eq_iff.1 haside
    have hexec := exec_gang hr tag (byteOf m.val) (by rw [List.length_map]; omega) (List.forall_mem_map.2 hfits)
      (cmdGang_joins he hnil hfew hn hm hfree hi)
    rw [List.length_map, List.flatMap_map] at hexec
    refine ⟨joined m gs s, hexec, hrecord, fun k hk => ?_,
      hothers m fun g hg he => (List.nodup_cons.1 hn').1 (List.mem_map.2 ⟨g, hg, he⟩), hfeeds, hlists, hpanel,
      harbiter, fun g hg => ⟨fun r hr => ?_, (hslaves g hg).lost⟩⟩
    · exact (hgangs k hk).trans ((Quad.get_set ..).trans (if_neg hk))
    · obtain ⟨bad, hplaced⟩ := (hslaves g hg).placed r hr
      rw [hplaced]
      exact ⟨rfl, rfl, rfl, rfl, rfl, rfl, rfl, rfl, rfl, rfl, rfl, rfl, rfl, rfl, rfl⟩

end Sys2Proof.Machine
end

section
/-!
PROOFS. The cue list commands: LIST_APPEND and LIST_INSERT (R119 to R121, O36), LIST_REMOVE and LIST_CLEAR (R119, R122,
R123, O37).
-/

-- Proofs checked in turn: side by side they need more threads than the memory limit of check.sh has room for.
set_option Elab.async false

namespace Sys2Proof.Machine

variable {s t : State} {st : Status} {result : List Byte} {ch : ChanId} {pos id : Nat} {speed : Option Int}

/-! ## The bodies of the list commands (R200, R201) -/

theorem takeOpt_packS_end {w : Nat} {v : Option Int} (h : ∀ x, v = some x → fitsS w x) :
    takeOpt (takeS w) (packS w v) = some (v, []) := by
  simpa using takeOpt_packS h []

section Body

variable (hid : id < 65536) (hv : ∀ v, speed = some v → fitsS 4 v)

include hid hv

theorem parseListAppend_body (n : Byte) :
    parseListAppend (n :: (leBytes 2 id ++ packS 4 speed)) = some (n.toNat, id, speed) := by
  simp only [parseListAppend, takeU_one, takeU_leBytes 2 id _ hid, takeOpt_packS_end hv, Option.bind_eq_bind,
    Option.bind_some, bodyEnd_nil]

theorem parseListInsert_body (n p : Byte) :
    parseListInsert (n :: p :: (leBytes 2 id ++ packS 4 speed)) = some (n.toNat, p.toNat, id, speed) := by
  simp only [parseListInsert, takeU_one, takeU_leBytes 2 id _ hid, takeOpt_packS_end hv, Option.bind_eq_bind,
    Option.bind_some, bodyEnd_nil]

theorem exec_listAppend (hr : s.ready) (tag n : Byte) (h : cmdListAppend n.toNat id speed s = ⟨t, st, result⟩) :
    exec (.listAppend tag (n :: (leBytes 2 id ++ packS 4 speed))) s = answers 29#8 tag t st result :=
  arrive_answers (act := fun a : Nat × Nat × Option Int => cmdListAppend a.1 a.2.1 a.2.2) hr ⟨29#8, tag, _⟩
    (parseListAppend_body hid hv n) h

theorem exec_listInsert (hr : s.ready) (tag n p : Byte)
    (h : cmdListInsert n.toNat p.toNat id speed s = ⟨t, st, result⟩) :
    exec (.listInsert tag (n :: p :: (leBytes 2 id ++ packS 4 speed))) s = answers 30#8 tag t st result :=
  arrive_answers (act := fun a : Nat × Nat × Nat × Option Int => cmdListInsert a.1 a.2.1 a.2.2.1 a.2.2.2) hr
    ⟨30#8, tag, _⟩ (parseListInsert_body hid hv n p) h

end Body

theorem parseListRemove_body (n p : Byte) : parseListRemove [n, p] = some (n.toNat, p.toNat) := by
  simp [parseListRemove]

theorem exec_listRemove (hr : s.ready) (tag n p : Byte) (h : cmdListRemove n.toNat p.toNat s = ⟨t, st, result⟩) :
    exec (.listRemove tag [n, p]) s = answers 31#8 tag t st result :=
  arrive_answers (act := fun a : Nat × Nat => cmdListRemove a.1 a.2) hr ⟨31#8, tag, _⟩ (parseListRemove_body n p) h

theorem exec_listClear (hr : s.ready) (tag n : Byte) (h : cmdListClear n.toNat s = ⟨t, st, result⟩) :
    exec (.listClear tag [n]) s = answers 32#8 tag t st result :=
  arrive_answers (act := cmdListClear) hr ⟨32#8, tag, _⟩ (parseByte_one n) h

/-! ## A channel number above 3 (R119) -/

section Channel

variable {n : Nat} (h : 4 ≤ n)

include h

theorem cmdListAppend_number (id : Nat) (speed : Option Int) : cmdListAppend n id speed s = refuse s .badArgument := by
  simp only [cmdListAppend, chanOf?_none h]

theorem cmdListInsert_number (pos id : Nat) (speed : Option Int) :
    cmdListInsert n pos id speed s = refuse s .badArgument := by
  simp only [cmdListInsert, chanOf?_none h]

theorem cmdListRemove_number (pos : Nat) : cmdListRemove n pos s = refuse s .badArgument := by
  simp only [cmdListRemove, chanOf?_none h]

theorem cmdListClear_number : cmdListClear n s = refuse s .badArgument := by
  simp only [cmdListClear, chanOf?_none h]

end Channel

/-! ## LIST_APPEND and LIST_INSERT (R120, R121) -/

/-- LIST_APPEND is LIST_INSERT at the position that equals the count (R121). -/
theorem cmdListAppend_eq_insert (ch : ChanId) (id : Nat) (speed : Option Int) (s : State) :
    cmdListAppend ch.val id speed s = cmdListInsert ch.val (s.lists.get ch).length id speed s := by
  simp only [cmdListAppend, cmdListInsert, chanOf?_val, Nat.lt_irrefl, or_false]

theorem cmdListInsert_outside (speed : Option Int) (h : 1023 < id ∨ (s.lists.get ch).length < pos) :
    cmdListInsert ch.val pos id speed s = refuse s .badArgument := by
  simp only [cmdListInsert, chanOf?_val]
  exact if_pos h

section Inside

variable (hid : id ≤ 1023) (hpos : pos ≤ (s.lists.get ch).length)

include hid hpos

theorem insert_inside : ¬ (Config.clipRecords ≤ id ∨ (s.lists.get ch).length < pos) :=
  not_or.2 ⟨Nat.not_le_of_lt (Nat.lt_succ_of_le hid), Nat.not_lt.2 hpos⟩

theorem cmdListInsert_refuses (speed : Option Int) (hc : listCheck s ch id = some st) :
    cmdListInsert ch.val pos id speed s = refuse s st := by
  simp only [cmdListInsert, chanOf?_val, if_neg (insert_inside hid hpos), hc]

theorem cmdListInsert_accepts (speed : Option Int) (hc : listCheck s ch id = none) :
    cmdListInsert ch.val pos id speed s = insertEntry ch pos id speed s := by
  simp only [cmdListInsert, chanOf?_val, if_neg (insert_inside hid hpos), hc]

end Inside

theorem listCheck_full (id : Nat) (h : 16 ≤ (s.lists.get ch).length) : listCheck s ch id = some .listFull := if_pos h

section Room

variable (h : (s.lists.get ch).length < 16)

include h

theorem listCheck_notFound (hc : SMap.find s.clips id = none) : listCheck s ch id = some .notFound := by
  simp only [listCheck, Config.cueEntries, if_neg (Nat.not_le_of_lt h), hc]

theorem listCheck_found {c : Clip} (hc : SMap.find s.clips id = some c) :
    listCheck s ch id = if c.state = .expired then some .expired else none := by
  simp only [listCheck, Config.cueEntries, if_neg (Nat.not_le_of_lt h), hc]

end Room

theorem insertIdx_eq_take_drop {α : Type} {l : List α} {k : Nat} (h : k ≤ l.length) (a : α) :
    l.insertIdx k a = l.take k ++ a :: l.drop k := by
  induction k generalizing l with
  | zero => rfl
  | succ k ih =>
    cases l with
    | nil => simp at h
    | cons b l => simp [ih (Nat.le_of_succ_le_succ h)]

/-- The state in which a new entry stands at a position of the list of `ch`, and its clip is held once more. -/
def withEntry (ch : ChanId) (pos : Nat) (e : CueEntry) (s : State) : State :=
  { s with lists := s.lists.set ch ((s.lists.get ch).take pos ++ e :: (s.lists.get ch).drop pos)
           clips := SMap.adjust s.clips e.clip fun c => { c with useCount := c.useCount + 1 } }

theorem insertEntry_eq (hpos : pos ≤ (s.lists.get ch).length) (id : Nat) (speed : Option Int) :
    insertEntry ch pos id speed s = done (withEntry ch pos ⟨id, speed.map clampSpeed⟩ s)
      (speed.any fun v => decide (v < -32768 ∨ 32768 < v)) [byteOf pos, byteOf ((s.lists.get ch).length + 1)] := by
  have hclamped : (speed.any fun v => clampSpeed v != v) = speed.any fun v => decide (v < -32768 ∨ 32768 < v) :=
    congrArg speed.any (funext fun v => clampInt_ne_iff (by decide) v)
  rw [insertEntry, hclamped, List.length_insertIdx_of_le_length hpos, insertIdx_eq_take_drop hpos]
  rfl

/-- An override is clamped into the range of a speed (R120), as the claims write it. -/
theorem map_clampSpeed (speed : Option Int) :
    speed.map clampSpeed = speed.map fun v => max (-32768) (min v 32768) :=
  congrArg speed.map (funext fun v => (max_min_comm (-32768) 32768 v).symm)

/-- Settles O36: LIST_INSERT check by check, and LIST_APPEND as an insert at the end. -/
theorem listInsertPlacesTheEntry : Obligations.ListInsertPlacesTheEntry := by
  refine ⟨fun s tag n pos id speed hr _ hid hv hn => ⟨exec_listAppend hid hv hr tag n (cmdListAppend_number hn _ _),
    exec_listInsert hid hv hr tag n _ (cmdListInsert_number hn _ _ _)⟩, ?_⟩
  intro s tag ch pos id speed hr hbyte hid hv l insert append e st after
  have happend : ∀ {t st result}, cmdListInsert ch.val l.length id speed s = ⟨t, st, result⟩ →
      exec append s = answers 29#8 tag t st result := fun h =>
    exec_listAppend hid hv hr tag _ (by rw [chanByte_toNat, cmdListAppend_eq_insert]; exact h)
  have hinsert : ∀ {t st result}, cmdListInsert ch.val pos id speed s = ⟨t, st, result⟩ →
      exec insert s = answers 30#8 tag t st result := fun h =>
    exec_listInsert hid hv hr tag _ _ (by rw [chanByte_toNat, byteOf_toNat_of_lt hbyte]; exact h)
  refine ⟨fun hout => ⟨happend (cmdListInsert_outside speed (.inl hout)),
    hinsert (cmdListInsert_outside speed (.inl hout))⟩,
    fun hout => hinsert (cmdListInsert_outside speed (.inr hout)), fun hin hpos => ?_⟩
  have hrefused : ∀ {st}, listCheck s ch id = some st →
      exec append s = answers 29#8 tag s st [] ∧ exec insert s = answers 30#8 tag s st [] := fun hc =>
    ⟨happend (cmdListInsert_refuses hin le_rfl speed hc), hinsert (cmdListInsert_refuses hin hpos speed hc)⟩
  refine ⟨fun hfull => hrefused (listCheck_full id hfull),
    fun hroom hc => hrefused (listCheck_notFound hroom hc), fun c hroom hc =>
    ⟨fun he => hrefused ((listCheck_found hroom hc).trans (if_pos he)), fun he => ?_⟩⟩
  have hplaced : ∀ k ≤ l.length,
      cmdListInsert ch.val k id speed s = ⟨after k, st, [byteOf k, byteOf (l.length + 1)]⟩ := fun k hk => by
    rw [cmdListInsert_accepts hin hk speed ((listCheck_found hroom hc).trans (if_neg he)), insertEntry_eq hk,
      map_clampSpeed]
    cases speed <;> rfl
  exact ⟨happend (hplaced _ le_rfl), hinsert (hplaced pos hpos)⟩

/-! ## LIST_REMOVE (R122) -/

theorem cmdListRemove_outside (h : (s.lists.get ch).length ≤ pos) :
    cmdListRemove ch.val pos s = refuse s .badArgument := by
  simp only [cmdListRemove, chanOf?_val, List.getElem?_eq_none h]

theorem cmdListRemove_removes {before after : List CueEntry} {e : CueEntry}
    (h : s.lists.get ch = before ++ e :: after) : cmdListRemove ch.val before.length s =
      done (releaseClip e.clip (s.setList ch (before ++ after))) false
        (leBytes 2 e.clip ++ optInt 4 e.speed ++ leBytes 1 (before.length + after.length)) := by
  have hfront : (before ++ e :: after)[before.length]? = some e := by simp
  have hrest : (before ++ e :: after).eraseIdx before.length = before ++ after := by
    simp [List.eraseIdx_append_of_length_le le_rfl]
  simp only [cmdListRemove, chanOf?_val, h, hfront, hrest, List.length_append]

/-! ## LIST_CLEAR (R123) -/

/-- The releases of a list change the Clip Table alone. -/
theorem releaseEntries_frame (l : List CueEntry) (s : State) :
    releaseEntries l s = { s with clips := (releaseEntries l s).clips } := by
  induction l generalizing s with
  | nil => rfl
  | cons e l ih => exact ih (releaseClip e.clip s)

/-- Each clip's use count falls by the number of the list's entries that name it. -/
theorem find_releaseEntries (l : List CueEntry) (s : State) (id : Nat) :
    SMap.find (releaseEntries l s).clips id = (SMap.find s.clips id).map fun c =>
      { c with useCount := c.useCount - l.countP fun e => e.clip == id } := by
  induction l generalizing s with
  | nil => exact Option.map_id'.symm
  | cons e l ih =>
    have hstep : releaseEntries (e :: l) s = releaseEntries l (releaseClip e.clip s) := rfl
    rw [hstep, ih, releaseClip, SMap.find_adjust]
    by_cases h : e.clip = id
    · have hcount : (e :: l).countP (fun e => e.clip == id) = 1 + l.countP fun e => e.clip == id := by
        simp [h, Nat.add_comm]
      rw [if_pos h.symm, Option.map_map, hcount]
      simp only [Function.comp_def, Nat.sub_sub]
    · have hcount : (e :: l).countP (fun e => e.clip == id) = l.countP fun e => e.clip == id := by simp [h]
      rw [if_neg (Ne.symm h), hcount]

theorem cmdListClear_clears (ch : ChanId) (s : State) : cmdListClear ch.val s =
    done (releaseEntries (s.lists.get ch) (s.setList ch [])) false (leBytes 1 (s.lists.get ch).length) := by
  simp only [cmdListClear, chanOf?_val]

/-- Settles O37: LIST_REMOVE position by position, and LIST_CLEAR with one release for each entry. -/
theorem listRemoveAndClearTakeEntriesOut : Obligations.ListRemoveAndClearTakeEntriesOut := by
  refine ⟨fun s tag n p hr => ⟨fun hn => exec_listRemove hr tag n p (cmdListRemove_number hn _),
    fun ch hn => ⟨?_, ?_⟩⟩, fun s tag n hr => ⟨fun hn => exec_listClear hr tag n (cmdListClear_number hn),
    fun ch hn _ => ?_⟩⟩
  · exact fun hout => exec_listRemove hr tag n p (by rw [hn]; exact cmdListRemove_outside hout)
  · intro before e after hl hp
    refine exec_listRemove hr tag n p ?_
    rw [hn, ← hp, cmdListRemove_removes hl]
    obtain ⟨clip, _ | v⟩ := e <;> rfl
  · exact ⟨releaseEntries (s.lists.get ch) (s.setList ch []),
      exec_listClear hr tag n (by rw [hn]; exact cmdListClear_clears ch s),
      releaseEntries_frame _ _, find_releaseEntries _ _⟩

end Sys2Proof.Machine
end

section
/-!
PROOFS. The Store Arbiter's choice of a requester for a beat (R157 to R168, O48).
-/

-- Proofs checked in turn: side by side they need more threads than the memory limit of check.sh has room for.
set_option Elab.async false

namespace Sys2Proof.Machine

variable {s : State} {a x : Arbiter} {h ch d : ChanId} {f : FeedId}

/-! ## The tests of the requesters (R157, R158, R163, R165, R167) -/

theorem anyUrgent_iff : anyUrgent s = true ↔ ∃ f, feedUrgent s f = true := by
  simp [anyUrgent, mem_allFeeds]

namespace Arbiter

theorem eligible_iff : a.eligible s d = true ↔ chanRequests s d = true ∧ a.deferrals.get d = [] := by
  simp [eligible, deferred]

theorem any_eligible_iff : allChans.any (a.eligible s) = true ↔ ∃ d, a.eligible s d = true := by
  simp [mem_allChans]

theorem othersWait_iff :
    a.othersWait s = true ↔ (∃ f, feedRequests s f = true) ∨ ∃ d, a.eligible s d = true := by
  rw [othersWait, Bool.or_eq_true, any_eligible_iff]
  simp [mem_allFeeds]

theorem preempted_iff : a.preempted s h = true ↔
    (∃ f, feedUrgent s f = true) ∨ ∃ d, a.eligible s d = true ∧ chanLevel s d < chanLevel s h := by
  rw [preempted, Bool.or_eq_true, anyUrgent_iff]
  simp [mem_allChans]

theorem tied_iff : a.tied s ch = true ↔
    a.eligible s ch = true ∧ ∀ d, a.eligible s d = true → chanLevel s ch ≤ chanLevel s d := by
  simp [tied, mem_allChans, imp_iff_not_or]

/-- Among channel candidates one has the lowest level number (R163). -/
theorem exists_tied (he : ∃ d, a.eligible s d = true) : ∃ ch, a.tied s ch = true := by
  obtain ⟨d, hd⟩ := he
  obtain ⟨ch, hch, hleast⟩ := Finset.exists_min_image (Finset.univ.filter fun d => a.eligible s d = true)
    (chanLevel s) ⟨d, by simpa using hd⟩
  exact ⟨ch, tied_iff.2 ⟨by simpa using hch, fun d hd => hleast d (by simpa using hd)⟩⟩

/-! ## The grant, step by step (R160 to R164, R168) -/

/-- Step 1: an urgent feed is granted, the first from the urgent pointer. -/
theorem grant_urgent (hu : ∃ f, feedUrgent s f = true) : ∃ f, a.grant s = ({ a with urgentPtr := f + 1 }, .feed f) ∧
    feedUrgent s f = true ∧ ∀ k : Fin 8, k < f - a.urgentPtr → feedUrgent s (a.urgentPtr + k) = false := by
  obtain ⟨hnone, hsome⟩ := searchFeeds_spec a.urgentPtr (feedUrgent s)
  cases hf : searchFeeds a.urgentPtr (feedUrgent s) with
  | none =>
    obtain ⟨g, hg⟩ := hu
    exact absurd (hnone.1 hf g) (by simp [hg])
  | some f => exact ⟨f, by simp only [grant, hf], (hsome f).1 hf⟩

theorem grant_of_holder (hu : ∀ f, feedUrgent s f = false) (hh : a.holder = some h) :
    a.grant s = a.grantHolder s h := by
  simp only [grant, (searchFeeds_spec a.urgentPtr (feedUrgent s)).1.2 hu, hh]

theorem grant_of_free (hu : ∀ f, feedUrgent s f = false) (hh : a.holder = none) : a.grant s = a.grantFree s := by
  simp only [grant, (searchFeeds_spec a.urgentPtr (feedUrgent s)).1.2 hu, hh]

/-- The beat goes to the feeds: a gap beat is owed, or no channel is a candidate (R162). -/
def Gap (a : Arbiter) (s : State) : Prop := a.gapOwed = true ∨ ∀ d, a.eligible s d = false

theorem gap_iff : (a.gapOwed || !allChans.any (a.eligible s)) = true ↔ a.Gap s := by
  rw [Bool.or_eq_true, Bool.not_eq_true', ← Bool.not_eq_true, any_eligible_iff]
  simp [Gap]

/-- Step 3: a gap beat goes to the first requesting feed from the gap pointer. -/
theorem grantFree_feed (hg : a.Gap s) (hf : ∃ f, feedRequests s f = true) : ∃ f, feedRequests s f = true ∧
    (∀ k : Fin 8, k < f - a.gapPtr → feedRequests s (a.gapPtr + k) = false) ∧
    a.grantFree s = ({ a with gapPtr := f + 1, gapOwed := false }, .feed f) := by
  obtain ⟨hnone, hsome⟩ := searchFeeds_spec a.gapPtr (feedRequests s)
  cases hs : searchFeeds a.gapPtr (feedRequests s) with
  | none =>
    obtain ⟨g, hg⟩ := hf
    exact absurd (hnone.1 hs g) (by simp [hg])
  | some f =>
    obtain ⟨hreq, hfirst⟩ := (hsome f).1 hs
    exact ⟨f, hreq, hfirst, by simp only [grantFree, if_pos (gap_iff.2 hg), hs]⟩

/-- Step 4 follows with no gap beat owed: there was none, or no feed requests and it lapses. -/
theorem grantFree_chan (hc : ¬ a.Gap s ∨ ∀ f, feedRequests s f = false) :
    a.grantFree s = { a with gapOwed := false }.grantChannel s := by
  by_cases hg : a.Gap s
  · simp only [grantFree, if_pos (gap_iff.2 hg),
      (searchFeeds_spec a.gapPtr (feedRequests s)).1.2 (hc.resolve_left (not_not.2 hg))]
  · have howed : a.gapOwed = false := Bool.eq_false_iff.2 fun ho => hg (.inl ho)
    rw [grantFree, if_neg (mt gap_iff.1 hg), ← howed]

/-- The arbiter after the transfer of a channel that found no holder (R164, R166, R168). -/
def afterChannel (a : Arbiter) (s : State) (ch : ChanId) : Arbiter :=
  { a.served ch with
    chanPtr := ch + 1
    holder := if (s.chan ch).opts.burst = true then some ch else none
    idle := if (s.chan ch).opts.burst = true then 0 else a.idle
    gapOwed := !(s.chan ch).opts.burst }

theorem grantChannel_none (he : ∀ d, a.eligible s d = false) : a.grantChannel s = (a, .idle) := by
  have hnone : ∀ d, a.tied s d = false := fun d => by simp [tied, he d]
  simp only [grantChannel, (searchChans_spec a.chanPtr (a.tied s)).1.2 hnone]

/-- Step 4: the first of the tied candidates from the channel pointer. -/
theorem grantChannel_some (hh : a.holder = none) (hg : a.gapOwed = false) (he : ∃ d, a.eligible s d = true) :
    ∃ ch, a.tied s ch = true ∧ (∀ k : Fin 4, k < ch - a.chanPtr → a.tied s (a.chanPtr + k) = false) ∧
      a.grantChannel s = (a.afterChannel s ch, .chan ch) := by
  obtain ⟨hnone, hsome⟩ := searchChans_spec a.chanPtr (a.tied s)
  cases hs : searchChans a.chanPtr (a.tied s) with
  | none =>
    obtain ⟨c, hc⟩ := exists_tied he
    exact absurd (hnone.1 hs c) (by simp [hc])
  | some ch =>
    obtain ⟨htied, hfirst⟩ := (hsome ch).1 hs
    refine ⟨ch, htied, hfirst, ?_⟩
    simp only [grantChannel, hs, afterChannel]
    cases (s.chan ch).opts.burst <;> simp [served, hh, hg]

/-! ## The test of the holder (R164 to R167) -/

theorem test_free (hh : a.holder = none) : a.test s = a := by simp only [test, hh]

theorem test_preempts (hh : a.holder = some h) (hp : a.preempted s h = true) : a.test s = a.preempt s h := by
  simp only [test, hh, if_pos hp]

theorem test_keeps (hh : a.holder = some h) (hp : ¬ a.preempted s h = true) (hb : (s.chan h).opts.burst = true) :
    a.test s = a.idleTest s h := by
  simp only [test, hh, if_neg hp, if_pos hb]

theorem test_ends (hh : a.holder = some h) (hp : ¬ a.preempted s h = true) (hb : (s.chan h).opts.burst = false) :
    a.test s = a.endBurst := by
  simp only [test, hh, if_neg hp, hb, Bool.false_eq_true, if_false]

/-- A preemption ends the burst and writes no pointer. -/
theorem preempt_parts : (a.preempt s h).holder = none ∧ (a.preempt s h).gapOwed = true ∧
    (a.preempt s h).mode = a.mode ∧ (a.preempt s h).urgentPtr = a.urgentPtr ∧
    (a.preempt s h).gapPtr = a.gapPtr ∧ (a.preempt s h).chanPtr = a.chanPtr := by
  unfold preempt
  dsimp only
  split <;> exact ⟨rfl, rfl, rfl, rfl, rfl, rfl⟩

/-- The waiting set of a preempted channel holds requesting channels alone, so an update leaves it. -/
theorem preempt_update : (a.update s).preempt s h = (a.preempt s h).update s := by
  have hwaits : ∀ l : List ChanId, (l.filter fun k => k != h && chanRequests s k).filter (chanRequests s) =
      l.filter fun k => k != h && chanRequests s k := fun l => by
    rw [List.filter_filter]
    exact List.filter_congr fun k _ => by cases chanRequests s k <;> simp
  have hset : (a.deferrals.map fun l => l.filter (chanRequests s)).set h
        (allChans.filter fun k => k != h && chanRequests s k) =
      (a.deferrals.set h (allChans.filter fun k => k != h && chanRequests s k)).map
        fun l => l.filter (chanRequests s) :=
    Quad.ext_get fun d => by
      simp only [Quad.get_set, Quad.get_map]
      split
      · exact (hwaits _).symm
      · rfl
  unfold preempt
  dsimp only
  split
  · simp only [update, endBurst, hset]
  · rfl

end Arbiter

/-! ## The decision of a beat (R160) -/

theorem decideBeat_free (hh : s.arbiter.holder = none) : decideBeat s = (s.arbiter.update s).grant s := by
  rw [decideBeat, Arbiter.test_free (by exact hh)]

/-- What the requesters present, and how urgent, is read off the state without the arbiter's record but its mode. -/
theorem Arbiter.grant_withArbiter (hm : x.mode = s.arbiter.mode) : a.grant { s with arbiter := x } = a.grant s := by
  have hurgent : feedUrgent { s with arbiter := x } = feedUrgent s := funext fun f => by
    simp only [feedUrgent, hm]
    rfl
  unfold Arbiter.grant
  rw [hurgent]
  rfl

/-- A beat on which the burst ends is decided as with the arbiter that the end leaves. -/
theorem decideBeat_released (hx : x.holder = none) (hm : x.mode = s.arbiter.mode)
    (ht : (s.arbiter.update s).test s = x.update s) : decideBeat s = decideBeat { s with arbiter := x } := by
  rw [decideBeat_free (s := { s with arbiter := x }) hx, decideBeat, ht]
  exact (Arbiter.grant_withArbiter hm).symm

theorem update_test_preempted (hh : s.arbiter.holder = some h) (hp : (s.arbiter.update s).preempted s h = true) :
    (s.arbiter.update s).test s = (s.arbiter.preempt s h).update s :=
  (Arbiter.test_preempts (by exact hh) hp).trans Arbiter.preempt_update

/-- The beat of an urgent feed (R161). -/
theorem decideBeat_urgent (hu : ∃ f, feedUrgent s f = true) :
    ∃ f a, decideBeat s = (a, .feed f) ∧ feedUrgent s f = true ∧
      (∀ k : Fin 8, k < f - s.arbiter.urgentPtr → feedUrgent s (s.arbiter.urgentPtr + k) = false) ∧
      a.urgentPtr = f + 1 ∧ a.gapPtr = s.arbiter.gapPtr ∧ a.chanPtr = s.arbiter.chanPtr ∧ a.holder = none ∧
      (s.arbiter.holder ≠ none → a.gapOwed = true) ∧ (s.arbiter.holder = none → a.gapOwed = s.arbiter.gapOwed) := by
  cases hh : s.arbiter.holder with
  | none =>
    obtain ⟨f, hgrant, hf, hfirst⟩ := Arbiter.grant_urgent (a := s.arbiter.update s) hu
    exact ⟨f, _, (decideBeat_free hh).trans hgrant, hf, hfirst, rfl, rfl, rfl, hh, fun hn => absurd rfl hn,
      fun _ => rfl⟩
  | some h =>
    obtain ⟨hnone, howed, -, hurgent, hgap, hchan⟩ := Arbiter.preempt_parts (a := s.arbiter) (s := s) (h := h)
    obtain ⟨f, hgrant, hf, hfirst⟩ := Arbiter.grant_urgent (a := (s.arbiter.preempt s h).update s) hu
    have hdecide : decideBeat s = ((s.arbiter.preempt s h).update s).grant s := by
      rw [decideBeat, update_test_preempted hh (Arbiter.preempted_iff.2 (.inl hu))]
    refine ⟨f, _, hdecide.trans hgrant, hf, ?_, rfl, hgap, hchan, hnone, fun _ => howed, fun hn => by cases hn⟩
    rw [← hurgent]
    exact hfirst

/-- The beat of a channel that finds no holder (R163, R164, R168). -/
theorem decideBeat_channel (hh : s.arbiter.holder = none) (hd : decideBeat s = (a, .chan ch)) :
    (∀ f, feedUrgent s f = false) ∧ (s.arbiter.update s).tied s ch = true ∧
      a = { s.arbiter.update s with gapOwed := false }.afterChannel s ch := by
  have hquiet : ∀ f, feedUrgent s f = false := fun f => Bool.eq_false_iff.2 fun hf => by
    obtain ⟨g, b, hb, -⟩ := decideBeat_urgent ⟨f, hf⟩
    exact absurd (hb.symm.trans hd) (by simp)
  rw [decideBeat_free hh, Arbiter.grant_of_free hquiet (by exact hh)] at hd
  have hfeeds : ¬ (s.arbiter.update s).Gap s ∨ ∀ f, feedRequests s f = false := by
    by_contra hno
    obtain ⟨hg, hf⟩ := not_or.1 hno
    obtain ⟨f, -, -, hgrant⟩ := Arbiter.grantFree_feed (not_not.1 hg) (by simpa using hf)
    exact absurd (hgrant.symm.trans hd) (by simp)
  rw [Arbiter.grantFree_chan hfeeds] at hd
  by_cases he : ∃ d, (s.arbiter.update s).eligible s d = true
  · obtain ⟨c, htied, -, hgrant⟩ :=
      Arbiter.grantChannel_some (a := { s.arbiter.update s with gapOwed := false }) hh rfl he
    obtain ⟨ha, hc⟩ := Prod.mk.inj (hgrant.symm.trans hd)
    cases hc
    exact ⟨hquiet, htied, ha.symm⟩
  · have hnone := Arbiter.grantChannel_none (a := { s.arbiter.update s with gapOwed := false }) (s := s)
      fun d => Bool.eq_false_iff.2 fun hd => he ⟨d, hd⟩
    exact absurd (hnone.symm.trans hd) (by simp)

/-- The beat of a holder that the test leaves (R160, R164). -/
theorem decideBeat_kept (hp : ¬ (s.arbiter.update s).preempted s h = true)
    (ht : (s.arbiter.update s).test s = a) (ha : a.holder = some h) : decideBeat s = a.grantHolder s h := by
  have hquiet : ∀ f, feedUrgent s f = false := fun f => Bool.eq_false_iff.2 fun hf =>
    hp (Arbiter.preempted_iff.2 (.inl ⟨f, hf⟩))
  rw [decideBeat, ht]
  exact Arbiter.grant_of_holder hquiet ha

/-- Settles O48: the urgent beat; the channel of a beat without a holder; the deferrals; the beat of a holder by the
branches of the test; the beat without a holder; what a channel presents. -/
theorem beatServesUrgentIngestThenTheLeastLevel : Obligations.BeatServesUrgentIngestThenTheLeastLevel := by
  refine ⟨fun s hu => decideBeat_urgent hu, ?_, ?_, ?_, ?_, ?_⟩
  · intro s a ch hh hd b
    obtain ⟨hquiet, htied, rfl⟩ := decideBeat_channel hh hd
    obtain ⟨he, hleast⟩ := Arbiter.tied_iff.1 htied
    exact ⟨hquiet, he, hleast, rfl, fun hb => ⟨if_pos hb, if_pos hb⟩,
      fun hb => ⟨if_neg (by simp [hb]), by simp [Arbiter.afterChannel, hb]⟩⟩
  · exact fun s d => ⟨Quad.get_map .., Arbiter.eligible_iff⟩
  · intro s h hh b ended waiting lost beaten others
    have hbeaten : b.preempted s h = true ↔ beaten := Arbiter.preempted_iff
    have hothers : b.othersWait s = true ↔ others := Arbiter.othersWait_iff
    have hended : b.test s = ended.update s → decideBeat s = decideBeat { s with arbiter := ended } :=
      decideBeat_released rfl rfl
    refine ⟨fun hb => ?_, fun hb hburst => ?_, fun hb hburst hreq => ?_, fun hb hburst hreq => ?_⟩
    · obtain ⟨hnone, -, hmode, -⟩ := Arbiter.preempt_parts (a := s.arbiter) (s := s) (h := h)
      exact decideBeat_released hnone hmode (update_test_preempted hh (hbeaten.2 hb))
    · exact hended (Arbiter.test_ends hh (mt hbeaten.1 hb) hburst)
    · have hp := mt hbeaten.1 hb
      have htest : b.test s = { b with idle := 0 } := (Arbiter.test_keeps (a := b) hh hp hburst).trans (if_pos hreq)
      exact (decideBeat_kept hp htest hh).trans (if_pos hreq)
    · have hp := mt hbeaten.1 hb
      have hidle : ¬ chanRequests s h = true := by simp [hreq]
      have htest : b.test s = if b.othersWait s then
          if Config.burstIdle ≤ b.idle + 1 then b.endBurst else { b with idle := b.idle + 1 }
          else { b with idle := 0 } := (Arbiter.test_keeps (a := b) hh hp hburst).trans (if_neg hidle)
      have hkept : ∀ n, b.test s = { b with idle := n } → decideBeat s = ({ b with idle := n }, .idle) := fun n ht =>
        (decideBeat_kept hp ht hh).trans (if_neg hidle)
      refine ⟨fun ho hn => hended ?_, fun ho hn => hkept _ ?_, fun ho => hkept _ ?_⟩
      · rw [htest, if_pos (hothers.2 ho)]
        exact if_pos (Nat.succ_le_succ hn)
      · rw [htest, if_pos (hothers.2 ho)]
        exact if_neg (Nat.not_le_of_lt (Nat.succ_lt_succ hn))
      · rw [htest, if_neg (mt hothers.1 ho)]
  · intro s hh hquiet b gap
    have hgrant : decideBeat s = b.grantFree s := (decideBeat_free hh).trans (Arbiter.grant_of_free hquiet hh)
    rw [hgrant]
    refine ⟨Arbiter.grantFree_feed (a := b), fun hf he => ?_, fun hc he => ?_⟩
    · rw [Arbiter.grantFree_chan (.inr hf)]
      exact Arbiter.grantChannel_none he
    · obtain ⟨ch, htied, hfirst, hchan⟩ :=
        Arbiter.grantChannel_some (a := { b with gapOwed := false }) hh rfl he
      obtain ⟨hch, hleast⟩ := Arbiter.tied_iff.1 htied
      refine ⟨ch, hch, hleast, fun k hk ⟨hke, hlevel⟩ => ?_, (Arbiter.grantFree_chan (a := b) hc).trans hchan⟩
      have htied' := Arbiter.tied_iff (a := { b with gapOwed := false }).2 ⟨hke, fun d hd => hlevel ▸ hleast d hd⟩
      exact absurd ((hfirst k hk).symm.trans htied') (by decide)
  · intro s ch
    obtain ⟨hnone, hsome⟩ := presentedFill_spec s ch
    refine ⟨fun hp => ⟨hnone hp, by simp only [chanLevel, hp]⟩, fun k z hp => ?_, fillLevel_spec s⟩
    obtain ⟨hmem, howner, hfirst⟩ := hsome k z hp
    exact ⟨hmem, howner, by simp only [chanLevel, hp], hfirst⟩

end Sys2Proof.Machine
end

section
/-!
PROOFS. The store error latch (R151, R152, O35), the beat of a fill (R140 to R144, O45), and the overwrite notices at the
Frame Cache (R147, O43).
-/

-- Proofs checked in turn: side by side they need more threads than the memory limit of check.sh has room for.
set_option Elab.async false

namespace Sys2Proof.Machine

variable {s t : State} {c : Cache} {f : FeedId} {n k : Nat} {z : Fill} {x : Slot} {d : Fragment}

/-! ## READ_ERROR and CLEAR_ERROR (R152) -/

/-- The record of an error, field by field (R202). -/
theorem errorBytes_some (e : ErrorRecord) : errorBytes (some e) =
    1#8 :: (leBytes 1 e.feed.val ++ leBytes 4 e.frame ++
      (match e.index with | none => [0#8, 0#8] | some k => 1#8 :: leBytes 1 k) ++
      [byteOf (if e.cause = .store then 0 else 1), boolByte e.more]) := by
  obtain ⟨feed, frame, index, cause, more⟩ := e
  cases index <;> cases cause <;> rfl

/-- Settles O35: the bytes of the latch as they stood, and the latch kept or emptied. -/
theorem errorLatchIsReadAndCleared : Obligations.ErrorLatchIsReadAndCleared := by
  intro s tag hr record
  have hbytes : errorBytes s.cache.errorLatch = record := by
    simp only [record]
    cases s.cache.errorLatch with
    | none => rfl
    | some e => exact errorBytes_some e
  rw [← hbytes]
  exact ⟨arrive_answers (act := fun _ : Unit => cmdReadError) hr ⟨38#8, tag, []⟩ rfl rfl,
    arrive_answers (act := fun _ : Unit => cmdClearError) hr ⟨39#8, tag, []⟩ rfl rfl⟩

/-! ## An error enters the latch (R151) -/

/-- Entering an error touches the cache at its latch alone. -/
theorem enterError_cache (f : FeedId) (n : Nat) (i : Option Nat) (why : StoreErrorCause) (t : State) :
    (enterError f n i why t).cache =
      { t.cache with errorLatch := (enterError f n i why t).cache.errorLatch } := by
  unfold enterError
  split <;> rfl

theorem enterError_port (f : FeedId) (n : Nat) (i : Option Nat) (why : StoreErrorCause) (t : State) :
    (enterError f n i why t).storePort = t.storePort ∧ (enterError f n i why t).arbiter = t.arbiter := by
  unfold enterError
  split <;> exact ⟨rfl, rfl⟩

/-- The first error is kept and raised; a later one sets MORE and raises nothing. -/
theorem enterError_enters (hcells : t.cells = s.cells) (hlink : t.link = s.link)
    (hlatch : t.cache.errorLatch = s.cache.errorLatch) (f : FeedId) (n : Nat) (i : Option Nat) (why : StoreErrorCause) :
    (s.cache.errorLatch = none → (enterError f n i why t).cache.errorLatch = some ⟨f, n, i, why, false⟩ ∧
      (enterError f n i why t).cells = (raise 0 (.storeError f n i why) s).cells ∧
      (enterError f n i why t).link = (raise 0 (.storeError f n i why) s).link) ∧
    (∀ e, s.cache.errorLatch = some e → (enterError f n i why t).cache.errorLatch = some { e with more := true } ∧
      (enterError f n i why t).cells = s.cells ∧ (enterError f n i why t).link = s.link) := by
  refine ⟨fun h => ?_, fun e h => ?_⟩
  · simp only [enterError, hlatch, h]
    obtain ⟨hc, hl⟩ := raise_congr (s := s) (t := { t with cache := { t.cache with
      errorLatch := some ⟨f, n, i, why, false⟩ } }) hcells hlink 0 (.storeError f n i why)
    exact ⟨rfl, hc, hl⟩
  · simp only [enterError, hlatch, h]
    exact ⟨trivial, hcells, hlink⟩

/-! ## The end of a fill (R142, R143) -/

theorem Cache.complete_slots (c : Cache) (k : Nat) (z : Fill) (x : Slot) :
    SMap.find (c.complete k z x).slots z.slot = some { x with state := .valid, context := none, victim := none } :=
  (SMap.find_put ..).trans (if_pos rfl)

theorem Cache.complete_context (h : SMap.wf c.fills = true) (k : Nat) (z : Fill) (x : Slot) :
    SMap.find (c.complete k z x).fills k = none :=
  (Cache.freeContext_find _ _ _ (by exact h) k).trans (if_pos rfl)

theorem Cache.mismatch_slots (h : SMap.wf c.slots = true) (k : Nat) (z : Fill) (x : Slot) :
    SMap.find (c.mismatch k z x).slots z.slot = none := (SMap.find_del h ..).trans (if_pos rfl)

theorem Cache.mismatch_context (h : SMap.wf c.fills = true) (k : Nat) (z : Fill) (x : Slot) :
    SMap.find (c.mismatch k z x).fills k = none :=
  (Cache.freeContext_find _ _ _ (by exact h) k).trans (if_pos rfl)

/-! ## The beat of a fill (R140, R141) -/

/-- A fill whose presented fragment has been accepted (R140). -/
def Fill.accepting (z : Fill) (d : Fragment) : Fill :=
  { z with running := crc32Feed z.running d, retried := false, next := z.next + 1 }

/-- A slot that has stored a fragment, its victim dropped (R140). -/
def Slot.accepting (x : Slot) (d : Fragment) : Slot := { x with data := x.data ++ [d], victim := none }

/-- The cache after the fill in context `k` has accepted a fragment (R140). -/
def Cache.accepting (c : Cache) (k : Nat) (z : Fill) (x : Slot) (d : Fragment) : Cache :=
  { c with slots := SMap.put c.slots z.slot (x.accepting d), fills := SMap.put c.fills k (z.accepting d) }

theorem fillAccept_goes (h : z.next + 1 ≠ z.count) (t : State) :
    fillAccept k z x d t = { t with cache := t.cache.accepting k z x d } := if_neg h

theorem fillAccept_completes (h : z.next + 1 = z.count) (hcrc : crc32Final (z.accepting d).running = z.crc)
    (t : State) : fillAccept k z x d t =
      { t with cache := (t.cache.accepting k z x d).complete k (z.accepting d) (x.accepting d) } :=
  (if_pos h).trans (if_pos hcrc)

theorem fillAccept_mismatches (h : z.next + 1 = z.count) (hcrc : crc32Final (z.accepting d).running ≠ z.crc)
    (t : State) : fillAccept k z x d t = enterError x.feed x.frame none .check
      { t with cache := (t.cache.accepting k z x d).mismatch k (z.accepting d) (x.accepting d) } :=
  (if_pos h).trans (if_neg hcrc)

/-- A store error enters the latch, whatever becomes of its fill (R141). -/
theorem fillError_entered (k : Nat) (z : Fill) (x : Slot) (t : State) :
    let u := enterError x.feed x.frame (some z.next) .store t
    let v := fillError k z x t
    v.cache.errorLatch = u.cache.errorLatch ∧ v.cells = u.cells ∧ v.link = u.link ∧ v.storePort = t.storePort ∧
      v.arbiter = t.arbiter := by
  intro u v
  obtain ⟨hport, harb⟩ := enterError_port x.feed x.frame (some z.next) .store t
  simp only [v, fillError]
  split
  · exact ⟨rfl, rfl, rfl, hport, harb⟩
  · exact ⟨Cache.abort_errorLatch .., rfl, rfl, hport, harb⟩

/-- Fragment 0 is tried once more, and the fill keeps its slot and victim. -/
theorem fillError_retries (h : z.next = 0) (hr : z.retried = false) (t : State) :
    (fillError k z x t).cache.slots = t.cache.slots ∧
      SMap.find (fillError k z x t).cache.fills k = some { z with retried := true } ∧
      (fillError k z x t).cache.reports = t.cache.reports := by
  have hcache := enterError_cache x.feed x.frame (some z.next) .store t
  rw [show fillError k z x t = _ from if_pos ⟨h, hr⟩]
  exact ⟨(congrArg Cache.slots hcache :), (SMap.find_put ..).trans (if_pos rfl), (congrArg Cache.reports hcache :)⟩

/-- Any other store error aborts the fill. -/
theorem fillError_aborts (h : ¬ (z.next = 0 ∧ z.retried = false)) (hfills : SMap.wf t.cache.fills = true)
    (hslots : SMap.wf t.cache.slots = true) (hz : SMap.find t.cache.fills k = some z)
    (hx : SMap.find t.cache.slots z.slot = some x) :
    Aborted { t.cache with errorLatch := (fillError k z x t).cache.errorLatch } (fillError k z x t).cache k z x
      .store := by
  rw [show fillError k z x t = _ from if_neg h]
  dsimp only
  rw [Cache.abort_errorLatch, enterError_cache]
  exact Cache.abort_aborted _ k z x .store hfills hslots hz hx

/-- A beat that a channel is granted reads the fragment its fill presents, at base plus index (R140). -/
theorem exec_beat_fill {a : Arbiter} {ch : ChanId} (hd : decideBeat s = (a, .chan ch))
    (hp : presentedFill s ch = some (k, z)) (hz : SMap.find s.cache.fills k = some z)
    (hx : SMap.find s.cache.slots z.slot = some x) (r : StoreResult) (d : Fragment) :
    let t := { s with arbiter := a, storePort := .read z.owner (z.base + z.next) }
    exec (.beat r d) s = .next (match r with | .ok => fillAccept k z x d t | .store => fillError k z x t) := by
  have hp' : presentedFill { s with arbiter := a } ch = some (k, z) := hp
  refine congrArg Host.Outcome.next ?_
  cases r <;> simp only [beat, hd, moveFragment, hp', fillBeat, hz, hx]

/-- Settles O45: the fragment accepted (the fill goes on, completes, or fails its CRC), and the store error (entered,
then the retry or the abort). -/
theorem fillBeatTransfersOrFails : Obligations.FillBeatTransfersOrFails := by
  refine ⟨?_, ?_⟩
  · intro s d a ch k z x hd hp hz hx z' x'
    have hexec := exec_beat_fill hd hp hz hx .ok d
    refine ⟨fun hn => ?_, fun hn hcrc => ?_, fun hn hcrc => ?_⟩
    · exact hexec.trans (congrArg Host.Outcome.next (fillAccept_goes hn _))
    · refine ⟨_, hexec.trans (congrArg Host.Outcome.next (fillAccept_completes hn hcrc _)), rfl,
        Cache.complete_slots .., rfl, fun hwf => Cache.complete_context (SMap.wf_put hwf ..) .., rfl, fun w hw => ?_⟩
      exact Cache.report_get _ _ _ hw w
    · let c' := (s.cache.accepting k z x d).mismatch k (z.accepting d) (x.accepting d)
      let t : State := { s with arbiter := a, storePort := .read z.owner (z.base + z.next), cache := c' }
      have hcache : (enterError x.feed x.frame none .check t).cache =
          { c' with errorLatch := (enterError x.feed x.frame none .check t).cache.errorLatch } := enterError_cache ..
      obtain ⟨hfresh, hheld⟩ := enterError_enters (s := s) (t := t) rfl rfl rfl x.feed x.frame none .check
      refine ⟨_, hexec.trans (congrArg Host.Outcome.next (fillAccept_mismatches hn hcrc _)), fun hwf => ?_,
        fun hwf => ?_, ?_, hfresh, hheld, fun w hw => ?_⟩ <;> rw [hcache]
      · exact Cache.mismatch_slots (SMap.wf_put hwf ..) k (z.accepting d) (x.accepting d)
      · exact Cache.mismatch_context (SMap.wf_put hwf ..) k (z.accepting d) (x.accepting d)
      · rfl
      · exact Cache.report_get _ _ _ hw w
  · intro s d a ch k z x hd hp hz hx
    let t : State := { s with arbiter := a, storePort := .read z.owner (z.base + z.next) }
    obtain ⟨hlatch, hcells, hlink, hport, harb⟩ := fillError_entered k z x t
    obtain ⟨hfresh, hheld⟩ := enterError_enters (s := s) (t := t) rfl rfl rfl x.feed x.frame (some z.next) .store
    rw [← hlatch, ← hcells, ← hlink] at hfresh hheld
    refine ⟨fillError k z x t, exec_beat_fill hd hp hz hx .store d, hport, harb, hfresh, hheld,
      fun h0 hr => fillError_retries h0 hr t, fun h hfills hslots => ?_⟩
    have habort := fillError_aborts (t := t) h hfills hslots hz hx
    exact ⟨habort, habort.context, fun hv => (habort.emptied fun v h => by simp [hv] at h).1,
      fun w hw => habort.told hw w⟩

/-! ## Overwrite notices (R147) -/

/-- A FILLING slot 0 of the lost frame 60 names context 0, and the fill of that context names the VALID slot 1. -/
def strayFill : State :=
  { State.reset with
    cache := { Cache.reset with
      slots := [(0, ⟨.filling, 0, 60, 1, [], some 0, none⟩), (1, ⟨.valid, 0, 61, 1, [[]], none, none⟩)]
      lru := [1]
      fills := [(0, { slot := 1, owner := 0, waiters := [0], order := 0, age := 0, base := 120, count := 1,
                      crc := 0#32, next := 0, retried := false, running := crc32Start })] }
    feeds := Oct.all { Feed.reset with cacheNotices := [⟨60, 77⟩] } }

/-- The abort of the fill in the lost slot's context takes the other slot away. -/
theorem cacheNotice_strayFill : SMap.find (cacheNotice 0 strayFill).cache.slots 1 = none := by decide

/-- Refutes O43: of a FILLING slot with the lost frame the clause "every other slot stays" does not ask that the fill in
the slot's context is the slot's own (its clause on the abort does, by `z.slot = i`). In `strayFill` that fill names
another slot, and its abort empties that one. -/
theorem not_cacheTakesTheOverwriteNotice : ¬ Obligations.CacheTakesTheOverwriteNotice := by
  intro h
  obtain ⟨-, htaken⟩ := h strayFill 0
  obtain ⟨t, ht, -, -, -, -, -, -, hlost⟩ := htaken ⟨60, 77⟩ [] rfl
  obtain ⟨hothers, -⟩ := hlost 0 _ rfl (by decide) (by decide) rfl rfl
  have hstays := hothers 1 _ (by decide) rfl
  obtain rfl := Host.Outcome.next.inj ht
  exact absurd (hstays.symm.trans cacheNotice_strayFill) (Option.some_ne_none _)

end Sys2Proof.Machine
end

section
/-!
PROOFS. The push lines (R177, R178): a rise that is accepted, a rise that is not, and a fall (O56).
-/

-- Proofs checked in turn: side by side they need more threads than the memory limit of check.sh has room for.
set_option Elab.async false

namespace Sys2Proof.Machine

variable {s : State} {l : PushLine} {ch : ChanId}

/-! ## Rises (R177) -/

/-- The state after a rise of a push line, before any command of it: the line is high and has accepted a rise. -/
def State.raised (s : State) (l : PushLine) : State := { s with panel := s.panel.setLine l ⟨.high, true⟩ }

theorem pushEdge_high (h : (s.panel.line l).level = .high) : pushEdge l s = s := by
  simp only [pushEdge, h]

theorem pushEdge_unaccepted (h : (s.panel.line l).level = .low) (ha : (s.panel.line l).accepted = true) :
    pushEdge l s = s.raised l := by
  simp only [pushEdge, h, ha, if_true, State.raised]

theorem pushEdge_accepted (h : (s.panel.line l).level = .low) (ha : (s.panel.line l).accepted = false) :
    pushEdge l s = edgeAction l (s.raised l) := by
  simp only [pushEdge, h, ha, Bool.false_eq_true, if_false, State.raised]

/-! ## TAKE (R178) -/

theorem edgeAction_take_takeNext (h : s.panel.takeAction = .takeNext) :
    edgeAction .take s = (cmdTakeNext s.panel.bound.val s).state := by
  simp only [edgeAction, h]

theorem edgeAction_take_play (h : s.panel.takeAction = .play) :
    edgeAction .take s = (cmdPlay s.panel.bound.val none s).state := by
  simp only [edgeAction, h]

/-- PLAY without a speed runs the channel at the nominal speed of its material (R82). -/
theorem cmdPlay_plays (he : s.engaged = .engaged) (hi : (s.chan ch).state ≠ .idle)
    (hs : (s.chan ch).state ≠ .slave) :
    (cmdPlay ch.val none s).state =
      s.setChan ch { s.chan ch with target := nominalSpeed s (s.chan ch).material, state := .playing } :=
  congrArg CmdResult.state (withMaterial_acts ⟨rfl, he⟩ hs hi)

/-- Without engagement or material, and at a slave, a transport command is refused (R76) and changes nothing. -/
theorem withMaterial_refused_state {act : ChanId → CmdResult}
    (h : s.engaged = .disengaged ∨ (s.chan ch).state = .idle ∨ (s.chan ch).state = .slave) :
    (withMaterial ch.val s act).state = s := by
  cases he : s.engaged with
  | disengaged => exact congrArg CmdResult.state (withMaterial_refuses (.inr (.inl ⟨ch.isLt, he, rfl⟩)))
  | engaged =>
    rcases h with hd | hi | hs
    · exact absurd (he.symm.trans hd) (by decide)
    · exact congrArg CmdResult.state (withMaterial_idle ⟨rfl, he⟩ hi)
    · exact congrArg CmdResult.state (withMaterial_refuses (.inr (.inr (.inl ⟨ch, rfl, he, hs, rfl⟩))))

section Take

variable (h : s.panel.take.level = .low) (ha : s.panel.take.accepted = false)
include h ha

theorem pushEdge_take_takeNext (hact : s.panel.takeAction = .takeNext) :
    pushEdge .take s = (cmdTakeNext s.panel.bound.val (s.raised .take)).state :=
  (pushEdge_accepted (l := .take) h ha).trans (edgeAction_take_takeNext (s := s.raised .take) hact)

theorem pushEdge_take_play (hact : s.panel.takeAction = .play) :
    pushEdge .take s = (cmdPlay s.panel.bound.val none (s.raised .take)).state :=
  (pushEdge_accepted (l := .take) h ha).trans (edgeAction_take_play (s := s.raised .take) hact)

end Take

/-- Settles O56, line by line: a rise of a high line, an edge not accepted, an accepted one, and the falls. -/
theorem pushLinesActOnAcceptedEdges : Obligations.PushLinesActOnAcceptedEdges := by
  intro s
  have hrise : ∀ l {t}, pushEdge l s = t → Host.Outcome.next (pushEdge l s) = (.next t : Meaning) :=
    fun _ _ => congrArg Host.Outcome.next
  refine ⟨fun h => hrise .markin (pushEdge_high h),
    fun h => ⟨fun ha => hrise .markin (pushEdge_unaccepted h ha),
      fun ha => hrise .markin (pushEdge_accepted h ha)⟩,
    fun h => hrise .markout (pushEdge_high h),
    fun h => ⟨fun ha => hrise .markout (pushEdge_unaccepted h ha),
      fun ha => hrise .markout (pushEdge_accepted h ha)⟩,
    fun h => hrise .take (pushEdge_high h),
    fun h => ⟨fun ha => hrise .take (pushEdge_unaccepted h ha),
      fun ha hact => hrise .take (pushEdge_take_takeNext h ha hact),
      fun ha hact => ⟨fun he hi hs => ?_, fun hno => ?_⟩⟩,
    rfl, rfl, rfl⟩
  · have hplay := (pushEdge_take_play h ha hact).trans (cmdPlay_plays (s := s.raised .take) he hi hs)
    rw [nominalSpeed_eq] at hplay
    exact hrise .take hplay
  · exact hrise .take ((pushEdge_take_play h ha hact).trans (withMaterial_refused_state (s := s.raised .take) hno))

end Sys2Proof.Machine
end

section
/-!
PROOFS. SET_STORE (R181, O10).
-/

-- Proofs checked in turn: side by side they need more threads than the memory limit of check.sh has room for.
set_option Elab.async false

namespace Sys2Proof.Machine

variable {s : State} {size mode : Option Nat}

/-! ## Its body and its ingest mode (R200, R201) -/

theorem parseSetStore_body (hs : ∀ v, size = some v → v < 2 ^ 64) (hm : ∀ v, mode = some v → v < 256) :
    parseSetStore (packU 8 size ++ packU 1 mode) = some (size, mode) := by
  simp only [parseSetStore, takeOpt_packU (w := 8) hs, takeOpt_packU_end (w := 1) hm, Option.bind_eq_bind,
    Option.bind_some, bodyEnd_nil]

theorem ingestMode?_eq (n : Nat) : ingestMode? n = if 1 < n then none else
    some (if n = 1 then .claimed else .deferred) := by
  match n with
  | 0 => rfl
  | 1 => rfl
  | n + 2 => rw [if_pos (by omega)]; rfl

theorem exec_setStore {t : State} {st : Status} {result : List Byte} (hr : s.ready) (tag : Byte) {body : List Byte}
    (hb : parseSetStore body = some (size, mode)) (h : cmdSetStore size mode s = ⟨t, st, result⟩) :
    exec (.setStore tag body) s = answers 1#8 tag t st result :=
  arrive_answers (act := fun a : Option Nat × Option Nat => cmdSetStore a.1 a.2) hr ⟨1#8, tag, body⟩ hb h

/-! ## Its checks and what it writes (R181) -/

theorem cmdSetStore_badMode (h : ∃ v, mode = some v ∧ 1 < v) : cmdSetStore size mode s = refuse s .badArgument := by
  obtain ⟨v, rfl, hv⟩ := h
  simp only [cmdSetStore, optCode?, ingestMode?_eq, if_pos hv, Option.map_none]

section GoodMode

variable (hm : ∀ v, mode = some v → v ≤ 1)

include hm

theorem optCode?_ingestMode : optCode? ingestMode? mode =
    some (mode.map fun v => if v = 1 then .claimed else .deferred) := by
  cases mode with
  | none => rfl
  | some v => simp only [optCode?, ingestMode?_eq, if_neg (Nat.not_lt.2 (hm v rfl)), Option.map_some]

theorem cmdSetStore_engaged (he : s.engaged = .engaged) : cmdSetStore size mode s = refuse s .engaged := by
  simp only [cmdSetStore, optCode?_ingestMode hm, if_pos he]

theorem cmdSetStore_writes (he : s.engaged = .disengaged) {n : Nat} {m : IngestMode}
    (hn : (size.map (clampNat 1 4294967296)).getD s.storeSize = n)
    (hmode : (mode.map fun v => if v = 1 then .claimed else .deferred).getD s.arbiter.mode = m) :
    cmdSetStore size mode s = done { s with storeSize := n, arbiter := { s.arbiter with mode := m } }
      (size.any fun v => clampNat 1 4294967296 v != v) (leBytes 8 n ++ leBytes 1 m.code ++ leBytes 1 0) := by
  subst hn hmode
  simp only [cmdSetStore, optCode?_ingestMode hm, he, reduceCtorEq, if_false]
  rfl

end GoodMode

theorem any_clamped_eq {lo hi : Nat} (h : lo ≤ hi) (v : Option Nat) :
    (v.any fun n => clampNat lo hi n != n) = v.any fun n => n < lo || hi < n := by
  simp only [clampNat_ne_iff h, Bool.decide_or]

/-- Settles O10, by the checks in their order: the mode, the engagement state, then the write. -/
theorem setStoreWritesSizeAndMode : Obligations.SetStoreWritesSizeAndMode := by
  intro s tag size mode hr hs hm body n m
  have hbody : parseSetStore body = some (size, mode) := parseSetStore_body hs hm
  refine ⟨fun hbad => exec_setStore hr tag hbody (cmdSetStore_badMode hbad),
    fun hgood he => exec_setStore hr tag hbody (cmdSetStore_engaged hgood he), fun hgood he => ?_⟩
  have hn : (size.map (clampNat 1 4294967296)).getD s.storeSize = n := by
    cases size with
    | none => rfl
    | some v => exact clampNat_one 4294967296 v
  have hmode : (mode.map fun v => if v = 1 then .claimed else .deferred).getD s.arbiter.mode = m := by
    cases mode <;> rfl
  refine exec_setStore hr tag hbody ((cmdSetStore_writes hgood he hn hmode).trans ?_)
  rw [any_clamped_eq (by decide)]
  cases size <;> rfl

end Sys2Proof.Machine
end

section
/-!
PROOFS. The invariants of Safety.lean at reset (R187, O60): State.reset is what a hardware reset with the panel lines at
rest leaves, with no event pending.
-/

-- Proofs checked in turn: side by side they need more threads than the memory limit of check.sh has room for.
set_option Elab.async false

namespace Sys2Proof.Machine

theorem hardwareReset_reset : hardwareReset PanelLevels.atRest State.reset = State.reset := rfl

theorem bound_holds_reset (k : Bound) : k.holds State.reset :=
  (bounded_iff k _).1 (hardwareReset_reset ▸ Bounded.hardwareReset PanelLevels.atRest State.reset)

theorem useCountsRight_reset : UseCountsRight State.reset :=
  balanced_nil_iff.1 (hardwareReset_reset ▸ Balanced.hardwareReset PanelLevels.atRest State.reset)

theorem gangs_reset (m : ChanId) : State.reset.gangs.get m = [] := Quad.get_all _ m

theorem chan_reset (ch : ChanId) : State.reset.chan ch = Channel.reset := Quad.get_all _ ch

theorem masterOf_reset (ch : ChanId) : masterOf State.reset ch = none := by
  simp [masterOf, gangs_reset]

theorem gangsApart_reset : GangsApart State.reset := fun m => by
  rw [gangs_reset]
  exact List.nodup_singleton m

/-- With no gang and no channel in SLAVE the gangs are whole. -/
theorem gangsWhole_reset : GangsWhole State.reset where
  once := by simp [gangs_reset, allChans]
  apart m _ := masterOf_reset m
  slave ch := by simp [chan_reset, masterOf_reset, Channel.reset]
  onFeed m g hg := by simp [gangs_reset] at hg

/-- No slot stands in the Frame Cache at reset (R154). -/
theorem tagsDistinct_reset : TagsDistinct State.reset := fun _ ha => absurd ha List.not_mem_nil

/-- Settles O60: the bounds and the use counts are those a hardware reset leaves; gangs and tags hold because the reset
state has no gang and no slot. -/
theorem invariantsHoldAtReset : Obligations.InvariantsHoldAtReset :=
  ⟨bound_holds_reset .speeds, bound_holds_reset .jog, bound_holds_reset .lists, bound_holds_reset .input,
    bound_holds_reset .cells, bound_holds_reset .configs, bound_holds_reset .layout, bound_holds_reset .pins,
    bound_holds_reset .tables, gangsApart_reset, gangsWhole_reset, tagsDistinct_reset, useCountsRight_reset⟩

end Sys2Proof.Machine
end

section
/-!
PROOFS. The step (O1) and the decoder's taking of command frames (R190 to R192): offered, taken, kept waiting or lost
(O3), and refused with BAD_LENGTH or UNKNOWN_KIND (O4).
-/

-- Proofs checked in turn: side by side they need more threads than the memory limit of check.sh has room for.
set_option Elab.async false

namespace Sys2Proof.Machine

variable {s : State} {f : LinkFrame}

/-- Settles O1: the step's two branches, and one meaning for each command, every one a next state. -/
theorem stepRunsTheFrontCommand : Obligations.StepRunsTheFrontCommand := by
  refine ⟨fun c rest s => rfl, fun s h => ?_, fun c s => ?_⟩
  · simp only [step, h]
  · cases c <;> exact ⟨_, rfl⟩

/-! ## What leaves the replies on their way as they are (R191, R193) -/

theorem TxRecord.isReply_of_isNotice {r : TxRecord} {cls : NoticeClass} {u : Nat} (h : r.isNotice cls u = true) :
    r.isReply = false := by
  cases r with
  | reply => exact absurd h Bool.false_ne_true
  | notice => rfl

theorem joinNotice_any_isReply (cls : NoticeClass) (u n : Nat) (d : Detail) (q : List TxRecord) :
    (joinNotice cls u n d q).any TxRecord.isReply = q.any TxRecord.isReply := by
  induction q with
  | nil => rfl
  | cons r q ih =>
    unfold joinNotice
    split
    next h =>
      rw [List.any_cons, List.any_cons, TxRecord.isReply_of_isNotice h]
      rfl
    next => simp only [List.any_cons, ih]

@[simp] theorem Link.replySent_begin (l : Link) : l.begin.replySent = l.replySent := by
  unfold Link.begin
  split
  next hs hq => simp [Link.replySent, hs, hq, Bool.and_comm]
  next => rfl

@[simp] theorem Link.replySent_handNotice (l : Link) (cls : NoticeClass) (u n : Nat) (d : Detail) :
    (l.handNotice cls u n d).replySent = l.replySent := by
  rw [Link.handNotice, Link.replySent_begin]
  simp only [Link.replySent, joinNotice_any_isReply]

/-- A notice is no reply, so the decoder need not wait for it. -/
theorem replySent_raise (u : Nat) (d : Detail) (s : State) : (raise u d s).link.replySent = s.link.replySent := by
  rw [raise_link]
  split <;> simp

/-! ## The decoder (R191) -/

theorem serviceDecoder_waits (h : s.link.inBuf = [] ∨ s.link.replySent = false) : serviceDecoder s = s := by
  unfold serviceDecoder
  split
  next => rfl
  next hb => rw [if_neg (by simpa [hb] using h)]

theorem serviceDecoder_takes {rest : List LinkFrame} (hb : s.link.inBuf = f :: rest) (hr : s.link.replySent = true) :
    serviceDecoder s = runFrame f { s with link := { s.link with inBuf := rest } } := by
  simp only [serviceDecoder, hb, hr, if_true]

/-! ## The arrival of a frame (R190) -/

/-- A frame that finds four waiting is lost, and the decoder does nothing for its notice (R190). -/
theorem offer_overruns (hr : s.link.replySent = false) (hb : 4 ≤ s.link.inBuf.length) :
    serviceDecoder (offer f s) = raise 0 (.linkError .overrun f.kind f.tag) s := by
  have ho : offer f s = raise 0 (.linkError .overrun f.kind f.tag) s := if_neg (Nat.not_lt.2 hb)
  rw [ho]
  exact serviceDecoder_waits (.inr ((replySent_raise ..).trans hr))

theorem runFrame_unknownKind (h : kindIsKnown f.kind = false) (s : State) :
    runFrame f s = runUnknownKind f.kind f.tag s := by
  unfold runFrame
  split
  case h_40 => rfl
  all_goals
    rename_i hk
    simp [kindIsKnown, hk] at h

/-- A host command is the arrival of its frame with the effect that the decoder gives it (R190, R192). -/
theorem exec_hostCommand_arrive {c : Instr} (hw : c.wf = true) (hf : c.frame? = some f) (s : State) :
    exec c s = .next (arrive f (runFrame f) s) := by
  cases c
  case unknownKind kind tag body =>
    obtain rfl := Option.some.inj hf
    have hk : kindIsKnown kind = false := by
      simp only [Instr.wf, Bool.and_eq_true, Bool.not_eq_true'] at hw
      exact hw.1
    have hrun : runFrame ⟨kind, tag, body⟩ = runUnknownKind kind tag := funext fun s => runFrame_unknownKind hk s
    rw [hrun]
    rfl
  all_goals cases hf <;> rfl

/-- Settles O3: the arrival of the command's frame, by what the buffer and the transmitter hold. -/
theorem hostCommandIsItsCheckedFrame : Obligations.HostCommandIsItsCheckedFrame := by
  intro c f s hw hf
  rw [exec_hostCommand_arrive hw hf s]
  refine ⟨congrArg _ (arrive_eq_service f s), fun hr => ?_, fun hr hb => ?_, fun hr hb => ?_⟩
  · rw [arrive_ready f _ hr]
  · rw [arrive_pending f _ hr hb]
  · rw [arrive_eq_service, offer_overruns hr hb]

/-! ## Frames refused (R192) -/

/-- A frame that finds the decoder free, with a body that does not fit, is answered with BAD_LENGTH. -/
theorem arrive_badLength {α : Type} {kind tag : Byte} {parsed : Option α} {act : α → State → CmdResult} (hr : s.ready)
    (f : LinkFrame) (hp : parsed.isSome = false) :
    Host.Outcome.next (arrive f (runCommand kind tag parsed act) s) = answers kind tag s .badLength [] := by
  obtain rfl := Option.isNone_iff_eq_none.1 (Option.isSome_eq_false_iff.1 hp)
  rw [arrive_ready f _ hr]
  rfl

/-- Settles O4: each command reads its body before it acts, and a kind that names none is answered at once. -/
theorem badFramesAreRefused : Obligations.BadFramesAreRefused := by
  refine ⟨fun c f s hw hf hk hfit hr => ?_, fun kind tag body s _ hr => ?_⟩
  · cases c
    case unknownKind kind tag body =>
      obtain rfl := Option.some.inj hf
      simp [Instr.wf, hk] at hw
    all_goals cases hf <;> exact arrive_badLength hr _ hfit
  · exact congrArg _ (arrive_ready _ _ hr)

end Sys2Proof.Machine
end

section
/-!
PROOFS. The receiver (R188, R189): each byte by the receiver's state (O6), and a frame of the wire received whole (O5).
-/

-- Proofs checked in turn: side by side they need more threads than the memory limit of check.sh has room for.
set_option Elab.async false

namespace Sys2Proof.Machine

variable {s : State} {held bs : List Byte} {b x kind tag : Byte} {body : List Byte} {e : Bool}

@[simp] theorem State.setRx_setRx (s : State) (r r' : RxState) : (s.setRx r).setRx r' = s.setRx r' := rfl

theorem State.setRx_of_rx {r : RxState} (h : s.link.rx = r) : s.setRx r = s := by
  subst h
  rfl

/-! ## The bytes a frame holds (R189) -/

/-- A frame's bytes replace what the receiver held. -/
theorem frameHolds_setRx (bs : List Byte) (s : State) (r : RxState) :
    frameHolds bs (s.setRx r) = frameHolds bs s := by
  unfold frameHolds
  split <;> rfl

theorem frameHolds_tooLong (h : 250 < (bs.headD 0#8).toNat) :
    frameHolds bs s = linkError .length (s.setRx .hunt) := by
  cases bs with
  | nil => simp at h
  | cons len bs => exact if_pos h

theorem frameHolds_incomplete (hlen : (bs.headD 0#8).toNat ≤ 250) (h : bs.length < (bs.headD 0#8).toNat + 5) :
    frameHolds bs s = s.setRx (.inFrame bs false) := by
  cases bs with
  | nil => rfl
  | cons len bs => exact (if_neg (Nat.not_lt.2 hlen)).trans (if_neg (Nat.ne_of_lt h))

theorem frameHolds_complete (hlen : (bs.headD 0#8).toNat ≤ 250) (h : bs.length = (bs.headD 0#8).toNat + 5) :
    frameHolds bs s = completeFrame bs s := by
  cases bs with
  | nil => simp at h
  | cons len bs => exact (if_neg (Nat.not_lt.2 hlen)).trans (if_pos h)

theorem completeFrame_badCrc {n : Nat} (hn : bs.length = n + 2) (h : bs.drop n ≠ crcBytes (bs.take n)) :
    completeFrame bs s = linkError .crc (s.setRx .hunt) := by
  have hn : bs.length - 2 = n := by omega
  simp only [completeFrame, hn, if_neg h]

/-- The bytes of a frame as the receiver holds them in the end: the payload and its CRC (R188). -/
def heldFrame (kind tag : Byte) (body : List Byte) : List Byte :=
  framePayload kind tag body ++ crcBytes (framePayload kind tag body)

theorem heldFrame_length (kind tag : Byte) (body : List Byte) :
    (heldFrame kind tag body).length = body.length + 5 := by
  simp only [heldFrame, framePayload, crcBytes, List.length_append, List.length_cons, leBytes_length]

theorem heldFrame_head (kind tag : Byte) (hbody : body.length ≤ 250) :
    ((heldFrame kind tag body).headD 0#8).toNat = body.length := by
  show (byteOf body.length).toNat = body.length
  rw [byteOf_toNat]
  omega

/-- The length, kind, tag, body and CRC of a frame are taken back apart (R188, R190). -/
theorem completeFrame_whole (kind tag : Byte) (body : List Byte) (s : State) :
    completeFrame (heldFrame kind tag body) s = serviceDecoder (offer ⟨kind, tag, body⟩ (s.setRx .hunt)) := by
  have hn : (heldFrame kind tag body).length - 2 = (framePayload kind tag body).length := by
    rw [heldFrame_length]
    rfl
  unfold completeFrame
  dsimp only
  rw [hn, heldFrame, List.take_left, List.drop_left, if_pos rfl]
  rfl

theorem frameHolds_whole (kind tag : Byte) (hbody : body.length ≤ 250) (s : State) :
    frameHolds (heldFrame kind tag body) s = serviceDecoder (offer ⟨kind, tag, body⟩ (s.setRx .hunt)) := by
  have hlen := heldFrame_head kind tag hbody
  rw [frameHolds_complete (by rwa [hlen]) (by rw [hlen, heldFrame_length]), completeFrame_whole]

/-! ## One byte (R189) -/

theorem receiveByte_hunt (h : s.link.rx = .hunt) (b : Byte) :
    receiveByte s b = if b = syncByte then s.setRx (.inFrame [] false) else s := by
  simp only [receiveByte, h]

theorem receiveByte_plain (h : s.link.rx = .inFrame bs false) (b : Byte) : receiveByte s b = plainByte bs b s := by
  simp only [receiveByte, h]

theorem receiveByte_escaped (h : s.link.rx = .inFrame bs true) (b : Byte) :
    receiveByte s b = escapedByte bs b s := by
  simp only [receiveByte, h]

theorem plainByte_escape (bs : List Byte) (s : State) :
    plainByte bs escapeByte s = s.setRx (.inFrame bs true) := rfl

theorem plainByte_adds (hs : b ≠ syncByte) (he : b ≠ escapeByte) : plainByte bs b s = frameHolds (bs ++ [b]) s := by
  rw [plainByte, if_neg hs, if_neg he]

theorem escapedByte_sync (bs : List Byte) (s : State) :
    escapedByte bs syncByte s = linkError .broken (s.setRx (.inFrame [] false)) := rfl

theorem escapedByte_unknown (hs : b ≠ syncByte) (h : b ≠ escapedSync) (h' : b ≠ escapedEscape) :
    escapedByte bs b s = linkError .escape (s.setRx .hunt) := by
  rw [escapedByte, if_neg h, if_neg h', if_neg hs]

theorem addedByte_escaped_eq_some (h : addedByte true b = some x) :
    b = escapedSync ∧ x = syncByte ∨ b = escapedEscape ∧ x = escapeByte := by
  simp only [addedByte, if_true] at h
  split at h
  next hb => exact .inl ⟨hb, (Option.some.inj h).symm⟩
  next =>
    split at h
    next hb => exact .inr ⟨hb, (Option.some.inj h).symm⟩
    next => cases h

theorem addedByte_plain_eq_some (h : addedByte false b = some x) : b ≠ syncByte ∧ b ≠ escapeByte ∧ x = b := by
  simp only [addedByte, Bool.false_eq_true, if_false] at h
  split at h
  next => cases h
  next hb => exact ⟨fun hs => hb (.inl hs), fun he => hb (.inr he), (Option.some.inj h).symm⟩

/-- A byte that adds one to the frame. -/
theorem receiveByte_adds (h : s.link.rx = .inFrame bs e) (ha : addedByte e b = some x) :
    receiveByte s b = frameHolds (bs ++ [x]) s := by
  cases e with
  | true =>
    rw [receiveByte_escaped h]
    obtain ⟨rfl, rfl⟩ | ⟨rfl, rfl⟩ := addedByte_escaped_eq_some ha <;> rfl
  | false =>
    obtain ⟨hs, he, rfl⟩ := addedByte_plain_eq_some ha
    rw [receiveByte_plain h, plainByte_adds hs he]

/-- Settles O6: the byte by the receiver's state, and a byte that joins the frame by what the frame then holds. -/
theorem receiverTakesEachByte : Obligations.ReceiverTakesEachByte := by
  intro s b
  have hexec {t : State} (h : receiveByte s b = t) : exec (.linkFrameReceived [b]) s = .next t :=
    congrArg Host.Outcome.next h
  refine ⟨fun h hb => hexec ?_, fun h hb => hexec ?_, fun h hb => hexec ?_, fun x bs h hb => hexec ?_,
    fun bs h hb => hexec ?_, fun bs h hb => hexec ?_, fun bs h hs hf he => hexec ?_, fun bs e x h ha => ?_⟩
  · exact (receiveByte_hunt h b).trans (if_neg hb)
  · exact (receiveByte_hunt h b).trans (if_pos hb)
  · rw [receiveByte_plain h, hb]
    rfl
  · rw [receiveByte_plain h, hb]
    rfl
  · rw [receiveByte_plain h, hb]
    exact plainByte_escape bs s
  · rw [receiveByte_escaped h, hb]
    exact escapedByte_sync bs s
  · rw [receiveByte_escaped h]
    exact escapedByte_unknown hs hf he
  · intro held len
    have hadd : receiveByte s b = frameHolds held s := receiveByte_adds h ha
    refine ⟨fun hl => hexec ?_, fun hl hn => hexec ?_, fun hl hn hc => hexec ?_, fun kind tag body hl he => hexec ?_⟩
    · exact hadd.trans (frameHolds_tooLong hl)
    · exact hadd.trans (frameHolds_incomplete hl hn)
    · exact hadd.trans ((frameHolds_complete hl hn).trans (completeFrame_badCrc hn hc))
    · rw [hadd, he]
      exact frameHolds_whole kind tag hl s

/-! ## The bytes of the wire (R188) -/

/-- An escape byte and the byte after it add one byte to the frame. -/
theorem receiveBytes_escaped (h : s.link.rx = .inFrame held false) (ha : addedByte true b = some x) :
    receiveBytes [escapeByte, b] s = frameHolds (held ++ [x]) s :=
  calc receiveBytes [escapeByte, b] s
      = receiveByte (s.setRx (.inFrame held true)) b := by rw [← plainByte_escape, ← receiveByte_plain h]; rfl
    _ = frameHolds (held ++ [x]) (s.setRx (.inFrame held true)) := receiveByte_adds rfl ha
    _ = frameHolds (held ++ [x]) s := frameHolds_setRx ..

/-- The escapes of the wire are read back: a sent byte adds itself to the frame. -/
theorem receiveBytes_escapeOut (h : s.link.rx = .inFrame held false) (b : Byte) :
    receiveBytes (escapeOut b) s = frameHolds (held ++ [b]) s := by
  unfold escapeOut
  split
  next hs =>
    subst hs
    exact receiveBytes_escaped h rfl
  next hs =>
    split
    next he =>
      subst he
      exact receiveBytes_escaped h rfl
    next he => exact (receiveByte_plain h b).trans (plainByte_adds hs he)

theorem receiveBytes_append (bs bs' : List Byte) (s : State) :
    receiveBytes (bs ++ bs') s = receiveBytes bs' (receiveBytes bs s) := List.foldl_append

/-- The bytes sent of a frame are held one after the other; the last of them decides what the frame comes to. -/
theorem receiveBytes_held (h : s.link.rx = .inFrame held false) (hbs : bs ≠ [])
    (hlen : ((held ++ bs).headD 0#8).toNat ≤ 250)
    (hn : (held ++ bs).length ≤ ((held ++ bs).headD 0#8).toNat + 5) :
    receiveBytes (bs.flatMap escapeOut) s = frameHolds (held ++ bs) s := by
  induction bs generalizing held s with
  | nil => exact absurd rfl hbs
  | cons b bs ih =>
    rw [List.flatMap_cons, receiveBytes_append, receiveBytes_escapeOut h]
    cases bs with
    | nil => rfl
    | cons b' bs =>
      have hsplit : held ++ b :: b' :: bs = (held ++ [b]) ++ b' :: bs := List.append_cons ..
      have hhead : (held ++ [b]).headD 0#8 = (held ++ b :: b' :: bs).headD 0#8 := by cases held <;> rfl
      have hheld : frameHolds (held ++ [b]) s = s.setRx (.inFrame (held ++ [b]) false) := by
        refine frameHolds_incomplete (by rwa [hhead]) ?_
        rw [hhead]
        simp only [List.length_append, List.length_cons, List.length_nil] at hn ⊢
        omega
      rw [hsplit] at hlen hn ⊢
      rw [hheld]
      exact (ih rfl (List.cons_ne_nil _ _) hlen hn).trans (frameHolds_setRx ..)

/-- Settles O5: the sync byte begins the frame, and its bytes are received whole. -/
theorem wireFrameIsReceivedWhole : Obligations.WireFrameIsReceivedWhole := by
  intro kind tag body s hbody h
  have hsync : receiveByte s syncByte = s.setRx (.inFrame [] false) := by rw [receiveByte_hunt h, if_pos rfl]
  have hlen := heldFrame_head kind tag hbody
  refine congrArg Host.Outcome.next ?_
  calc receiveBytes (wireBytes kind tag body) s
      = receiveBytes ((heldFrame kind tag body).flatMap escapeOut) (s.setRx (.inFrame [] false)) := by
        rw [← hsync]; rfl
    _ = frameHolds (heldFrame kind tag body) (s.setRx (.inFrame [] false)) :=
        receiveBytes_held (held := []) (bs := heldFrame kind tag body) rfl (List.cons_ne_nil _ _)
          (by rwa [List.nil_append, hlen]) (by rw [List.nil_append, hlen, heldFrame_length])
    _ = serviceDecoder (offer ⟨kind, tag, body⟩ s) := by
        rw [frameHolds_whole kind tag hbody, State.setRx_setRx, State.setRx_of_rx h]

end Sys2Proof.Machine
end

section
/-!
PROOFS. The transmitter (R193; O7) and an event at its cell (R195; O8).
-/

-- Proofs checked in turn: side by side they need more threads than the memory limit of check.sh has room for.
set_option Elab.async false

namespace Sys2Proof.Machine

variable {s : State}

/-! ## The end of a record (R193) -/

/-- A transmitter that sends nothing takes the record at the front, if there is one. -/
theorem Link.begin_idle {l : Link} (h : l.sending = none) :
    l.begin = { l with sending := l.outQueue.head?, outQueue := l.outQueue.tail } := by
  obtain ⟨rx, inBuf, queue, sending, last⟩ := l
  subst h
  cases queue <;> rfl

theorem recordSent_next {r : TxRecord} (h : s.link.sending = some r) : recordSent s = serviceDecoder
    { s with link := { s.link with sending := s.link.outQueue.head?, outQueue := s.link.outQueue.tail,
                                   lastSent := some r.wire } } := by
  simp only [recordSent, h, Link.begin_idle]

/-- Settles O7: the record's end by what the buffer and the queue hold, then the wire forms. -/
theorem recordSentBeginsTheNext : Obligations.RecordSentBeginsTheNext := by
  refine ⟨fun s => ⟨fun h => ?_, fun r h => ?_⟩, fun _ _ _ _ => rfl, fun _ _ _ _ => rfl, fun d => ?_⟩
  · show Host.Outcome.next (recordSent s) = .next s
    simp only [recordSent, h]
  · intro l
    have hexec : exec .recordSent s = .next (serviceDecoder { s with link := l }) :=
      congrArg Host.Outcome.next (recordSent_next h)
    exact ⟨fun hw => hexec.trans (congrArg _ (serviceDecoder_waits hw)),
      fun f rest hb hr => hexec.trans (congrArg _ (serviceDecoder_takes hb hr))⟩
  · cases d <;> simp [Detail.bytes, Detail.markBytes, Detail.cls]

/-! ## A notice in the queue (R193) -/

theorem Link.begin_busy {l : Link} (h : l.sending ≠ none) : l.begin = l := by
  unfold Link.begin
  split
  next hs _ => exact absurd hs h
  next => rfl

/-- While a record is being sent, a notice handed over only changes the queue. -/
theorem Link.handNotice_busy {l : Link} (h : l.sending ≠ none) (cls : NoticeClass) (u n : Nat) (d : Detail) :
    l.handNotice cls u n d = { l with outQueue := joinNotice cls u n d l.outQueue } := Link.begin_busy h

section Join

variable {cls : NoticeClass} {u n : Nat} {d : Detail} {q before after : List TxRecord}

theorem joinNotice_append (h : ∀ r ∈ before, r.isNotice cls u = false) :
    joinNotice cls u n d (before ++ q) = before ++ joinNotice cls u n d q := by
  induction before with
  | nil => rfl
  | cons r before ih =>
    obtain ⟨hr, hbefore⟩ := List.forall_mem_cons.1 h
    rw [List.cons_append, joinNotice, if_neg (by simp [hr]), ih hbefore, List.cons_append]

/-- A notice that no waiting record folds with joins the end of the queue. -/
theorem joinNotice_new (h : ∀ r ∈ q, r.isNotice cls u = false) :
    joinNotice cls u n d q = q ++ [.notice cls u n d] := by
  simpa [joinNotice] using joinNotice_append (q := []) (n := n) (d := d) h

/-- The waiting record of its class and unit takes the new count and detail in its place. -/
theorem joinNotice_folds {n' : Nat} {d' : Detail} (h : ∀ r ∈ before, r.isNotice cls u = false) :
    joinNotice cls u n d (before ++ .notice cls u n' d' :: after) = before ++ .notice cls u n d :: after := by
  rw [joinNotice_append h, joinNotice, if_pos (by simp [TxRecord.isNotice])]

end Join

/-! ## The cell of an event (R195, R198) -/

theorem attn_of_cell {i : Nat} (hi : i < s.cells.length) (hl : (s.cell i).latch = true)
    (he : (s.cell i).enable = true) : s.attn = true := by
  have hmem : s.cell i ∈ s.cells := by
    rw [State.cell, List.getD_eq_getElem _ _ hi]
    exact List.getElem_mem hi
  exact List.any_eq_true.2 ⟨_, hmem, by rw [hl, he]; rfl⟩

/-- Settles O8: the event's cell takes it and the transmitter its record; the queue folds or grows. -/
theorem raisedEventReachesItsCell : Obligations.RaisedEventReachesItsCell := by
  refine ⟨?_, fun l cls u n d hs => ⟨fun h => ?_, fun before after n' d' h hq => ?_⟩⟩
  · intro u d s i c n hi _ t
    have hcell : t.cell i = { c with latch := true, count := n, detail := some d } :=
      (raise_cell u d s i).trans (if_pos ⟨rfl, hi⟩)
    refine ⟨hcell, fun j hj => (raise_cell u d s j).trans (if_neg fun h => hj h.1), rfl, fun h => ?_,
      fun hl he => (raise_link u d s).trans (if_pos ⟨hl, he⟩), fun he => ?_⟩
    · refine (raise_link u d s).trans (if_neg fun ⟨hl, he⟩ => ?_)
      exact h.elim (fun h => absurd (h.symm.trans hl) (by decide)) fun h => absurd (h.symm.trans he) (by decide)
    · exact attn_of_cell (by rwa [raise_cells_length]) (by rw [hcell]) (by rw [hcell]; exact he)
  · rw [Link.handNotice_busy hs, joinNotice_new h]
  · rw [Link.handNotice_busy hs, hq, joinNotice_folds h]

end Sys2Proof.Machine
end

section
/-!
PROOFS. The commands that write notice cells: SET_NOTICES (R197) and ACK_NOTICE (R196), each cell named once (O9).
-/

-- Proofs checked in turn: side by side they need more threads than the memory limit of check.sh has room for.
set_option Elab.async false

namespace Sys2Proof.Machine

variable {s t : State} {ks : List (NoticeClass × Nat)}

/-- Where a class and unit stand in cell order. -/
abbrev cellOf (k : NoticeClass × Nat) : Nat := cellIndex k.1 k.2

/-! ## The cells a command names (R194, R196, R197) -/

/-- Each cell is named once, and it is one of the 54. -/
structure CellsNamed (ks : List (NoticeClass × Nat)) : Prop where
  once : (ks.map cellOf).Nodup
  inside : ∀ k ∈ ks, cellOf k < 54

theorem cellsNamed_all : CellsNamed allCells := ⟨by decide, by decide⟩

theorem NoticeClass.cells_end (c : NoticeClass) : c.firstCell + c.units ≤ 54 := by cases c <;> decide

theorem cellsNamed_class (c : NoticeClass) : CellsNamed ((List.range c.units).map fun u => (c, u)) where
  once := by
    rw [List.map_map]
    exact List.nodup_range.map fun u v h => Nat.add_left_cancel h
  inside k hk := by
    obtain ⟨u, hu, rfl⟩ := List.mem_map.1 hk
    exact Nat.lt_of_lt_of_le (Nat.add_lt_add_left (List.mem_range.1 hu) _) c.cells_end

theorem cellsNamed_single {c : NoticeClass} {u : Nat} (h : u < c.units) : CellsNamed [(c, u)] where
  once := List.nodup_singleton _
  inside k hk := by
    obtain rfl := List.mem_singleton.1 hk
    exact Nat.lt_of_lt_of_le (Nat.add_lt_add_left h _) c.cells_end

theorem namedCells?_cellsNamed {cls unit : Nat} (h : namedCells? cls unit = some ks) : CellsNamed ks := by
  unfold namedCells? at h
  split at h
  next =>
    split at h
    next => exact Option.some.inj h ▸ cellsNamed_all
    next => cases h
  next =>
    split at h
    next => cases h
    next c _ =>
      split at h
      next => exact Option.some.inj h ▸ cellsNamed_class c
      next =>
        split at h
        next hu => exact Option.some.inj h ▸ cellsNamed_single hu
        next => cases h

/-! ## One write for each cell named -/

theorem State.cell_of_set_self {i : Nat} {c : Cell} (h : t.cells = s.cells.set i c) (hi : i < s.cells.length) :
    t.cell i = c := by
  simp [State.cell, h, hi]

theorem State.cell_of_set_ne {i j : Nat} {c : Cell} (h : t.cells = s.cells.set i c) (hj : j ≠ i) :
    t.cell j = s.cell j := by
  simp [State.cell, h, hj.symm]

/-- Cells written one after the other, each once: every cell named is written from what it held at first. -/
theorem foldl_cells {op : State → NoticeClass × Nat → State} {w : Cell → Cell}
    (hop : ∀ s k, (op s k).cells = s.cells.set (cellOf k) (w (s.cell (cellOf k))))
    (hn : (ks.map cellOf).Nodup) (hin : ∀ k ∈ ks, cellOf k < s.cells.length) (i : Nat) :
    (ks.foldl op s).cell i = if i ∈ ks.map cellOf then w (s.cell i) else s.cell i := by
  induction ks generalizing s with
  | nil => rfl
  | cons k ks ih =>
    obtain ⟨hk, hn⟩ := List.nodup_cons.1 hn
    obtain ⟨hlt, hin⟩ := List.forall_mem_cons.1 hin
    have hlen : (op s k).cells.length = s.cells.length := by rw [hop, List.length_set]
    rw [List.foldl_cons, ih hn (by rwa [hlen]), List.map_cons]
    by_cases hi : i = cellOf k
    · rw [hi, if_neg hk, if_pos List.mem_cons_self, State.cell_of_set_self (hop s k) hlt]
    · simp only [State.cell_of_set_ne (hop s k) hi, List.mem_cons, hi, false_or]

/-- What the two commands leave in the cells of a part with its 54: those named are written, the others stay. -/
theorem CellsNamed.foldl (h : CellsNamed ks) (hlen : s.cells.length = 54) {op : State → NoticeClass × Nat → State}
    {w : Cell → Cell} (hop : ∀ s k, (op s k).cells = s.cells.set (cellOf k) (w (s.cell (cellOf k)))) :
    (∀ k ∈ ks, (ks.foldl op s).cell (cellOf k) = w (s.cell (cellOf k))) ∧
      ∀ i, (∀ k ∈ ks, i ≠ cellOf k) → (ks.foldl op s).cell i = s.cell i := by
  have hcell := foldl_cells hop h.once (s := s) (by rw [hlen]; exact h.inside)
  refine ⟨fun k hk => (hcell _).trans (if_pos (List.mem_map_of_mem hk)), fun i hi => (hcell _).trans (if_neg ?_)⟩
  intro hmem
  obtain ⟨k, hk, rfl⟩ := List.mem_map.1 hmem
  exact hi k hk rfl

/-! ## SET_NOTICES (R197) -/

/-- What one cell of SET_NOTICES hands to the transmitter: the record of a latched cell that goes from off to on. -/
def enableRecord (b : Bool) (s : State) (l : Link) (k : NoticeClass × Nat) : Link :=
  let c := s.cell (cellIndex k.1 k.2)
  match c.detail with
  | some d => if b = true ∧ c.enable = false ∧ c.latch = true then l.handNotice k.1 k.2 c.count d else l
  | none => l

theorem enableCell_eq (b : Bool) (s : State) (k : NoticeClass × Nat) : enableCell b s k =
    { s with cells := s.cells.set (cellOf k) { s.cell (cellOf k) with enable := b },
             link := enableRecord b s s.link k } := by
  unfold enableCell enableRecord
  dsimp only
  cases hd : (s.cell (cellIndex k.1 k.2)).detail with
  | none => rfl
  | some d =>
    dsimp only
    by_cases h : b = true ∧ (s.cell (cellIndex k.1 k.2)).enable = false ∧ (s.cell (cellIndex k.1 k.2)).latch = true
    · rw [if_pos (by simp [h]), if_pos h]
    · rw [if_neg (by simpa [and_assoc] using h), if_neg h]

theorem enableCell_cells (b : Bool) (s : State) (k : NoticeClass × Nat) : (enableCell b s k).cells =
    s.cells.set (cellOf k) { s.cell (cellOf k) with enable := b } := by rw [enableCell_eq]

/-- The records of a cell depend on that cell alone, so the writes before it do not change them. -/
theorem enableRecord_congr (b : Bool) {k : NoticeClass × Nat} (h : t.cell (cellOf k) = s.cell (cellOf k)) (l : Link) :
    enableRecord b t l k = enableRecord b s l k := by
  simp only [enableRecord, cellOf] at h ⊢
  rw [h]

theorem foldl_enableCell_link (b : Bool) (hn : (ks.map cellOf).Nodup) (s : State) :
    (ks.foldl (enableCell b) s).link = ks.foldl (enableRecord b s) s.link := by
  induction ks generalizing s with
  | nil => rfl
  | cons k ks ih =>
    obtain ⟨hk, hn⟩ := List.nodup_cons.1 hn
    have hrest : ∀ l, ∀ k' ∈ ks, enableRecord b (enableCell b s k) l k' = enableRecord b s l k' := fun l k' hk' => by
      have hne : cellOf k' ≠ cellOf k := fun e => hk (e ▸ List.mem_map_of_mem hk')
      exact enableRecord_congr b (State.cell_of_set_ne (enableCell_cells b s k) hne) l
    rw [List.foldl_cons, ih hn, List.foldl_cons, List.foldl_ext _ _ _ hrest, enableCell_eq]

theorem foldl_enableCell_frame (b : Bool) (ks : List (NoticeClass × Nat)) (s : State) : ks.foldl (enableCell b) s =
    { s with cells := (ks.foldl (enableCell b) s).cells, link := (ks.foldl (enableCell b) s).link } := by
  induction ks generalizing s with
  | nil => rfl
  | cons k ks ih =>
    rw [List.foldl_cons, ih, enableCell_eq]

theorem exec_setNotices {st : Status} {result : List Byte} (hr : s.ready) (tag cls unit on : Byte)
    (h : cmdSetNotices cls.toNat unit.toNat on.toNat s = ⟨t, st, result⟩) :
    exec (.setNotices tag [cls, unit, on]) s = answers 6#8 tag t st result :=
  arrive_answers (act := fun a : Nat × Nat × Nat => cmdSetNotices a.1 a.2.1 a.2.2) hr ⟨6#8, tag, _⟩ rfl h

theorem onOff?_boolByte (b : Bool) : onOff? (boolByte b).toNat = some b := by cases b <;> rfl

theorem cmdSetNotices_writes {cls unit : Nat} (h : namedCells? cls unit = some ks) (b : Bool) (s : State) :
    cmdSetNotices cls unit (boolByte b).toNat s = done (ks.foldl (enableCell b) s) false
      (packBits 7 ((ks.foldl (enableCell b) s).cells.map (·.enable))) := by
  simp only [cmdSetNotices, h, onOff?_boolByte]

theorem foldl_enableRecord_off (ks : List (NoticeClass × Nat)) (s : State) (l : Link) :
    ks.foldl (enableRecord false s) l = l := by
  induction ks generalizing l with
  | nil => rfl
  | cons k ks ih =>
    have hk : enableRecord false s l k = l := by
      unfold enableRecord
      dsimp only
      split
      next => exact if_neg fun h => Bool.false_ne_true h.1
      next => rfl
    rw [List.foldl_cons, hk, ih]

/-! ## ACK_NOTICE (R196) -/

theorem foldl_ackCell_frame (ks : List (NoticeClass × Nat)) (s : State) :
    ks.foldl ackCell s = { s with cells := (ks.foldl ackCell s).cells } := by
  induction ks generalizing s with
  | nil => rfl
  | cons k ks ih => exact ih (ackCell s k)

theorem exec_ackNotice {st : Status} {result : List Byte} (hr : s.ready) (tag cls unit : Byte)
    (h : cmdAckNotice cls.toNat unit.toNat s = ⟨t, st, result⟩) :
    exec (.ackNotice tag [cls, unit]) s = answers 37#8 tag t st result :=
  arrive_answers (act := fun a : Nat × Nat => cmdAckNotice a.1 a.2) hr ⟨37#8, tag, _⟩ rfl h

/-- Settles O9: the refusals of both commands, and their writes cell by cell, each cell named once. -/
theorem noticeCommandsWriteTheirCells : Obligations.NoticeCommandsWriteTheirCells := by
  refine ⟨fun s tag cls unit hr hlen => ⟨fun hnone on => exec_setNotices hr tag cls unit on ?_,
    fun on hon => exec_setNotices hr tag cls unit on ?_, fun ks b hks => ?_⟩,
    fun s tag cls unit hr hlen => ⟨fun hnone => exec_ackNotice hr tag cls unit ?_, fun ks hks => ?_⟩⟩
  · simp only [cmdSetNotices, hnone, refuse]
  · rw [cmdSetNotices, onOff?_eq, if_pos hon]
    cases namedCells? cls.toNat unit.toNat <;> rfl
  · have hnamed := namedCells?_cellsNamed hks
    obtain ⟨hcells, hothers⟩ := hnamed.foldl hlen (w := fun c => { c with enable := b }) (enableCell_cells b)
    have hlink := foldl_enableCell_link b hnamed.once s
    refine ⟨_, exec_setNotices hr tag cls unit _ (cmdSetNotices_writes hks b s), hcells, hothers,
      foldl_enableCell_frame b ks s, fun hb => ?_, hlink, fun k d hk hb he hl hd => ?_⟩
    · rw [hlink, hb, foldl_enableRecord_off]
    · rw [hlink, hk, List.foldl_cons, List.foldl_nil]
      simp only [enableRecord, hd, hb, he, hl, and_self, if_true]
  · simp only [cmdAckNotice, hnone, refuse]
  · have hnamed := namedCells?_cellsNamed hks
    obtain ⟨hcells, hothers⟩ := hnamed.foldl hlen (op := ackCell)
      (w := fun c => { c with latch := false, count := 0, detail := none }) fun s k => rfl
    refine ⟨_, exec_ackNotice hr tag cls unit ?_, hcells, hothers, foldl_ackCell_frame ks s⟩
    simp only [cmdAckNotice, hks]
    rfl

end Sys2Proof.Machine
end
